-- ==== Sys2Proof/Word.lean ====
section
/-! DEFINITION. The plain words every other file speaks of: bytes, 64-bit words and keyed tables.
The module is a block: it has no program counter and no instruction word of its own. -/

namespace Sys2Proof

/-- One byte. -/
abbrev Byte := BitVec 8

/-- A string of bytes, lowest address first. -/
abbrev Bytes := List Byte

/-- A 64-bit word, little-endian in memory (R7). -/
abbrev W64 := BitVec 64

/-- A 32-bit word. -/
abbrev W32 := BitVec 32

/-- A tile descriptor: 64 bytes, bit 0 is bit 0 of byte 0 (R120). -/
abbrev W512 := BitVec 512

/-- A ten-bit symbol of a link's forward error correction (R371). -/
abbrev Sym := BitVec 10

/-- One 16-byte slot of a link flit (R373). -/
abbrev Slot := BitVec 128

/-- A sparse table: pairs of a key and a value, keys strictly rising, and no value equal to what an
unlisted key reads as. `Sys2Proof.Machine.Tbl.get` and `Sys2Proof.Machine.Tbl.set` read and write it. DESIGN CHOICE, log entry 134. -/
abbrev Tbl (α : Type) := List (Nat × α)

end Sys2Proof
end

