-- ==== Sys2Proof/Machine/Table.lean ====
section
/-! DEFINITION. Sparse tables in one canonical form: keys strictly rising, no value equal to the default
an unlisted key reads as. Memory is the table of bytes. Equal contents are equal data. -/

namespace Sys2Proof.Machine

/-- What key `k` holds; `d` where the table lists nothing. -/
def Tbl.get {α : Type} (d : α) : Tbl α → Nat → α
  | [], _ => d
  | (a, v) :: t, k => if k = a then v else if k < a then d else Tbl.get d t k

/-- What key `k` lists, if anything. -/
def Tbl.find {α : Type} : Tbl α → Nat → Option α
  | [], _ => none
  | (a, v) :: t, k => if k = a then some v else if k < a then none else Tbl.find t k

/-- Insert `v` at `k`, keeping the keys rising. -/
def Tbl.put {α : Type} : Tbl α → Nat → α → Tbl α
  | [], k, v => [(k, v)]
  | (a, w) :: t, k, v => if k < a then (k, v) :: (a, w) :: t else if k = a then (k, v) :: t else (a, w) :: Tbl.put t k v

/-- Remove what `k` lists. -/
def Tbl.del {α : Type} : Tbl α → Nat → Tbl α
  | [], _ => []
  | (a, w) :: t, k => if k < a then (a, w) :: t else if k = a then t else (a, w) :: Tbl.del t k

/-- Key `k` takes `v`: listed when it differs from the default `d`, unlisted otherwise. -/
def Tbl.set {α : Type} [DecidableEq α] (d : α) (t : Tbl α) (k : Nat) (v : α) : Tbl α :=
  if v = d then Tbl.del t k else Tbl.put t k v

/-- Apply `f` to what key `k` holds. -/
def Tbl.upd {α : Type} [DecidableEq α] (d : α) (t : Tbl α) (k : Nat) (f : α → α) : Tbl α :=
  Tbl.set d t k (f (Tbl.get d t k))

/-- Keys are above `lo` and strictly rising, and no value is the default. -/
def Tbl.okFrom {α : Type} [DecidableEq α] (d : α) : Nat → Tbl α → Bool
  | _, [] => true
  | lo, (a, v) :: t => decide (lo ≤ a) && decide (v ≠ d) && Tbl.okFrom d (a + 1) t

/-- The canonical form. -/
def Tbl.ok {α : Type} [DecidableEq α] (d : α) (t : Tbl α) : Bool := Tbl.okFrom d 0 t

/-- Rewrite every listed value by `f`, dropping what becomes the default. -/
def Tbl.mapVals {α : Type} [DecidableEq α] (d : α) (f : Nat → α → α) : Tbl α → Tbl α
  | [] => []
  | (a, v) :: t => if f a v = d then Tbl.mapVals d f t else (a, f a v) :: Tbl.mapVals d f t

/-- Memory: a table of bytes; an unlisted address reads as zero (DESIGN CHOICE, log entry 5). -/
abbrev Memory := List (Nat × Byte)

/-- The byte at address `a`. -/
def Memory.rd (m : Memory) (a : Nat) : Byte := Tbl.get 0#8 m a

/-- The byte at address `a` becomes `b`. -/
def Memory.wr (m : Memory) (a : Nat) (b : Byte) : Memory := Tbl.set 0#8 m a b

/-- The canonical form of a memory. -/
def Memory.wf (m : Memory) : Bool := Tbl.ok 0#8 m

/-- `n` bytes from `a` upward. -/
def Memory.rdN (m : Memory) (a : Nat) : Nat → Bytes
  | 0 => []
  | n + 1 => m.rd a :: Memory.rdN m (a + 1) n

/-- The bytes `bs` are stored from `a` upward. -/
def Memory.wrN (m : Memory) (a : Nat) : Bytes → Memory
  | [] => m
  | b :: bs => Memory.wrN (m.wr a b) (a + 1) bs

/-- Little-endian value of a byte string (R7). -/
def leNat : Bytes → Nat
  | [] => 0
  | b :: bs => b.toNat + 256 * leNat bs

/-- The `n` little-endian bytes of `v` (R7). -/
def leBytes : Nat → Nat → Bytes
  | 0, _ => []
  | n + 1, v => BitVec.ofNat 8 v :: leBytes n (v / 256)

/-- The `n`-byte little-endian value at address `a`. -/
def Memory.rdLe (m : Memory) (a n : Nat) : Nat := leNat (m.rdN a n)

/-- The `n`-byte little-endian value `v` is stored at address `a`. -/
def Memory.wrLe (m : Memory) (a n v : Nat) : Memory := m.wrN a (leBytes n v)

/-- Bits `hi` down to `lo` of a number (R7). -/
def bits (w hi lo : Nat) : Nat := w / 2 ^ lo % 2 ^ (hi - lo + 1)

/-- `w` with bits `hi` down to `lo` replaced by `v`. -/
def setBits (w hi lo v : Nat) : Nat :=
  w - bits w hi lo * 2 ^ lo + v % 2 ^ (hi - lo + 1) * 2 ^ lo

/-- Two's complement value of the low `n` bits of `v`. -/
def toSigned (n v : Nat) : Int :=
  if v % 2 ^ n < 2 ^ (n - 1) then (v % 2 ^ n : Nat) else ((v % 2 ^ n : Nat) : Int) - (2 ^ n : Nat)

/-- The low `n` bits of an integer. -/
def ofSigned (n : Nat) (v : Int) : Nat := (v % ((2 ^ n : Nat) : Int)).toNat

/-- A count that stops at `cap`. -/
def satAdd (cap v n : Nat) : Nat := Nat.min cap (v + n)

/-- Quotient rounded up. -/
def ceilDiv (a b : Nat) : Nat := (a + b - 1) / b

end Sys2Proof.Machine
end

