-- ==== Sys2Proof/Machine/Parts.lean ====
section
/-! DEFINITION. The parts of a job's state that a cut holds, as plain data: cores, dispatchers, pages, sequences, codec
sessions, steps, descriptors and completions, and the cut itself. -/

namespace Sys2Proof.Machine

/-! ### Cores and dispatchers (R83 to R117, R151 to R156) -/

/-- A tile-queue or replay-buffer entry: the descriptor, the mailbox word captured at its first issue (R92), whether
it is re-executed, whether an earlier execution delivered its counter increment and post (R432), and the result a
TKT_FAA received before a fence (R156). -/
structure QEntry where
  desc : W512 := 0
  word : Option W64 := none
  reexec : Bool := false
  delivered : Bool := false
  faa : Option W64 := none
  /-- The barrier generation carried by a BARRIER's first execution (R98). -/
  gen : Option W32 := none
  /-- Order of issue on the core, once issued. -/
  ord : Nat := 0
deriving DecidableEq, Repr

/-- An instruction in flight (R90, R145): its entry, the status and post word it completes with, the beat of its
issue (R436), the pages it pins, whether it writes them, its walk's sequence and version (R170), and whether it closes
a claim. -/
structure Flight where
  q : QEntry := {}
  status : Nat := 0
  word : Option W64 := none
  beat : Nat := 0
  pages : List Nat := []
  writes : List Nat := []
  walk : Option (Nat × W32) := none
  closes : Bool := false
  /-- Core-memory ranges read and written, as (start, length). -/
  rd : List (Nat × Nat) := []
  wr : List (Nat × Nat) := []
deriving DecidableEq, Repr

/-- An open claim: record index, instructions issued in the work tile, and the status that the rest of the work tile
completes with after SKIP or STALE (R152, R154). -/
structure Claim where
  idx : Nat := 0
  count : Nat := 0
  doom : Option Nat := none
  /-- Its GUARD has issued: what issues after it is outside the work tile (R152). -/
  guarded : Bool := false
deriving DecidableEq, Repr

/-- A logical core: what R83 gives the physical core it runs on. -/
structure Core where
  mem : Memory := []
  /-- 8-byte words that read uncorrectable, by word number (R86). -/
  bad : List Nat := []
  queue : List QEntry := []
  mboxWord : Tbl W64 := []
  mboxCount : Tbl Nat := []
  ovf : BitVec 16 := 0
  /-- Generation of the core's next arrival at each context (R98). -/
  barGen : Tbl W32 := []
  /-- Codebook banks: the FP32 value of entry e of the 16-entry table at bank × 1,024 + e and of the 256-entry table at
  bank × 1,024 + 512 + e, and ACTIVE (R216). -/
  tbl : Tbl W32 := []
  bank : Nat := 0
  /-- Generator state (R74). -/
  rng : W64 := 0
  comp : Option Flight := none
  move : Option Flight := none
  claim : Option Claim := none
  /-- Issued instructions of the open work tile, oldest first (R155). -/
  replay : List QEntry := []
  /-- The core issues nothing until the repair takes effect (R430). -/
  held : Bool := false
  /-- Its memory is being copied from the core it replaced (R114). -/
  copying : Bool := false
  /-- Beat in which the head's residency check began, and whether its stall has been raised (R233). -/
  check : Option Nat := none
  /-- It has been admitted (R231). -/
  admitted : Bool := false
  checkPage : Nat := 0
  /-- The walk that the head opened, as sequence and version (R170). -/
  checkWalk : Option (Nat × W32) := none
  /-- Words 4 and 5 of its sequence as that walk read them (R161). -/
  checkGeom : Option (Nat × Nat) := none
  /-- Pages that the head's check has pinned, for reading and for writing (R229). -/
  pinR : List Nat := []
  pinW : List Nat := []
  stalled : Bool := false
  /-- Declared failed or late, with its fault class (R435, R437). -/
  failed : Option Nat := none
  /-- Status that awaits its repair at a boundary, and the instructions that failed and are to be re-executed, in the order in which they
  completed (R430 to R432). -/
  repair : Option Nat := none
  redo : List QEntry := []
  /-- Instructions issued so far, which orders them. -/
  issued : Nat := 0
deriving DecidableEq, Repr

/-- Why a hart stalls in a CSR access (R108, R98). -/
inductive Stall where
  | ccwait (rd counter : Nat) (target : W32) (t : Nat)
  | barrier (rd ctx : Nat) (gen : W32)
deriving DecidableEq, Repr

/-- A dispatcher: its hart (R100), local memory (R101) and registers (R105). The PMP entries hold what the firmware programs, so that
U-mode reaches the control-code part of local memory and the scratchpad window alone (R101). PRESUMED, log entry 144. -/
structure Disp where
  dlm : Memory := []
  x : Tbl W64 := []
  f : Tbl W64 := []
  fcsr : W32 := 0
  pc : W64 := 0
  umode : Bool := false
  /-- FS is Initial, as the firmware sets it for control code. -/
  mstatus : W64 := 0x2000
  mtvec : W64 := 0
  mepc : W64 := 0
  mcause : W64 := 0
  mtval : W64 := 0
  /-- Local interrupt 16 is enabled, as the firmware sets it. -/
  mie : W64 := 0x10000
  mip : W64 := 0
  mscratch : W64 := 0
  /-- Counters and what controls them: a count of cycles and the retirements it was taken after, the count of instructions, the
  inhibit and enable bits, and menvcfg. -/
  mcycle : W64 := 0
  cycleFrom : Nat := 0
  minstret : W64 := 0
  mcountinhibit : W32 := 0
  mcounteren : W32 := 0
  menvcfg : W64 := 0
  /-- Instructions retired, and the length of the instruction in execution. -/
  retired : Nat := 0
  len : W64 := 4
  pmpcfg : Tbl (BitVec 8) := [(0, 0x08), (1, 0x0f), (2, 0x08), (3, 0x0b)]
  pmpaddr : Tbl W64 := [(0, 0x4000), (1, 0x10000), (2, 0x400000000), (3, 0x418000000)]
  mboxData : W64 := 0
  tktSel : W64 := 0
  /-- CORE_CCNT0 to CORE_CCNT63. -/
  ccnt : Tbl W64 := []
  stall : Option Stall := none
  /-- Load-reserved reservation: hart address and size (R284). -/
  resv : Option (Nat × Nat) := none
  /-- Generation of the next arrival at each context, and of an arrival sent before an interrupt (R98). -/
  barGen : Tbl W32 := []
  barSent : Option (Nat × W32) := none
  /-- The running part: none, or its end status and a0 once ended (R348). -/
  running : Bool := false
  ended : Option (Nat × W64) := none
  /-- Firmware part stopped by a fault (R434). -/
  stopped : Bool := false
deriving DecidableEq, Repr

/-- A barrier context (R97, R98): participants are core numbers below 8,192 and dispatcher numbers above. -/
structure Bar where
  valid : Bool := false
  whole : Bool := false
  parts : Nat := 0
  die : Nat := 0
  gen : W32 := 0
  arrived : List Nat := []
  /-- Arrivals held for the next generation. -/
  next : List Nat := []
  /-- Mailbox slot each core participant named (R135). -/
  slot : Tbl Nat := []
  nextSlot : Tbl Nat := []
deriving DecidableEq, Repr

/-- A post in flight (R92, R93): its destination as core × 16 + slot, its source (a core, 8,192 + a dispatcher, 16,384 + a barrier
context, or 32,768 for a link engine), and its word. -/
structure Post where
  key : Nat := 0
  src : Nat := 0
  word : W64 := 0
deriving DecidableEq, Repr

/-- A ticket counter (R109). -/
structure Ticket where
  value : W64 := 0
  limit : W64 := 0
deriving DecidableEq, Repr

/-! ### Codec sessions (R462 to R490) -/

/-- A source picture that a session has queued: its address, its region entries, and whether it is coded as a key
picture (R473, R480). -/
structure CdcPic where
  src : Nat := 0
  roi : List Nat := []
  key : Bool := false
deriving DecidableEq, Repr

/-- A codec session (R469, R470): STATE (0 CLOSED, 1 OPEN, 2 FAILED) and the session block as its 128 bytes; the counts
of CDC_SESs_STATUS; pictures queued, pictures since the last key picture, and the modelled buffer's contents in units of
1/(90,000 × FPS_NUM) bit (R473, R477); slots output and slots held as references (R474), the slot decoded last with
whether it holds 10-bit samples (R483), the units decoded since OPEN as the pieces that decoding recognises, the picture in each slot by its
number in decoding order, the pictures decoded, and the damage map of the picture in each slot (R463, R475, R484). -/
structure CdcSes where
  state : Nat := 0
  block : List Byte := []
  pictures : Nat := 0
  damaged : Nat := 0
  queued : List CdcPic := []
  since : Nat := 0
  buf : Nat := 0
  held : List Nat := []
  refs : List Nat := []
  last : Option (Nat × Bool) := none
  stream : List (List Bytes) := []
  slotPic : Tbl Nat := []
  decoded : Nat := 0
  maps : Tbl (List Nat) := []
deriving DecidableEq, Repr

/-- The picture or mini-GOP that an engine works on: its descriptor and session, the beat it started once its pages are
pinned, those pages, whether it has been restarted (R488), the blocks abandoned with their damage codes (R481), the blocks completed, and
whether the engine has stopped for a pre-emption with its context saved (R54). -/
structure CdcRun where
  sq : Nat := 0
  seq : Nat := 0
  ses : Nat := 0
  start : Option Nat := none
  rd : List Nat := []
  wr : List Nat := []
  replayed : Bool := false
  gone : List (Nat × Nat) := []
  blocks : Nat := 0
  stopped : Bool := false
deriving DecidableEq, Repr

/-- What a codec engine keeps outside the job (R488, CDC_CEn_STATUS): pictures, resets, its last session, the beat of a
reset, the epochs of its failures, FAILED, and the words of its base die's reference store that it uses and that read uncorrectable, by byte
offset (R281). -/
structure CdcEng where
  pictures : Nat := 0
  resets : Nat := 0
  ses : Nat := 0
  resetAt : Option Nat := none
  failEpoch : Option Nat := none
  failed : Bool := false
  badStore : List Nat := []
deriving DecidableEq, Repr

/-! ### Pages, sequences and cuts (R158 to R175, R221 to R261) -/

/-- A page of the device virtual range (R226), with what the tier manager keeps of it. -/
structure Page where
  /-- STATE of R226: 0 UNBACKED, 1 HBM, 2 STORE, 3 BOTH, 4 FETCHING, 5 DEMOTING, 6 ZERO. -/
  state : Nat := 0
  stack : Nat := 0
  frame : Nat := 0
  age : Nat := 0
  cow : Bool := false
  dirty : Bool := false
  capped : Bool := false
  region : Nat := 0
  /-- Pins of tile instructions and walks, those of them that write, and pins of other units (R231). -/
  pins : Nat := 0
  wpins : Nat := 0
  opins : Nat := 0
  /-- A cap that waits for write pins, and a cap journal write that is not acknowledged (R244, R245). -/
  capWait : Bool := false
  capWrite : Bool := false
  /-- Counted in D since the last cut (R260). -/
  touched : Bool := false
  /-- References of R172. -/
  refs : Nat := 0
  /-- Granted by the current step (R248), and DEMOTE hint (R236). -/
  placed : Bool := false
  demote : Bool := false
  /-- Epochs of the last four in which it was demand-fetched, bit 0 the current one, and evicted since (R237). -/
  fetched : Nat := 0
  evicted : Bool := false
  /-- Queued for promotion: 1 by PREFETCH, 2 by the policy (R236, R237). -/
  promo : Nat := 0
  /-- Listed for a placement move (R237). -/
  move : Bool := false
  /-- Uncorrectable 64-byte sectors of the frame, by sector number in the page, and a drop awaited (R439). -/
  bad : List Nat := []
  drop : Bool := false
  /-- Beat in which the drop was called for, and whether the tier manager has acted on the frame (R439). -/
  dropAt : Nat := 0
  acted : Bool := false
  /-- The stack that still holds the undurable cut's snapshot after a copy on write (R258). -/
  snap : Option Nat := none
  /-- The store image cannot be read (R442), and a demand fetch is in progress. -/
  lost : Bool := false
  fetching : Bool := false
  /-- 4 KiB bursts of a fetch or a placement move that the forager has reported moved (R54). -/
  bursts : Nat := 0
  /-- Bytes of a fetch that the store has read and the base die's link has carried (R238). -/
  got : Nat := 0
  /-- The translation entry: the page's newest store image in the store's log; 0 for none (R288). -/
  img : Nat := 0
  /-- STATE, AGE and CAPPED as the eviction scan last read them, AGE advanced since (R243). -/
  scan : Option (Nat × Nat × Bool) := none
deriving DecidableEq, Repr

/-- A superseded version (R170, R173): its number, its root block (address / 4,096), and the walks that pin it. -/
structure Version where
  num : W32 := 0
  root : Option Nat := none
  walks : Nat := 0
deriving DecidableEq, Repr

/-- An edit in progress (R167, R168): NEW_ROOT's block, or none for the empty version, whether it has been validated,
and its new blocks with their levels (0 root, 1 directory, 2 leaf). -/
structure Edit where
  word : W64 := 0
  valid : Bool := false
  blocks : List (Nat × Nat) := []
deriving DecidableEq, Repr

/-- The module-internal state of a sequence (R159, R160, R167 to R173). -/
structure Seq where
  version : W32 := 0
  /-- Newest retired version; none has retired at JOB_OPEN (DESIGN CHOICE, log entry 17). -/
  retired : W32 := 0xffffffff
  root : Option Nat := none
  /-- Walks that pin the current version. -/
  walks : Nat := 0
  /-- Superseded versions not yet retired, oldest first. -/
  old : List Version := []
  edit : Option Edit := none
  result : Nat := 0
  newBlocks : Nat := 0
  dropped : Bool := false
  waiting : Bool := false
  /-- A leave to be requested when the edit in progress ends (R247). -/
  leave : Bool := false
deriving DecidableEq, Repr

/-- What a cut holds of the job (R253): everything software or the module can change while it runs. Device virtual
bytes are keyed by address, cores by logical number, dispatchers by position in the partition. The cache of R280 is no part of it. -/
structure JobData where
  dv : Memory := []
  pages : Tbl Page := []
  cores : Tbl Core := []
  disps : Tbl Disp := []
  bars : Tbl Bar := []
  /-- SLM scratchpad bytes, and its words that read uncorrectable. -/
  slm : Memory := []
  slmBad : List Nat := []
  tickets : Tbl Ticket := []
  /-- Ticket words that read uncorrectable: twice the counter's index for VALUE, one more for LIMIT (R281). -/
  tktBad : List Nat := []
  seqs : Tbl Seq := []
  /-- References of page-table blocks, by address / 4,096 (R172). -/
  blockRefs : Tbl Nat := []
  /-- Posts in flight, in the order in which they were sent (R92), and barrier arrivals in flight to each context. -/
  posts : List Post := []
  arrivals : List (Nat × Nat × W32 × Nat) := []
  /-- Codec sessions, and what each engine of the partition works on. -/
  codec : Tbl CdcSes := []
  runs : Tbl CdcRun := []
  /-- AGE of a page that nothing has touched since the job opened: beats, saturating at 65,535 (R226, R232). -/
  idle : Nat := 0
  /-- Score accumulators that adds have reached since the job opened (R192, R193). -/
  accs : List Nat := []
deriving DecidableEq, Repr

/-- A region of the device virtual range (R222). -/
structure Region where
  base : Nat := 0
  kind : Nat := 0
  pages : Nat := 0
deriving DecidableEq, Repr

/-- What JOB_OPEN fixes for the life of the job (R343, R345, R507 to R514). -/
structure JobInfo where
  cores : Nat := 0
  codeLen : Nat := 0
  entries : List Nat := []
  regions : List Region := []
  scratch : Nat := 0
  seqBase : Nat := 0
  seqEntries : Nat := 0
  trqBase : Nat := 0
  trqEntries : Nat := 0
  seed : W64 := 0
  keyHandle : Nat := 0
  /-- key_id of the link key that KEY_HANDLE names; 0 without one (R392). -/
  keyId : Nat := 0
  progDigest : Nat := 0
  weightDigest : Nat := 0
  /-- The weights are device-bound (R514). -/
  bound : Bool := false
  /-- Frames of the save area and the tier tables (R226, R254). -/
  sysFrames : Nat := 0
  /-- Beat and epoch of the initial cut (R251). -/
  cutBeat : Nat := 0
deriving DecidableEq, Repr

/-- A failing status of a step (R349): beat, class order (0 a core, 1 a dispatcher), number, status, TAG, OPCODE. -/
structure StepFail where
  beat : Nat := 0
  isDisp : Nat := 0
  num : Nat := 0
  status : Nat := 0
  tag : Nat := 0
  opcode : Nat := 0
deriving DecidableEq, Repr

/-- The running STEP (R346 to R349). -/
structure StepSt where
  sq : Nat := 0
  seq : Nat := 0
  start : Nat := 0
  entry : Nat := 0
  arg : W64 := 0
  manAddr : Nat := 0
  manSpad : Nat := 0
  count : Nat := 0
  manifest : List W64 := []
  statuses : List Nat := []
  /-- Beat O once open, and whether a reservation list waits for O + 5 (R247). -/
  opened : Option Nat := none
  resv : Bool := false
  /-- Frames free at the boundary that ended O + 4 (R247). -/
  frames : Option Nat := none
  entered : Bool := false
  replayed : Bool := false
  /-- The first failure of the step, and the first of a tile instruction (R349). -/
  fail : Option StepFail := none
  failTile : Option StepFail := none
deriving DecidableEq, Repr

/-! ### Descriptors, completions and cuts (R252, R253, R335, R338, R340) -/

/-- An accepted descriptor that the journal holds (R335, R340). `mode` 0: ordinary; 1: re-executed; 2: re-executed
with its completion suppressed. -/
structure ADesc where
  sq : Nat := 0
  seq : Nat := 0
  words : List W64 := []
  ord : Nat := 0
  start : Option Nat := none
  done : Bool := false
  mode : Nat := 0
  /-- Order in which a STEP became ready (R336). -/
  ready : Nat := 0
  /-- Boundary from which a control descriptor may act, an INGRESS or EGRESS offset reached, whether that copy has met an uncorrectable
  sector (R351), and whether a write of it was dropped at a page-table block (R174). -/
  beat : Nat := 0
  offset : Nat := 0
  hit : Bool := false
  dropped : Bool := false
  /-- Outcomes of a STEP's manifest entries, journaled at its first opening (R341). -/
  outcomes : Option (List Nat) := none
  /-- The start order of its first run, for a descriptor that a rollback runs again (R340). -/
  again : Option Nat := none
  /-- The coded pictures of an ENCODE, which the journal holds with its completion (R487). -/
  coded : Option (List Bytes) := none
deriving DecidableEq, Repr

/-- A journaled completion (R338): the submission ring, its four words without PHASE, the completion ring and slot it
has been given, and whether it has been written. -/
structure JEntry where
  sq : Nat := 0
  words : List W64 := []
  cq : Nat := 0
  slot : Option Nat := none
  written : Bool := false
  /-- Written before a reset and to be written again (R339). -/
  rewrite : Bool := false
deriving DecidableEq, Repr

/-- A cut (R252, R253): the boundary's beat, the data, the running step, how far each ring had completed, the start
order reached, and the STEP number for group cuts (R448). -/
structure CutImg where
  beat : Nat := 0
  data : JobData := {}
  step : Option StepSt := none
  ringDone : Tbl Nat := []
  startOrd : Nat := 0
  /-- Descriptors that had started and not completed. -/
  openAt : List (Nat × Nat) := []
  stepNo : Nat := 0
  bytes : Nat := 0
  groups : List Nat := []
  /-- Store images of the save copy's pages (R252, R254). -/
  save : List Nat := []
deriving DecidableEq, Repr

/-- What a buddy holds of a lost module's partition (R452, R454, R455): the accepted descriptors, the journaled
completions, each ring's accepted count, the count of start orders, the last durable cut, and the lost module's serial. -/
structure BuddyCopy where
  descs : List ADesc := []
  journal : List JEntry := []
  accepted : Tbl Nat := []
  startOrd : Nat := 0
  cut : CutImg := {}
  serial : Nat := 0
deriving DecidableEq, Repr

end Sys2Proof.Machine
end

