-- ==== Sys2Proof/Syntax.lean ====
section
/-! DEFINITION. The commands of the GY9650: one constructor of `Instr` for each row of
spec/opcode_table.json, with the operands the occurrence carries. What a command does is in
Sys2Proof/Machine; a command that the present state does not enable has no effect (DESIGN CHOICE, log entry 2). -/

namespace Sys2Proof

/-- A time stamp of R396: a beat count and a fraction in units of 1/65,536 beat. -/
structure Stamp where
  beat : W64
  frac : BitVec 16
deriving DecidableEq, Repr

/-- A memory upset that strikes during a beat (R86, R267, R281, R434): the word or sector then reads
uncorrectable until a write covers it whole. -/
inductive Upset where
  /-- The 8-byte word at byte address `addr` of logical core `lcore` of partition `p` (R86). -/
  | coreWord (p lcore addr : Nat)
  /-- The 64-byte sector at device virtual address `va`, in row `row` of bank `bank` of its pseudo-channel: the symbols in error, and whether
  the sector of another address is returned in its place (R265, R267, R270). -/
  | sector (p va bank row symbols : Nat) (wrongAddr : Bool)
  /-- A word of the cache line that holds the sector at `va` (R281). -/
  | cacheWord (p va : Nat)
  /-- The 8-byte scratchpad word at byte offset `off` (R281). -/
  | slmWord (p off : Nat)
  /-- A ticket word: twice the counter's index for VALUE, one more for LIMIT (R281). -/
  | ticket (p idx : Nat)
  /-- A word of dispatcher `d`'s local memory (R434). -/
  | dlm (d : Nat)
  /-- The 8-byte word at byte offset `off` of its base die's codec reference store, in use by engine `e` of the partition (R281, R488). -/
  | codecStore (p e off : Nat)
  /-- A sector of the save copy in use (R439). -/
  | saveCopy (p : Nat)
  /-- `copies` (1 or 2) of the tier page-table entries of page `page` (R439). -/
  | tierEntry (p page copies : Nat)
deriving DecidableEq, Repr

/-- A sector that was read and corrected (R266, R269). -/
structure Correction where
  stack : Nat
  pc : Nat
  bank : Nat
  row : Nat
  sector : Nat
  symbols : Nat
deriving DecidableEq, Repr

/-- What the decoder makes of one read of a store unit (R290, R291): it gives up, or it ends with four codewords, with the most errors
that it corrected in one of them. -/
inductive Decoded where
  | fails
  | words (cws : List Bytes) (errors : Nat)
deriving DecidableEq, Repr

/-- The reads of one unit that steps 1 to 3 may make (R291): at the block's thresholds, with each of its seven threshold sets, and with a
soft decision. -/
structure UnitReads where
  hard : Decoded := .fails
  sets : List Decoded := []
  soft : Decoded := .fails
deriving DecidableEq, Repr

/-- What the ladder's reads of a unit find, and of the other units of its stripe in ascending package (R291). DESIGN CHOICE, log entry 158. -/
structure LadderIn where
  unit : UnitReads := {}
  others : List UnitReads := []
deriving DecidableEq, Repr

/-- What fails in the store during a beat (R292, R293, R302): a program or an erase of block place `blk` of a package, every command to a die,
a channel, or a block of the journal region. -/
inductive NandEvent where
  | programFails (pkg blk : Nat)
  | eraseFails (pkg blk : Nat)
  | dieFails (pkg die : Nat)
  | channelFails (pkg ch : Nat)
  | journalBlockFails
deriving DecidableEq, Repr

/-- What passes between buddies in a beat (R451, R452, R455): from a module for which this one is a buddy an image of page `page` of its
partition `srcPtn` for partition `p` here, a record of its journal, word that its job has closed, or the reading of what is held for it by
its replacement; from this module's own buddy the acknowledgement of the oldest record of partition `p` that it has not
acknowledged. DESIGN CHOICE, log entry 160. -/
inductive BuddyIn where
  | image (src srcPtn p page : Nat)
  | record (src srcPtn p : Nat) (words : List Nat)
  | closed (src srcPtn p : Nat)
  | read (src srcPtn p : Nat)
  | acked (p : Nat)
deriving DecidableEq, Repr

/-- What a codec engine reports at a boundary: the 64×64 blocks completed in its picture, and whether it has stopped at a block boundary
(R54). -/
structure CodecBeat where
  p : Nat
  engine : Nat
  blocks : Nat
  stopped : Bool
deriving DecidableEq, Repr

/-- What the module measures and meets in the beat that a boundary ends: the draw at VIN in watts and the input voltage (R535, R536), the
sensor samples (R543), the upsets and the corrected sectors, what fails in the store, and what the patrol's read of a store unit finds, none
for a read without error (R295), what mirroring modules send (R452), and what the codec engines and the foragers report: of a forager the
partition, the page that it fetches or moves, and the 4 KiB bursts moved so far (R54). DESIGN CHOICE, log entry 21. -/
structure BeatIn where
  watts : Nat
  vin : Nat
  temps : List (Nat × BitVec 16)
  upsets : List Upset
  corrections : List Correction
  nand : List NandEvent := []
  patrol : Option LadderIn := none
  buddy : List BuddyIn := []
  codec : List CodecBeat := []
  foragers : List (Nat × Nat × Nat) := []
deriving DecidableEq, Repr

/-- Dispatcher AMO kinds of R282. -/
inductive AmoOp where
  | swap | add | and | or | xor | min | max | minu | maxu
deriving DecidableEq, Repr

/-- Element formats of the memory-side adders (R271) and of waggle lanes (R415), in DTYPE order. -/
inductive DType where
  | fp32 | bf16 | int32 | int64 | fp64
deriving DecidableEq, Repr

/-- An access to the host window (R315): `wr = none` reads `len` bytes at BAR4 offset `off`. -/
structure WinAccess where
  off : Nat
  len : Nat
  wr : Option Bytes
deriving DecidableEq, Repr

/-- A flit as its fields (R373, R374): the payload is given as its 18 plaintext slots. -/
structure Flit where
  fseq : BitVec 11
  ack : BitVec 11
  typ : BitVec 2
  key : BitVec 3
  start : BitVec 5
  slots : List Slot
deriving DecidableEq, Repr

/-- What the eight lanes of a port bring in a flit time: the symbols of each symbol time, in lane order (R371, R373); and, for each packet
that ends in the flit, the number, kind and COUNT of the data collective it belongs to, or none (R421; DESIGN CHOICE, log entry 38). -/
structure FlitIn where
  times : List (List Sym)
  colls : List (Option (Nat × Nat × Nat))
deriving DecidableEq, Repr

/-- What ends the takeover of a port by a spare (R386): the port, and the counter of the first flit that the peer will send (R391). -/
structure Takeover where
  port : Nat
  counter : W64
deriving DecidableEq, Repr

/-- A GROUP_HELLO of R405 and R450: the receiving partition, the sender's address, partition and group number, TAG, the
shape (bits 47:16 of COL_GRPg_SHAPE), key_id and the rollback target. -/
structure Hello where
  dptn : Nat
  src : BitVec 12
  sptn : Nat
  group : Nat
  tag : BitVec 16
  shape : BitVec 32
  keyId : W64
  target : Nat
deriving DecidableEq, Repr

/-- A waggle message (R376, R416, R417): generation, round 0 to 2 (hive, row, column), FUNC, lanes; `own` marks one of the
module's own waggles of R448. -/
structure WagMsg where
  own : Bool
  gen : Nat
  round : Nat
  func : Nat
  src : BitVec 12
  lanes : List W64
deriving DecidableEq, Repr

/-- A packet of a triggered operation that reaches its destination (R376, R412): `op` is the number of the
data collective it belongs to, with its kind and COUNT, or none (R421). -/
structure Packet where
  src : BitVec 12
  sptn : Nat
  ptype : Nat
  dptn : Nat
  addr : Nat
  data : Bytes
  dtype : Nat
  narrow : Bool
  rctrEn : Bool
  rctr : Nat
  inc : W64
  group : Nat
  coll : Option (Nat × Nat × Nat)
deriving DecidableEq, Repr

/-- What ends the wait of a triggered operation at its source (R413): every acknowledgement has arrived,
with the failing status some destination reported, if any. -/
structure Acks where
  status : BitVec 16
deriving DecidableEq, Repr

/-- The identity memory of a near harness end as it reads (R557). `none` in a port's place: no harness. -/
structure Harness where
  magicOk : Bool
  version : Nat
  loss : Nat
  serial : W64
  lengthCm : Nat
  kind : Nat
  endB : Bool
  aPos : Nat
  aPort : Nat
  bPos : Nat
  bPort : Nat
  laneMap : List Nat
  crcOk : Bool
deriving DecidableEq, Repr

/-- What training finds at a port position (R385, R386, R558): the lanes that work, and the harness serial,
module address and port that the peer reports. -/
structure TrainIn where
  lanes : BitVec 8
  peerSerial : W64
  peerModule : W64
  peerAddr : BitVec 12
  peerPort : Nat
deriving DecidableEq, Repr

/-- The carrier identity memory (R556), as its 640 bytes, with the verdict on its signature. -/
structure CarrierIn where
  bytes : Bytes
  sigOk : Bool
  bbmDigest : BitVec 256
deriving DecidableEq, Repr

/-- What the store mount finds (R552 phase 5): the stored energy in units of 10 mJ, whether the journal
region reads, and, for a carrier that was not the last one mounted, the credit and the writes it keeps; the average P/E
count, the spare blocks of each die at first and left, and those left in the journal region (R292, R299, R301, R302). DESIGN CHOICE, log entry 108. -/
structure MountIn where
  energy : Nat
  journalOk : Bool
  creditMiB : Int
  chargedBytes : Nat
  avgPe : Nat
  spares : List (Nat × Nat)
  journalSpare : Nat
deriving DecidableEq, Repr

/-- A firmware slot as the boot finds it (R491 to R495). -/
structure FwSlot where
  staging : Nat
  svn : Nat
  verified : Bool
  digest : BitVec 256
deriving DecidableEq, Repr

/-- A package or image envelope's verdicts that rest on RSA (R493): whether SIGNATURE verifies. -/
structure SigVerdict where
  sigOk : Bool
deriving DecidableEq, Repr

/-- A picture that an encode engine has coded (R473, R478): which of the mini-GOP's pictures it is in display order,
whether it is an intra picture, its coded bytes with any filler, its header bits, the plan and starting QP that the
firmware chose, block by block in raster order the QP, the bits staged and the bits of minimum mode, and the buffer model that its headers
signal, as bit rate and buffer size (R475). -/
structure CodedPic where
  pic : Nat
  intra : Bool
  bytes : Bytes
  header : Nat
  plan : Nat
  qp0 : Int
  blocks : List (Int × Nat × Nat)
  model : Option (Nat × Nat)
deriving DecidableEq, Repr

/-- What an engine brings out of its work: coded pictures in decoding order, or, for a decoded unit, the free slot that a new picture takes,
the damage code of each of its blocks, and the samples of damaged pictures with what is written to the state area (R473, R474, R482 to
R485). DESIGN CHOICE, log entry 79. -/
structure CodecOut where
  pics : List CodedPic
  slot : Nat
  damage : Bytes
  writes : List (Nat × Byte)
deriving DecidableEq, Repr

/-- How a codec picture meets trouble (R488). -/
inductive CodecTrouble where
  | uncorrectableRead | referenceStore | engineError | firmwareCheck
deriving DecidableEq, Repr

/-- The causes of a conventional reset (R319). -/
inductive ResetPin where
  | perst | hotReset | linkDown
deriving DecidableEq, Repr

/-- The faults a dispatcher shows (R434). -/
inductive DispFault where
  | dlmWord | hart | firmware
deriving DecidableEq, Repr

/-- Posts that reach a mailbox slot in one fabric cycle: their places among those in flight to it (R92, R93). -/
structure MboxArrivals where
  slot : Nat
  who : List Nat
deriving DecidableEq, Repr

/-- What csrrw, csrrs and csrrc do with the value they are given; `none` stands for a source of x0, which writes nothing. -/
inductive CsrOp where
  | write (v : W64)
  | set (v : Option W64)
  | clear (v : Option W64)
deriving DecidableEq, Repr

/-- A plain access of a dispatcher's hart (R101, R102, R105, R109): an instruction fetch, a load of `w` bytes, a store of `w` bytes, an
access to a CSR, or a whole instruction, fetched at the hart's pc and carried out (R100). -/
inductive HartAccess where
  | fetch (addr : Nat)
  | load (rd addr w : Nat) (signed : Bool)
  | store (addr w : Nat) (v : W64)
  | csr (rd csr : Nat) (op : CsrOp)
  | run
deriving DecidableEq, Repr

/-- On-module processors with a local event interface (R368): 0 the MP, 1 the RTP, 2 to 9 the codec
controllers CE0 to CE7. -/
abbrev ProcId := Nat

/-- The commands: one constructor per row of the table, in the table's order. `p` is a partition, `d` a
dispatcher, `lc` a logical core of the partition, `n` a ring, queue, session, port or stack number as the row
says. -/
inductive Instr where
  /-- Power-good is asserted; `slot` is the strap value SLOT[5:0] (R40, R550). -/
  | powerGood (slot : Nat)
  | beatBoundary (b : BeatIn)
  | epochBoundary
  /-- Timer number `n` of the armed list fires (R50). -/
  | timeout (n : Nat)
  | tileWatchdog (p lc : Nat) (move : Bool)
  | mgtBeatRead
  | timeReq (port seq : Nat) (t1 : Stamp) (f2 f3 : BitVec 16)
  | timeRsp (port seq : Nat) (t1 t2 t3 : Stamp) (f4 : BitVec 16)
  | countAdoption (count : W64)
  | alignmentLost
  | alignmentRegained
  | ppsEdge
  | ppsMissed
  | mgtPtnShapeWrite (v : W32)
  | shapeChange
  | shapeChangeDone
  /-- Tile rows: the instruction at the head of core `lc`'s queue issues. `ck` counts the attempts whose
  checksum a hardware fault breaks (R150). -/
  | matmul (p lc ck : Nat)
  | convert (p lc : Nat)
  | vecAdd (p lc : Nat)
  | sub (p lc : Nat)
  | mul (p lc : Nat)
  | fma (p lc : Nat)
  | max (p lc : Nat)
  | min (p lc : Nat)
  | addS (p lc : Nat)
  | mulS (p lc : Nat)
  | addRow (p lc : Nat)
  | mulRow (p lc : Nat)
  | rowSum (p lc : Nat)
  | rowMax (p lc : Nat)
  | iadd (p lc : Nat)
  | iand (p lc : Nat)
  | ior (p lc : Nat)
  | ixor (p lc : Nat)
  | imax (p lc : Nat)
  | imin (p lc : Nat)
  | exp (p lc : Nat)
  | exp2 (p lc : Nat)
  | ln (p lc : Nat)
  | log2 (p lc : Nat)
  | sigmoid (p lc : Nat)
  | tanh (p lc : Nat)
  | erf (p lc : Nat)
  | softplus (p lc : Nat)
  | sqrt (p lc : Nat)
  | rsqrt (p lc : Nat)
  | recip (p lc : Nat)
  | silu (p lc : Nat)
  | gelu (p lc : Nat)
  | sin (p lc : Nat)
  | cos (p lc : Nat)
  | rmsnorm (p lc : Nat)
  | rmsSumsq (p lc : Nat)
  | rmsApply (p lc : Nat)
  | convDense (p lc ck : Nat)
  | convDepthwise (p lc : Nat)
  | poolGavg (p lc : Nat)
  | attnFwd (p lc ck : Nat)
  | attnBwd (p lc ck : Nat)
  | attnMerge (p lc : Nat)
  | tableLoad (p lc : Nat)
  | tableSwap (p lc : Nat)
  | tableLookup (p lc : Nat)
  | move (p lc : Nat)
  | commitWrite (p lc : Nat)
  | commitAdd (p lc : Nat)
  | tktFaa (p lc : Nat)
  | barrier (p lc : Nat)
  | kvPrune (p lc : Nat)
  /-- The writes of core `lc`'s instruction in flight (move class or compute class) are acknowledged (R145). -/
  | tileComplete (p lc : Nat) (move : Bool)
  | remapCopyDone (p lc : Nat)
  /-- Dispatcher rows: `csrrw rd, csr, v` on hart `d` (R105). -/
  | coreTqpush (d rd : Nat) (v : W64)
  | coreMboxPost (d rd : Nat) (v : W64)
  /-- Posts in flight to a mailbox slot arrive in one fabric cycle (R92, R93). -/
  | mailboxPost (p lc : Nat) (a : MboxArrivals)
  | coreMboxOvf (d rd : Nat) (v : W64)
  | coreCcwait (d rd : Nat) (v : W64)
  | coreBarrier (d rd : Nat) (v : W64)
  /-- The oldest arrival in flight to context `ctx` reaches it (R98). -/
  | barrierArrival (p ctx : Nat)
  | coreTktFaa (d rd : Nat) (v : W64)
  | ecall (d : Nat) (a7 a0 : W64)
  | slmAmo (d rd : Nat) (op : AmoOp) (dbl : Bool) (addr : Nat) (v : W64)
  | lr (d rd : Nat) (dbl : Bool) (addr : Nat)
  | sc (d rd : Nat) (dbl : Bool) (addr : Nat) (v : W64)
  /-- A write of word 2 of sequence `seq`'s descriptor is detected (R167). -/
  | seqEditRequest (p seq : Nat) (w : W64)
  | editValidated (p seq : Nat)
  | tierRequestTailWrite (p : Nat) (tail : W64)
  /-- The tier request entry at HEAD is consumed (R235, R236). -/
  | prefetch (p : Nat)
  | cap (p : Nat)
  | demote (p : Nat)
  | capTakesEffect (p page : Nat)
  | demandFetchDone (p page : Nat)
  | residencyStall (p lc : Nat)
  | stepOpen (p : Nat)
  | reservation (p : Nat)
  | cutSaveDone (p : Nat)
  | cutDurable (p : Nat)
  | groupCut (p : Nat)
  | memCutTake (p : Nat) (v : W64)
  | memPoolPtnWrite (p : Nat) (v : W64)
  | memSlmSplitWrite (p : Nat) (v : W32)
  | slmSplitDone (p : Nat)
  /-- An adder operation on the aligned 64-byte unit at `va`; `mask` enables elements (R271). -/
  | memorySideAdd (p va : Nat) (dtype : DType) (mask : BitVec 32) (addends : Bytes)
  /-- Unit `unit` of page `page`'s image is read, with what the ladder's reads find (R291). -/
  | storeUnitRead (p page unit : Nat) (r : LadderIn)
  | storeWriteAck (p page : Nat)
  | stripeClose
  | packageLost (n : Nat)
  | rebuildDone
  | journalRecordAck
  /-- Whether AUX stays present: then the module is in L4 (R529). -/
  | powerLoss (aux : Bool)
  | holdupTest (energy : Nat)
  | pcieLinkTrained (speed width : Nat) (flit : Bool)
  | hostWindowAccess (p : Nat) (a : WinAccess)
  | doeDiscovery (idx : Nat)
  | doeAbort
  | getVersion
  | getCapabilities (flags : W32)
  | negotiateAlgorithms (hash asym dhe aead : W32)
  | getDigests
  | getCertificate (slot off len : Nat)
  | challenge (slot : Nat) (nonce : BitVec 256)
  | getMeasurements (index : Nat) (sign : Bool) (nonce : BitVec 256)
  | keyExchange (reqSession : Nat) (share : Bytes)
  | finish (session : Nat) (macOk : Bool)
  | heartbeat (session : Nat)
  | keyUpdate (session op : Nat)
  | endSession (session : Nat)
  | vendorDefinedRequest (session registry : Nat) (payload : Bytes)
  | query (session port : Nat)
  | keyProg (session stream sub keySet : Nat) (key : BitVec 256) (iv : BitVec 96)
  | kSetGo (session stream sub keySet : Nat)
  | kSetStop (session stream sub keySet : Nat)
  | ideIntegrityFailure (stream : Nat)
  | getTdispVersion (session fn : Nat)
  | getTdispCapabilities (session fn : Nat)
  | lockInterfaceRequest (session fn stream : Nat) (nonce : BitVec 256)
  | getDeviceInterfaceReport (session fn off len : Nat)
  | getDeviceInterfaceState (session fn : Nat)
  | startInterfaceRequest (session fn : Nat) (nonce : BitVec 256)
  | stopInterfaceRequest (session fn : Nat)
  | tdiProtectedWrite (fn : Nat)
  | conventionalReset (pin : ResetPin)
  | flrPf0
  | flrPartitionFunction (p : Nat)
  | functionDiscard (p : Nat)
  | mgtResetWrite (v : W32)
  | resetDone (p : Nat)
  | ptnSqCfgWrite (p n : Nat) (v : W32)
  | ptnCqCfgWrite (p n : Nat) (v : W32)
  | doorbell (p n : Nat) (tail : W64) (width : Nat)
  /-- The headgate's read of the next slot: the eight words, or none on a read error (R333). -/
  | headgateFetch (p n : Nat) (slot : Option (List W64))
  | descriptorAccepted (p n : Nat)
  /-- Descriptor rows: the next descriptor of submission ring `n` starts. JOB_OPEN reads the packages:
  as many bytes from the start of each as came before a host read failed, none where the first one did (R344). -/
  | jobOpen (p n : Nat) (prog : Option Bytes) (wpkg : Option Bytes) (progSig wpkgSig : SigVerdict)
  | step (p n : Nat) (manifest : Option (List W64))
  | egress (p n : Nat)
  | ingress (p n : Nat) (src : Option Bytes)
  | jobSuspend (p n : Nat)
  | suspensionEffect (p : Nat)
  | suspendSaveDone (p : Nat)
  | jobResume (p n : Nat)
  | resumptionEffect (p : Nat)
  | resumeRestoreDone (p : Nat)
  | jobClose (p n : Nat)
  | jobCloseAbort (p n : Nat)
  | abortEffect (p : Nat)
  | nop (p n : Nat)
  /-- The oldest journaled completion of completion ring `cq` meets its head word (R338). -/
  | completionWrite (p cq : Nat) (head : Option W64)
  | eventRecordWrite (fn q : Nat) (head : Option W64)
  | coalescingTimer (fn q : Nat)
  | evtQCfgWrite (fn q : Nat) (v : W64)
  | evtLclClaim (proc : ProcId)
  | evtLclComplete (proc : ProcId) (e : Nat)
  | levelWithdraw (proc : ProcId) (e : Nat)
  | flitReceive (port : Nat) (f : FlitIn)
  | nak (port fseq : Nat)
  | laneFailed (port lane : Nat)
  | retrainingDone (port : Nat) (inTime : Bool)
  | portFailed (port : Nat)
  | spareTakeoverDone (t : Takeover)
  | harnessMate (port : Nat) (h : Option Harness)
  | credit (port vc cls slots : Nat)
  | laneMap (port : Nat) (mask : BitVec 8) (counter : W64)
  | portState (origin : BitVec 12) (port : Nat) (up : Bool)
  | resync (port fseq : Nat)
  | keyReady (port slot : Nat) (keyId : W64)
  | keyRetire (port slot : Nat)
  | groupHello (h : Hello)
  | groupFormingTimeout (p g : Nat)
  | lnkVcwWrite (v : W64)
  | lnkSluiceWrite (p : Nat) (v : W64)
  | lnkSpareWrite (v : W32)
  | colGrpEnWrite (p g : Nat) (v : W64)
  | colCqEnWrite (p q : Nat) (v : W64)
  | commQueueTailWrite (p q : Nat) (tail : W64)
  /-- Triggered operations: entry `n` of communication queue `q` starts (R409, R410). -/
  | put (p q n : Nat)
  | add (p q n : Nat)
  | ctrAdd (p q n : Nat)
  | colNop (p q n : Nat)
  | waggleBarrier (p q n : Nat)
  | sumI64 (p q n : Nat)
  | minI64 (p q n : Nat)
  | maxI64 (p q n : Nat)
  | sumF64 (p q n : Nat)
  | minF64 (p q n : Nat)
  | maxF64 (p q n : Nat)
  | waggleMessage (p g : Nat) (m : WagMsg)
  | allreduce (p q n : Nat)
  | reduceScatter (p q n : Nat)
  | allgather (p q n : Nat)
  | broadcast (p q n : Nat)
  | alltoall (p q n : Nat)
  | packetArrival (m : Packet)
  | operationComplete (p q n : Nat) (a : Acks)
  | operationTimeout (p q n : Nat)
  | pageRestore (p page : Nat)
  | frameDrop (p page : Nat)
  | storeImageLost (p page : Nat)
  | rollback (p : Nat)
  | dieFailed (die : Nat)
  | regulatorPhaseFailed (die phase : Nat)
  | memBuddyWrite (p : Nat) (v : W64)
  | buddyLost (p : Nat) (refused : Bool)
  /-- A restore: the buddy's answer (none when it cannot be read), and the packages read from host memory (R455). -/
  | restoreGo (p : Nat) (v : W64) (held : Option Machine.BuddyCopy) (prog wpkg : Option Bytes) (progSig wpkgSig : SigVerdict)
  /-- CODEC descriptors of submission ring `n` (R468). -/
  | openSession (p n : Nat)
  | encode (p n : Nat)
  | decode (p n : Nat)
  | closeSession (p n : Nat)
  /-- Block `block` exceeds its bound; `rest` are the blocks up to the next slice segment or tile (R481). -/
  | blockAbandoned (p engine block : Nat) (rest : List Nat)
  /-- The budget has passed; `left` are the blocks not yet decoded (R481). -/
  | pictureBudgetExpired (p engine : Nat) (left : List Nat)
  | codecPictureRestart (p engine : Nat) (t : CodecTrouble)
  | codecPictureDone (p engine : Nat) (o : CodecOut)
  /-- SEC operations: a write of SEC_OP with this OP (R523); the buffer at SEC_OP_ADDR is given. -/
  | fwStage (v : W64) (image : Bytes) (sig : SigVerdict)
  | svnCommit (v : W64)
  | jobkeyLoad (v : W64) (blob : Bytes)
  | jobkeyErase (v : W64)
  | pubkeySet (v : W64) (hash : BitVec 256)
  | pubkeyClear (v : W64)
  | logRead (v : W64)
  | secLogCountRead
  | authHello (port : Nat) (nonce chainHash : BitVec 256) (chainLen : Nat)
  | authCert (port chunk : Nat) (data : Bytes)
  | authKex (port : Nat) (share : Bytes) (sigOk chainOk : Bool) (peerSvn : W64)
  | authFinish (port : Nat) (mac : BitVec 256)
  | brakeAssert
  | brakeRelease
  | thermalTrip (sensor : Nat)
  | l1Entry (p : Nat)
  | l2Entry (p : Nat)
  | l3Entry (p : Nat)
  | wake (p : Nat)
  | l4Req (v : W32)
  | l4Entry
  | pwrLimitsWrite (v : W64)
  | pwrCeilingWrite (v : W32)
  | pwrPtnStateWrite (p : Nat) (v : W32)
  | staggerRelease
  /-- Bring-up phases end with what they found (R552). -/
  | rootOfTrust (slots : List (FwSlot × FwSlot)) (aliasKey : Bool)
  | mgmtFw (settingsOk : Bool)
  | identity (carrier : Option CarrierIn) (ports : List (Nat × Harness))
  /-- Pseudo-channels that fail training, as (stack, pseudo-channel), and stacks (R270). -/
  | hbmTrain (failed : List (Nat × Nat)) (failedStacks : List Nat)
  | storeMount (m : MountIn)
  | coreTest (failedCores failedDies : List Nat)
  | portTrain (found : List (Nat × TrainIn))
  | linkAuth
  | partitions
  | hive
  | hiveHello (port : Nat) (serial : W64) (pos : Nat) (heard : List (W64 × Nat))
  | hiveFormed (leader : W64) (mask : BitVec 16)
  | apiary
  | apiaryElect (port : Nat) (serial : W64) (hops : Nat)
  | electionEnd
  | apiaryCoord (port : Nat) (origin : W64) (x y : Nat)
  | apiaryState (port : Nat) (formed : Bool) (origin refSerial : W64) (refAddr : BitVec 12) (adopted : Bool)
  | time
  | telemetryRecord (head : Option W64)
  /-- `cool`: every sensor reads below 90 °C (R544). -/
  | i3cWake (cool : Bool)
  | i3cBringup
  | i3cPowerState
  | mgtSb3Write (v : W32)
  /-- A read of `width` bytes at offset `off` of the register space that `fn` names: BAR0, one that returns an RC field among them, a local
interface, BAR2 or the configuration space (R11, R310, R313). -/
  | rcRegisterRead (fn off width : Nat)
  /-- A write of `width` bytes at offset `off` of the register space that `fn` names (R8, R310, R313). -/
  | registerWrite (fn off width : Nat) (v : W64)
  | flitTransmit (port : Nat)
  | perstDeassert (cool : Bool)
  /-- A plain access of hart `d`: it faults where the rules stop it, and is carried out where they do not (log entry 146). -/
  | accessFault (d : Nat) (a : HartAccess)
  | dispatcherFault (d : Nat) (k : DispFault)
  | placementMoveDone (p page : Nat)
  | dynamicAddressAssignment (addr : Nat)
deriving DecidableEq, Repr

end Sys2Proof
end

