-- ==== Sys2Proof/Decode.lean ====
section
/-! DEFINITION. The decoder of the command table. No row of spec/opcode_table.json gives bits: a command is not a word
that the module decodes. What software writes as words (tile descriptors, ring descriptors, register values) is
decoded where it is read, in Sys2Proof/Machine. -/

namespace Sys2Proof

/-- The command that a word of the table's bits spells: none, because the table gives no row any bits. -/
def decodeTableWord (_nbits _w : Nat) : Option Instr := none

end Sys2Proof
end

