-- ==== Sys2Proof/Config.lean ====
section
/-! DEFINITION. What the spec leaves open: free values that nothing in the package can evaluate, and the
constants it gives by a reference. A free value is applied to what it may depend on, or to the count
`Sys2Proof.Machine.State.free` that each use advances (DESIGN CHOICE, log entry 6). -/

namespace Sys2Proof.Config

/-- A free 64-bit value for each count. -/
opaque freeValue : Nat → W64

/-- Cycles that hart `d` counts between two of its retirements, by their numbers. DESIGN CHOICE, log entry 144. -/
opaque hartCycles : Nat → Nat → Nat → W64

/-- The HBM frame that a page takes in its stack: R228 names the stack and leaves the frame open. -/
opaque freeFrame : Nat → BitVec 18

/-- What the special-function unit's polynomials give for a function of R208 and the code of an argument (R209): the
coefficients are not part of the interface. The bounds of R208 hold it. -/
opaque sfu : Nat → Nat → W32

/-- The draw in watts that predict() gives (R536), for whether every die is taken at its worst case, the draw of the beat that ends, the
clock of each die that runs, and the junction temperatures: the energy model of a die is not part of the spec. DESIGN CHOICE, log entry
20. -/
opaque predict : Bool → Nat → List (Option Nat) → List Nat → Nat

/-- The 420 parity bytes of a codeword, for its 4,128 data and metadata bytes: R290 does not name the code. DESIGN CHOICE, log entry 158. -/
opaque ldpcParity : Bytes → Bytes

/-- How many errors in a codeword the hard decision can correct (R291, R295). DESIGN CHOICE, log entry 158. -/
opaque hardCapability : Nat

/-- What the decoding process of HEVC or AV1 finds in a coded unit (R462, R463, R474): whether it gives a picture size that can be used
and lies within the profiles, levels and tools of R462; the size, 10-bit samples, an inter picture, a picture that clears earlier damage
(R484); whether the unit holds a new picture; whether it is free of syntax errors
and predicts from no missing reference (R482); and, by number in the session's decoding order, the
pictures output in display order and those that stay references. -/
structure DecodedUnit where
  usable : Bool
  supported : Bool
  width : Nat
  height : Nat
  ten : Bool
  inter : Bool
  key : Bool
  coded : Bool
  clean : Bool
  shown : List Nat
  refs : List Nat
deriving DecidableEq, Repr, Inhabited

/-- The NAL units or OBUs of a coded unit, and whether one is other than an SEI message or a metadata OBU that decoding does not recognise
(R475): false for HEVC, true for AV1. The two standards are outside the spec. DESIGN CHOICE, log entry 163. -/
opaque unitPieces : Bool → Bytes → List Bytes

/-- See `unitPieces`. -/
opaque recognised : Bool → Bytes → Bool

/-- What decoding finds in the last of a session's units, each as its pieces, and the decoded sample of its picture at a plane, column and
row (R463). DESIGN CHOICE, log entry 163. -/
opaque decodeUnit : Bool → List (List Bytes) → DecodedUnit

/-- See `decodeUnit`. -/
opaque decodedSample : Bool → List (List Bytes) → Nat → Nat → Nat → Nat

/-- The sample of an AV1 output picture, after film grain synthesis, for the stream, the plane, column and row, and the decoded sample
(R463). DESIGN CHOICE, log entry 163. -/
opaque filmGrain : List (List Bytes) → Nat → Nat → Nat → Nat → Nat

/-- The context that a codec engine writes to its state area when it stops, for each count (R54, R486). DESIGN CHOICE, log entry 164. -/
opaque codecContext : Nat → Bytes

/-- The Revision ID, which gives the silicon stepping (R308). -/
opaque revision : BitVec 8

/-- The certificate chain of SPDM slot 0, for the digests of the running class 1 and class 2 firmware (R497): the
certificates themselves are outside the spec. -/
opaque certChain : Nat → Nat → Bytes

/-- The digest of the RTP boot ROM, measurement block 1 (R499). -/
opaque romDigest : Bytes

/-- Measurement block 8, for the carrier's serial and variant: the spec gives its content but not its layout (R499). -/
opaque partBlock : Nat → Bool → Bytes

/-- Measurement block 9, the digest of the publisher key table and the handles and masks of the job key table: the spec
gives no serialisation of them (R499). -/
opaque tableDigest : List Nat → Bytes

/-- The hash of Ruilo firmware signing key 0 to 3, fused into the root-of-trust processor (R493). DESIGN CHOICE, log entry 106. -/
opaque ruiloKey : Nat → Nat

/-- The firmware signing keys that the class 1 image with a digest tells the root of trust to revoke, a bit for each (R493): the form of the
instruction is not given. DESIGN CHOICE, log entry 106. -/
opaque revokes : Nat → BitVec 4

/-- The Device ID fingerprint (R496). -/
opaque fingerprint : Nat

/-- RSA-OAEP unwrapping under the Device ID key of a job key blob (R516) and of a content key (R513). DESIGN CHOICE, log entry 8. -/
opaque unwrapJobKey : Bytes → Option Bytes

/-- See `unwrapJobKey`. -/
opaque unwrapContentKey : Bytes → Option Bytes

/-- AES-256 key unwrap of the store key that the buddy holds in escrow, under the escrow key of R510: whether it succeeds. -/
opaque unwrapEscrow : Bytes → Bool

/-- The serial number in the Device ID certificate of a chain (R392, R496). -/
opaque chainSerial : Bytes → Nat

/-- The secret that the two public values of a link authentication share, by the peer's value and the number of the draw of this module's
own (R517). -/
opaque linkSecret : Bytes → Nat → Bytes

/-- The key of the HMAC of AUTH_FINISH, by the shared secret (R517): the spec does not say how it is derived. DESIGN CHOICE, log entry 8. -/
opaque finishKey : Bytes → Bytes

/-- This module's public value in AUTH_KEX, by the number of its draw (R517): the exponent is the root of trust's own. DESIGN CHOICE, log
entry 8. -/
opaque kexShare : Nat → Bytes

end Sys2Proof.Config
end

