-- ==== Sys2Proof/Machine/Crypto.lean ====
section
/-! DEFINITION. The digests that the spec names by their standards: SHA-256 (FIPS 180-4), HMAC and HKDF over it
(RFC 2104, RFC 5869), and CRC-32C. Their algorithms are the standards' (PRESUMED, log entry 7). -/

namespace Sys2Proof.Machine

/-- The round constants of SHA-256, eight words to a number: the fractional parts of the cube roots of the first 64 primes, cut to 32 bits. -/
def shaCubeRoots : List Nat :=
  [0x428a2f9871374491b5c0fbcfe9b5dba53956c25b59f111f1923f82a4ab1c5ed5,
   0xd807aa9812835b01243185be550c7dc372be5d7480deb1fe9bdc06a7c19bf174,
   0xe49b69c1efbe47860fc19dc6240ca1cc2de92c6f4a7484aa5cb0a9dc76f988da,
   0x983e5152a831c66db00327c8bf597fc7c6e00bf3d5a7914706ca635114292967,
   0x27b70a852e1b21384d2c6dfc53380d13650a7354766a0abb81c2c92e92722c85,
   0xa2bfe8a1a81a664bc24b8b70c76c51a3d192e819d6990624f40e3585106aa070,
   0x19a4c1161e376c082748774c34b0bcb5391c0cb34ed8aa4a5b9cca4f682e6ff3,
   0x748f82ee78a5636f84c878148cc7020890befffaa4506cebbef9a3f7c67178f2]

/-- The eight words of a number, the most significant first. -/
def wordsOf (x : Nat) : List W32 := (List.range 8).map fun i => BitVec.ofNat 32 (x / 2 ^ (224 - 32 * i))

/-- The round constants in order. -/
def shaRoundWords : List W32 := shaCubeRoots.flatMap wordsOf

/-- The initial hash value: the fractional parts of the square roots of the first eight primes. -/
def shaInit : List W32 := wordsOf 0x6a09e667bb67ae853c6ef372a54ff53a510e527f9b05688c1f83d9ab5be0cd19

/-- Big-endian value of a byte string. -/
def beNat (bs : Bytes) : Nat := bs.foldl (fun a b => a * 256 + b.toNat) 0

/-- The `n` big-endian bytes of `v`. -/
def beBytes (n v : Nat) : Bytes := (leBytes n v).reverse

/-- Sixteen big-endian words of a block. -/
def shaBlockWords : Nat → Bytes → List W32
  | 0, _ => []
  | n + 1, bs => BitVec.ofNat 32 (beNat (bs.take 4)) :: shaBlockWords n (bs.drop 4)

/-- Extend the schedule, newest word first. -/
def shaExtend : Nat → List W32 → List W32
  | 0, w => w
  | n + 1, w =>
    let x15 := w.getD 14 0
    let x2 := w.getD 1 0
    let a := x15.rotateRight 7 ^^^ x15.rotateRight 18 ^^^ (x15 >>> 3)
    let b := x2.rotateRight 17 ^^^ x2.rotateRight 19 ^^^ (x2 >>> 10)
    shaExtend n ((w.getD 15 0 + a + w.getD 6 0 + b) :: w)

/-- The rounds over paired constants and schedule words. -/
def shaRounds : List (W32 × W32) → List W32 → List W32
  | [], s => s
  | (k, w) :: r, [a, b, c, d, e, f, g, h] =>
    let t1 := h + (e.rotateRight 6 ^^^ e.rotateRight 11 ^^^ e.rotateRight 25) + ((e &&& f) ^^^ (~~~e &&& g)) + k + w
    let t2 := (a.rotateRight 2 ^^^ a.rotateRight 13 ^^^ a.rotateRight 22) + ((a &&& b) ^^^ (a &&& c) ^^^ (b &&& c))
    shaRounds r [t1 + t2, a, b, c, d + t1, e, f, g]
  | _ :: _, s => s

/-- One block. -/
def shaBlock (h : List W32) (blk : Bytes) : List W32 :=
  let w := (shaExtend 48 (shaBlockWords 16 blk).reverse).reverse
  (h.zip (shaRounds (shaRoundWords.zip w) h)).map fun p => p.1 + p.2

/-- All blocks, `n` of them. -/
def shaBlocks : Nat → Bytes → List W32 → List W32
  | 0, _, h => h
  | n + 1, bs, h => shaBlocks n (bs.drop 64) (shaBlock h (bs.take 64))

/-- A message with its padding. -/
def shaPad (m : Bytes) : Bytes :=
  m ++ [0x80#8] ++ List.replicate ((119 - m.length % 64) % 64) 0#8 ++ beBytes 8 (8 * m.length)

/-- SHA-256 as its 32 bytes. -/
def sha256 (m : Bytes) : Bytes :=
  let p := shaPad m
  (shaBlocks (p.length / 64) p shaInit).flatMap fun w => beBytes 4 w.toNat

/-- HMAC-SHA-256. -/
def hmac (key m : Bytes) : Bytes :=
  let k0 := if key.length > 64 then sha256 key else key
  let k := k0 ++ List.replicate (64 - k0.length) 0#8
  sha256 (k.map (· ^^^ 0x5c#8) ++ sha256 (k.map (· ^^^ 0x36#8) ++ m))

/-- HKDF-Extract. -/
def hkdfExtract (salt ikm : Bytes) : Bytes := hmac salt ikm

/-- HKDF-Expand to `n` blocks. -/
def hkdfBlocks (prk info : Bytes) : Nat → Nat → Bytes → Bytes
  | 0, _, _ => []
  | n + 1, i, t =>
    let t' := hmac prk (t ++ info ++ [BitVec.ofNat 8 i])
    t' ++ hkdfBlocks prk info n (i + 1) t'

/-- HKDF-Expand to `len` bytes. -/
def hkdfExpand (prk info : Bytes) (len : Nat) : Bytes :=
  (hkdfBlocks prk info (ceilDiv len 32) 1 []).take len

/-- HKDF-SHA-256 (RFC 5869). -/
def hkdf (ikm salt info : Bytes) (len : Nat) : Bytes := hkdfExpand (hkdfExtract salt ikm) info len

/-- One bit of CRC-32C. -/
def crcBits : Nat → W32 → W32
  | 0, c => c
  | n + 1, c => crcBits n (if c.getLsbD 0 then (c >>> 1) ^^^ 0x82f63b78#32 else c >>> 1)

/-- CRC-32C of a byte string. -/
def crc32c (m : Bytes) : W32 :=
  ~~~ m.foldl (fun c b => crcBits 8 (c ^^^ b.setWidth 32)) 0xffffffff#32

end Sys2Proof.Machine
end

