-- ==== Sys2Proof/Machine/RegMap.lean ====
section
/-! DEFINITION. The register map: every register the spec gives, with its offset, width, reset value and fields
(R7 to R12, R313), one `RegSpec` per register line of the spec. Management registers lie in PF0 BAR0, partition
registers in the BAR0 of each of PF1 to PF4, and local registers at each on-module processor's 0x1000_0000
(R368). Bits that no field names are reserved. -/

namespace Sys2Proof.Machine

/-- Access types (R8). No register of the spec is W1C or RWL. -/
inductive Acc where
  | ro | rw | wo | rc
deriving DecidableEq, Repr

/-- Whose space a register lies in. -/
inductive Space where
  | mgmt | ptn | local
deriving DecidableEq, Repr

/-- One field: bits `hi` down to `lo`, with its access type. -/
structure RegField where
  hi : Nat
  lo : Nat
  acc : Acc
deriving DecidableEq, Repr

/-- One register line of the spec, with `count` registers `stride` bytes apart. `own` says that writes of it are
a command of their own. -/
structure RegSpec where
  name : String
  space : Space
  base : Nat
  stride : Nat
  count : Nat
  width : Nat
  reset : Nat
  own : Bool
  fields : List RegField
deriving DecidableEq, Repr

/-- MGT_BEAT. -/
def rMgtBeat : RegSpec :=
  ⟨"MGT_BEAT", .mgmt, 0x100, 0, 1, 8, 0x0, false, [⟨63, 0, .ro⟩]⟩

/-- MGT_BEAT_FRAC. -/
def rMgtBeatFrac : RegSpec :=
  ⟨"MGT_BEAT_FRAC", .mgmt, 0x108, 0, 1, 4, 0x0, false, [⟨9, 0, .ro⟩]⟩

/-- MGT_TIME_ALIGN. -/
def rMgtTimeAlign : RegSpec :=
  ⟨"MGT_TIME_ALIGN", .mgmt, 0x110, 0, 1, 4, 0x1F0000, false, [⟨31, 30, .ro⟩, ⟨20, 16, .ro⟩, ⟨15, 0, .ro⟩]⟩

/-- MGT_PPS_BEAT. -/
def rMgtPpsBeat : RegSpec :=
  ⟨"MGT_PPS_BEAT", .mgmt, 0x118, 0, 1, 8, 0x0, false, [⟨63, 0, .ro⟩]⟩

/-- MGT_PPS_STATUS. -/
def rMgtPpsStatus : RegSpec :=
  ⟨"MGT_PPS_STATUS", .mgmt, 0x120, 0, 1, 4, 0x0, false, [⟨31, 31, .ro⟩, ⟨30, 30, .rc⟩, ⟨9, 0, .ro⟩]⟩

/-- MGT_PTN_SHAPE. -/
def rMgtPtnShape : RegSpec :=
  ⟨"MGT_PTN_SHAPE", .mgmt, 0x200, 0, 1, 4, 0x0, true, [⟨23, 8, .ro⟩, ⟨7, 7, .ro⟩, ⟨3, 2, .ro⟩, ⟨1, 0, .rw⟩]⟩

/-- MGT_SPARE_CDn. -/
def rMgtSpareCd : RegSpec :=
  ⟨"MGT_SPARE_CD", .mgmt, 0x300, 8, 4, 8, 0x0, false, [⟨63, 0, .ro⟩]⟩

/-- MGT_CORE_MAP_SEL. -/
def rMgtCoreMapSel : RegSpec :=
  ⟨"MGT_CORE_MAP_SEL", .mgmt, 0x320, 0, 1, 4, 0x0, false, [⟨17, 16, .rw⟩, ⟨12, 0, .rw⟩]⟩

/-- MGT_CORE_MAP. -/
def rMgtCoreMap : RegSpec :=
  ⟨"MGT_CORE_MAP", .mgmt, 0x328, 0, 1, 4, 0x0, false, [⟨31, 31, .ro⟩, ⟨30, 30, .ro⟩, ⟨12, 0, .ro⟩]⟩

/-- MGT_PCIE_LINK. -/
def rMgtPcieLink : RegSpec :=
  ⟨"MGT_PCIE_LINK", .mgmt, 0x400, 0, 1, 4, 0x0, false, [⟨31, 24, .ro⟩, ⟨16, 16, .ro⟩, ⟨12, 8, .ro⟩, ⟨3, 1, .ro⟩, ⟨0, 0, .ro⟩]⟩

/-- MGT_RESET. -/
def rMgtReset : RegSpec :=
  ⟨"MGT_RESET", .mgmt, 0x408, 0, 1, 4, 0x0, true, [⟨31, 16, .ro⟩, ⟨15, 15, .ro⟩, ⟨3, 0, .wo⟩]⟩

/-- MGT_FAULT_PTNn. -/
def rMgtFaultPtn : RegSpec :=
  ⟨"MGT_FAULT_PTN", .mgmt, 0x500, 8, 4, 8, 0x0, false, [⟨63, 48, .ro⟩, ⟨47, 32, .ro⟩, ⟨31, 16, .ro⟩, ⟨7, 0, .ro⟩]⟩

/-- MGT_BRINGUP. -/
def rMgtBringup : RegSpec :=
  ⟨"MGT_BRINGUP", .mgmt, 0x600, 0, 1, 8, 0x0, false, [⟨63, 56, .ro⟩, ⟨55, 52, .ro⟩, ⟨51, 46, .ro⟩, ⟨35, 16, .ro⟩, ⟨15, 12, .ro⟩, ⟨1, 0, .ro⟩]⟩

/-- MGT_BU_PHASEn. -/
def rMgtBuPhase : RegSpec :=
  ⟨"MGT_BU_PHASE", .mgmt, 0x610, 8, 12, 8, 0x0, false, [⟨63, 60, .ro⟩, ⟨55, 32, .ro⟩, ⟨31, 0, .ro⟩]⟩

/-- MGT_SB3. -/
def rMgtSb3 : RegSpec :=
  ⟨"MGT_SB3", .mgmt, 0x700, 0, 1, 4, 0x0, true, [⟨31, 16, .ro⟩, ⟨1, 0, .rw⟩]⟩

/-- PWR_LIMITS. -/
def rPwrLimits : RegSpec :=
  ⟨"PWR_LIMITS", .mgmt, 0x100000, 0, 1, 8, 0xE100CE40AF0, true, [⟨63, 48, .ro⟩, ⟨47, 32, .rw⟩, ⟨31, 16, .rw⟩, ⟨15, 0, .rw⟩]⟩

/-- PWR_CEILING. -/
def rPwrCeiling : RegSpec :=
  ⟨"PWR_CEILING", .mgmt, 0x100008, 0, 1, 4, 0xE10, true, [⟨31, 16, .ro⟩, ⟨15, 0, .rw⟩]⟩

/-- PWR_STATUS. -/
def rPwrStatus : RegSpec :=
  ⟨"PWR_STATUS", .mgmt, 0x100010, 0, 1, 8, 0x0, false, [⟨63, 48, .ro⟩, ⟨47, 32, .ro⟩, ⟨31, 16, .ro⟩, ⟨15, 15, .ro⟩, ⟨14, 11, .ro⟩, ⟨8, 0, .ro⟩]⟩

/-- PWR_CD_CLOCKn. -/
def rPwrCdClock : RegSpec :=
  ⟨"PWR_CD_CLOCK", .mgmt, 0x100020, 8, 4, 4, 0xE100C80, false, [⟨31, 16, .ro⟩, ⟨15, 0, .ro⟩]⟩

/-- PWR_PTN_STATEn. -/
def rPwrPtnState : RegSpec :=
  ⟨"PWR_PTN_STATE", .mgmt, 0x100040, 8, 4, 4, 0x4010100, true, [⟨31, 24, .rw⟩, ⟨23, 16, .rw⟩, ⟨9, 8, .rw⟩, ⟨2, 0, .ro⟩]⟩

/-- PWR_MODULE. -/
def rPwrModule : RegSpec :=
  ⟨"PWR_MODULE", .mgmt, 0x100060, 0, 1, 4, 0x0, true, [⟨31, 16, .ro⟩, ⟨0, 0, .wo⟩]⟩

/-- PWR_AGE_CDn. -/
def rPwrAgeCd : RegSpec :=
  ⟨"PWR_AGE_CD", .mgmt, 0x100080, 8, 4, 8, 0x0, false, [⟨63, 63, .ro⟩, ⟨56, 43, .ro⟩, ⟨42, 0, .ro⟩]⟩

/-- PWR_TEMPn. -/
def rPwrTemp : RegSpec :=
  ⟨"PWR_TEMP", .mgmt, 0x100100, 4, 96, 4, 0x0, false, [⟨17, 16, .ro⟩, ⟨15, 0, .ro⟩]⟩

/-- SEC_STATUS. -/
def rSecStatus : RegSpec :=
  ⟨"SEC_STATUS", .mgmt, 0x200000, 0, 1, 4, 0x0, false, [⟨15, 12, .ro⟩, ⟨11, 7, .ro⟩, ⟨1, 0, .ro⟩]⟩

/-- SEC_SVN. -/
def rSecSvn : RegSpec :=
  ⟨"SEC_SVN", .mgmt, 0x200008, 0, 1, 8, 0x0, false, [⟨47, 8, .ro⟩]⟩

/-- SEC_OP_ADDR. -/
def rSecOpAddr : RegSpec :=
  ⟨"SEC_OP_ADDR", .mgmt, 0x200010, 0, 1, 8, 0x0, false, [⟨63, 6, .rw⟩]⟩

/-- SEC_OP. -/
def rSecOp : RegSpec :=
  ⟨"SEC_OP", .mgmt, 0x200018, 0, 1, 8, 0x0, false, [⟨63, 48, .ro⟩, ⟨47, 47, .ro⟩, ⟨39, 32, .rw⟩, ⟨31, 8, .rw⟩, ⟨3, 0, .rw⟩]⟩

/-- SEC_OP_ARG2. -/
def rSecOpArg2 : RegSpec :=
  ⟨"SEC_OP_ARG2", .mgmt, 0x200020, 0, 1, 8, 0x0, false, [⟨63, 0, .rw⟩]⟩

/-- SEC_LOG_COUNT. -/
def rSecLogCount : RegSpec :=
  ⟨"SEC_LOG_COUNT", .mgmt, 0x200100, 0, 1, 8, 0x0, false, [⟨63, 0, .ro⟩]⟩

/-- SEC_LOG_HEADn. -/
def rSecLogHead : RegSpec :=
  ⟨"SEC_LOG_HEAD", .mgmt, 0x200108, 8, 4, 8, 0x0, false, [⟨63, 0, .ro⟩]⟩

/-- SEC_LOG_REFUSED. -/
def rSecLogRefused : RegSpec :=
  ⟨"SEC_LOG_REFUSED", .mgmt, 0x200128, 0, 1, 8, 0x0, false, [⟨63, 48, .rc⟩, ⟨31, 0, .rc⟩]⟩

/-- LNK_ADDR. -/
def rLnkAddr : RegSpec :=
  ⟨"LNK_ADDR", .mgmt, 0x300000, 0, 1, 4, 0x0, false, [⟨31, 31, .ro⟩, ⟨11, 8, .ro⟩, ⟨7, 4, .ro⟩, ⟨3, 0, .ro⟩]⟩

/-- LNK_SPARE. -/
def rLnkSpare : RegSpec :=
  ⟨"LNK_SPARE", .mgmt, 0x300010, 0, 1, 4, 0x7FE0, true, [⟨31, 16, .ro⟩, ⟨14, 10, .ro⟩, ⟨9, 5, .ro⟩, ⟨1, 1, .rw⟩, ⟨0, 0, .rw⟩]⟩

/-- LNK_VCW. -/
def rLnkVcw : RegSpec :=
  ⟨"LNK_VCW", .mgmt, 0x300018, 0, 1, 8, 0x50A162C58B, true, [⟨63, 48, .ro⟩, ⟨41, 0, .rw⟩]⟩

/-- LNK_SLUICE_PTNn. -/
def rLnkSluicePtn : RegSpec :=
  ⟨"LNK_SLUICE_PTN", .mgmt, 0x300020, 8, 4, 8, 0x0, true, [⟨63, 48, .ro⟩, ⟨41, 0, .rw⟩]⟩

/-- LNK_P_STATUSn. -/
def rLnkPStatus : RegSpec :=
  ⟨"LNK_P_STATUS", .mgmt, 0x300100, 16, 25, 8, 0x0, false, [⟨47, 36, .ro⟩, ⟨35, 31, .ro⟩, ⟨30, 26, .ro⟩, ⟨23, 16, .ro⟩, ⟨15, 12, .ro⟩, ⟨2, 0, .ro⟩]⟩

/-- LNK_P_ERRn. -/
def rLnkPErr : RegSpec :=
  ⟨"LNK_P_ERR", .mgmt, 0x300108, 16, 25, 8, 0x0, false, [⟨63, 32, .rc⟩, ⟨31, 16, .rc⟩, ⟨15, 8, .rc⟩, ⟨7, 0, .rc⟩]⟩

/-- STO_GEOM. -/
def rStoGeom : RegSpec :=
  ⟨"STO_GEOM", .mgmt, 0x400000, 0, 1, 8, 0x0, false, [⟨56, 56, .ro⟩, ⟨55, 48, .ro⟩, ⟨31, 0, .ro⟩]⟩

/-- STO_HEALTH. -/
def rStoHealth : RegSpec :=
  ⟨"STO_HEALTH", .mgmt, 0x400008, 0, 1, 8, 0x0, false, [⟨63, 56, .ro⟩, ⟨55, 40, .ro⟩, ⟨39, 32, .ro⟩, ⟨3, 0, .ro⟩]⟩

/-- STO_WEAR. -/
def rStoWear : RegSpec :=
  ⟨"STO_WEAR", .mgmt, 0x400010, 0, 1, 8, 0x0, false, [⟨63, 32, .ro⟩, ⟨31, 16, .ro⟩, ⟨15, 0, .ro⟩]⟩

/-- STO_HOLDUP. -/
def rStoHoldup : RegSpec :=
  ⟨"STO_HOLDUP", .mgmt, 0x400018, 0, 1, 4, 0x0, false, [⟨31, 16, .ro⟩, ⟨15, 8, .ro⟩, ⟨1, 0, .ro⟩]⟩

/-- STO_ERR. -/
def rStoErr : RegSpec :=
  ⟨"STO_ERR", .mgmt, 0x400020, 0, 1, 8, 0x0, false, [⟨63, 32, .ro⟩, ⟨31, 16, .ro⟩, ⟨15, 0, .ro⟩]⟩

/-- MEM_SLM_SPLIT_PTNn. -/
def rMemSlmSplitPtn : RegSpec :=
  ⟨"MEM_SLM_SPLIT_PTN", .mgmt, 0x500000, 8, 4, 4, 0x246, true, [⟨31, 16, .ro⟩, ⟨15, 15, .ro⟩, ⟨11, 8, .rw⟩, ⟨7, 4, .rw⟩, ⟨3, 0, .rw⟩]⟩

/-- MEM_HBM_Hn. -/
def rMemHbmH : RegSpec :=
  ⟨"MEM_HBM_H", .mgmt, 0x500100, 8, 12, 8, 0x0, false, [⟨63, 40, .ro⟩, ⟨39, 32, .ro⟩, ⟨31, 24, .ro⟩, ⟨23, 5, .ro⟩, ⟨2, 0, .ro⟩]⟩

/-- MEM_HBM_PCFAIL_Hn. -/
def rMemHbmPcfailH : RegSpec :=
  ⟨"MEM_HBM_PCFAIL_H", .mgmt, 0x500180, 8, 12, 8, 0x0, false, [⟨63, 0, .ro⟩]⟩

/-- MEM_POOL_SIZE. -/
def rMemPoolSize : RegSpec :=
  ⟨"MEM_POOL_SIZE", .mgmt, 0x501000, 0, 1, 8, 0x0, false, [⟨63, 32, .ro⟩, ⟨31, 0, .ro⟩]⟩

/-- MEM_POOL_RESULT. -/
def rMemPoolResult : RegSpec :=
  ⟨"MEM_POOL_RESULT", .mgmt, 0x501008, 0, 1, 4, 0x0, false, [⟨15, 0, .ro⟩]⟩

/-- MEM_POOL_PTNn. -/
def rMemPoolPtn : RegSpec :=
  ⟨"MEM_POOL_PTN", .mgmt, 0x501010, 8, 4, 8, 0xFFFFFFFF00000000, true, [⟨63, 32, .rw⟩, ⟨31, 0, .rw⟩]⟩

/-- MEM_POOL_USE_PTNn. -/
def rMemPoolUsePtn : RegSpec :=
  ⟨"MEM_POOL_USE_PTN", .mgmt, 0x501030, 8, 4, 8, 0x0, false, [⟨63, 32, .ro⟩, ⟨31, 0, .ro⟩]⟩

/-- MEM_TIER_PTNn. -/
def rMemTierPtn : RegSpec :=
  ⟨"MEM_TIER_PTN", .mgmt, 0x501050, 8, 4, 4, 0x400100, false, [⟨31, 16, .rw⟩, ⟨15, 0, .rw⟩]⟩

/-- MEM_TIER_QSEL. -/
def rMemTierQsel : RegSpec :=
  ⟨"MEM_TIER_QSEL", .mgmt, 0x501070, 0, 1, 8, 0x0, false, [⟨49, 48, .rw⟩, ⟨47, 18, .rw⟩]⟩

/-- MEM_TIER_QRES. -/
def rMemTierQres : RegSpec :=
  ⟨"MEM_TIER_QRES", .mgmt, 0x501078, 0, 1, 8, 0xFFFFFFFFFFFFFFFF, false, [⟨63, 0, .ro⟩]⟩

/-- MEM_CUT_PTNn. -/
def rMemCutPtn : RegSpec :=
  ⟨"MEM_CUT_PTN", .mgmt, 0x501080, 8, 4, 8, 0x101, false, [⟨63, 32, .ro⟩, ⟨23, 22, .ro⟩, ⟨21, 21, .ro⟩, ⟨20, 20, .rc⟩, ⟨16, 16, .wo⟩, ⟨15, 8, .ro⟩, ⟨7, 0, .rw⟩]⟩

/-- MEM_CUT_DONE_PTNn. -/
def rMemCutDonePtn : RegSpec :=
  ⟨"MEM_CUT_DONE_PTN", .mgmt, 0x5010A0, 8, 4, 8, 0x0, false, [⟨63, 0, .ro⟩]⟩

/-- MEM_BUDDY_PTNn. -/
def rMemBuddyPtn : RegSpec :=
  ⟨"MEM_BUDDY_PTN", .mgmt, 0x5010C0, 8, 4, 8, 0x0, true, [⟨63, 48, .ro⟩, ⟨47, 36, .rw⟩, ⟨35, 34, .rw⟩, ⟨33, 31, .rw⟩, ⟨2, 1, .ro⟩, ⟨0, 0, .rw⟩]⟩

/-- MEM_BUDDY_ACCEPT_PTNn. -/
def rMemBuddyAcceptPtn : RegSpec :=
  ⟨"MEM_BUDDY_ACCEPT_PTN", .mgmt, 0x5010E0, 8, 4, 4, 0x0, false, [⟨15, 0, .rw⟩]⟩

/-- MEM_RESTORE_PTNn. -/
def rMemRestorePtn : RegSpec :=
  ⟨"MEM_RESTORE_PTN", .mgmt, 0x501100, 8, 4, 8, 0x0, false, [⟨63, 48, .ro⟩, ⟨47, 36, .rw⟩, ⟨35, 34, .rw⟩, ⟨33, 32, .rw⟩, ⟨2, 1, .ro⟩, ⟨0, 0, .wo⟩]⟩

/-- EVT_PF0_Q_BASEn. -/
def rEvtPf0QBase : RegSpec :=
  ⟨"EVT_PF0_Q_BASE", .mgmt, 0x600020, 32, 31, 8, 0x0, false, [⟨63, 12, .rw⟩]⟩

/-- EVT_PF0_Q_HEADPTRn. -/
def rEvtPf0QHeadptr : RegSpec :=
  ⟨"EVT_PF0_Q_HEADPTR", .mgmt, 0x600028, 32, 31, 8, 0x0, false, [⟨63, 3, .rw⟩]⟩

/-- EVT_PF0_Q_CFGn. -/
def rEvtPf0QCfg : RegSpec :=
  ⟨"EVT_PF0_Q_CFG", .mgmt, 0x600030, 32, 31, 8, 0x10000, true, [⟨63, 63, .rw⟩, ⟨36, 32, .rw⟩, ⟨23, 16, .rw⟩, ⟨15, 0, .rw⟩]⟩

/-- EVT_PF0_Q_STATUSn. -/
def rEvtPf0QStatus : RegSpec :=
  ⟨"EVT_PF0_Q_STATUS", .mgmt, 0x600038, 32, 31, 4, 0x0, false, [⟨31, 16, .ro⟩, ⟨15, 8, .rc⟩, ⟨1, 0, .ro⟩]⟩

/-- EVT_PF0_ROUTEn. -/
def rEvtPf0Route : RegSpec :=
  ⟨"EVT_PF0_ROUTE", .mgmt, 0x601000, 4, 256, 4, 0x0, false, [⟨31, 31, .rw⟩, ⟨6, 0, .rw⟩]⟩

/-- MGT_TEL_BASE. -/
def rMgtTelBase : RegSpec :=
  ⟨"MGT_TEL_BASE", .mgmt, 0x700000, 0, 1, 8, 0x0, false, [⟨63, 12, .rw⟩]⟩

/-- MGT_TEL_HEADPTR. -/
def rMgtTelHeadptr : RegSpec :=
  ⟨"MGT_TEL_HEADPTR", .mgmt, 0x700008, 0, 1, 8, 0x0, false, [⟨63, 3, .rw⟩]⟩

/-- MGT_TEL_CFG. -/
def rMgtTelCfg : RegSpec :=
  ⟨"MGT_TEL_CFG", .mgmt, 0x700010, 0, 1, 4, 0x0, false, [⟨31, 31, .rw⟩, ⟨15, 8, .rc⟩, ⟨4, 0, .rw⟩]⟩

/-- MSIX_PF0_ADDRn. -/
def rMsixPf0Addr : RegSpec :=
  ⟨"MSIX_PF0_ADDR", .mgmt, 0x3F00000, 16, 32, 8, 0x0, false, [⟨63, 2, .rw⟩]⟩

/-- MSIX_PF0_DATAn. -/
def rMsixPf0Data : RegSpec :=
  ⟨"MSIX_PF0_DATA", .mgmt, 0x3F00008, 16, 32, 8, 0x100000000, false, [⟨32, 32, .rw⟩, ⟨31, 0, .rw⟩]⟩

/-- MSIX_PF0_PBA. -/
def rMsixPf0Pba : RegSpec :=
  ⟨"MSIX_PF0_PBA", .mgmt, 0x3F80000, 8, 1, 8, 0x0, false, [⟨63, 0, .ro⟩]⟩

/-- PTN_FUNC_STATE. -/
def rPtnFuncState : RegSpec :=
  ⟨"PTN_FUNC_STATE", .ptn, 0x0, 0, 1, 4, 0x1, false, [⟨2, 0, .ro⟩]⟩

/-- PTN_BEAT. -/
def rPtnBeat : RegSpec :=
  ⟨"PTN_BEAT", .ptn, 0x100, 0, 1, 8, 0x0, false, [⟨63, 0, .ro⟩]⟩

/-- PTN_HOSTWIN. -/
def rPtnHostwin : RegSpec :=
  ⟨"PTN_HOSTWIN", .ptn, 0x200, 0, 1, 8, 0x0, false, [⟨47, 30, .rw⟩, ⟨0, 0, .rw⟩]⟩

/-- PTN_HOSTWIN_MISS. -/
def rPtnHostwinMiss : RegSpec :=
  ⟨"PTN_HOSTWIN_MISS", .ptn, 0x208, 0, 1, 8, 0x0, false, [⟨63, 48, .rc⟩, ⟨47, 18, .rc⟩]⟩

/-- PTN_SQ_BASEn. -/
def rPtnSqBase : RegSpec :=
  ⟨"PTN_SQ_BASE", .ptn, 0x100000, 64, 64, 8, 0x0, false, [⟨63, 12, .rw⟩]⟩

/-- PTN_SQ_SHADOWn. -/
def rPtnSqShadow : RegSpec :=
  ⟨"PTN_SQ_SHADOW", .ptn, 0x100008, 64, 64, 8, 0x0, false, [⟨63, 6, .rw⟩]⟩

/-- PTN_SQ_CFGn. -/
def rPtnSqCfg : RegSpec :=
  ⟨"PTN_SQ_CFG", .ptn, 0x100010, 64, 64, 4, 0x0, true, [⟨31, 31, .rw⟩, ⟨30, 30, .rw⟩, ⟨21, 16, .rw⟩, ⟨4, 0, .rw⟩]⟩

/-- PTN_SQ_NEXTn. -/
def rPtnSqNext : RegSpec :=
  ⟨"PTN_SQ_NEXT", .ptn, 0x100018, 64, 64, 8, 0x0, false, [⟨63, 0, .rw⟩]⟩

/-- PTN_SQ_STATUSn. -/
def rPtnSqStatus : RegSpec :=
  ⟨"PTN_SQ_STATUS", .ptn, 0x100020, 64, 64, 4, 0x0, false, [⟨31, 16, .ro⟩, ⟨11, 8, .ro⟩, ⟨7, 4, .ro⟩, ⟨2, 0, .ro⟩]⟩

/-- PTN_CQ_BASEn. -/
def rPtnCqBase : RegSpec :=
  ⟨"PTN_CQ_BASE", .ptn, 0x101000, 64, 64, 8, 0x0, false, [⟨63, 12, .rw⟩]⟩

/-- PTN_CQ_HEADPTRn. -/
def rPtnCqHeadptr : RegSpec :=
  ⟨"PTN_CQ_HEADPTR", .ptn, 0x101008, 64, 64, 8, 0x0, false, [⟨63, 3, .rw⟩]⟩

/-- PTN_CQ_CFGn. -/
def rPtnCqCfg : RegSpec :=
  ⟨"PTN_CQ_CFG", .ptn, 0x101010, 64, 64, 4, 0x0, true, [⟨31, 31, .rw⟩, ⟨23, 16, .rw⟩, ⟨4, 0, .rw⟩]⟩

/-- PTN_CQ_STATUSn. -/
def rPtnCqStatus : RegSpec :=
  ⟨"PTN_CQ_STATUS", .ptn, 0x101018, 64, 64, 4, 0x0, false, [⟨31, 16, .ro⟩, ⟨2, 0, .ro⟩]⟩

/-- PTN_ACCEPT. -/
def rPtnAccept : RegSpec :=
  ⟨"PTN_ACCEPT", .ptn, 0x102000, 0, 1, 8, 0x0, false, [⟨33, 33, .ro⟩, ⟨32, 32, .ro⟩, ⟨31, 16, .ro⟩, ⟨15, 0, .ro⟩]⟩

/-- PTN_JOB. -/
def rPtnJob : RegSpec :=
  ⟨"PTN_JOB", .ptn, 0x102008, 0, 1, 4, 0x0, false, [⟨3, 0, .ro⟩]⟩

/-- EVT_Q_BASEn. -/
def rEvtQBase : RegSpec :=
  ⟨"EVT_Q_BASE", .ptn, 0x200000, 32, 128, 8, 0x0, false, [⟨63, 12, .rw⟩]⟩

/-- EVT_Q_HEADPTRn. -/
def rEvtQHeadptr : RegSpec :=
  ⟨"EVT_Q_HEADPTR", .ptn, 0x200008, 32, 128, 8, 0x0, false, [⟨63, 3, .rw⟩]⟩

/-- EVT_Q_CFGn. -/
def rEvtQCfg : RegSpec :=
  ⟨"EVT_Q_CFG", .ptn, 0x200010, 32, 128, 8, 0x10000, true, [⟨63, 63, .rw⟩, ⟨36, 32, .rw⟩, ⟨23, 16, .rw⟩, ⟨15, 0, .rw⟩]⟩

/-- EVT_Q_STATUSn. -/
def rEvtQStatus : RegSpec :=
  ⟨"EVT_Q_STATUS", .ptn, 0x200018, 32, 128, 4, 0x0, false, [⟨31, 16, .ro⟩, ⟨15, 8, .rc⟩, ⟨1, 0, .ro⟩]⟩

/-- EVT_ROUTEn. -/
def rEvtRoute : RegSpec :=
  ⟨"EVT_ROUTE", .ptn, 0x201000, 4, 256, 4, 0x0, false, [⟨31, 31, .rw⟩, ⟨6, 0, .rw⟩]⟩

/-- COL_GRP_SHAPEn. -/
def rColGrpShape : RegSpec :=
  ⟨"COL_GRP_SHAPE", .ptn, 0x300000, 16, 64, 8, 0x0, true, [⟨63, 63, .rw⟩, ⟨47, 32, .rw⟩, ⟨31, 28, .rw⟩, ⟨27, 24, .rw⟩, ⟨23, 20, .rw⟩, ⟨19, 16, .rw⟩, ⟨15, 0, .rw⟩]⟩

/-- COL_GRP_STATUSn. -/
def rColGrpStatus : RegSpec :=
  ⟨"COL_GRP_STATUS", .ptn, 0x300008, 16, 64, 8, 0x0, false, [⟨63, 48, .ro⟩, ⟨47, 35, .ro⟩, ⟨31, 20, .ro⟩, ⟨1, 0, .ro⟩]⟩

/-- COL_CQ_CFGn. -/
def rColCqCfg : RegSpec :=
  ⟨"COL_CQ_CFG", .ptn, 0x301000, 16, 64, 8, 0x0, true, [⟨63, 63, .rw⟩, ⟨60, 56, .rw⟩, ⟨53, 48, .rw⟩, ⟨31, 0, .rw⟩]⟩

/-- COL_CQ_STATUSn. -/
def rColCqStatus : RegSpec :=
  ⟨"COL_CQ_STATUS", .ptn, 0x301008, 16, 64, 8, 0x0, false, [⟨63, 48, .ro⟩, ⟨47, 32, .ro⟩, ⟨1, 0, .ro⟩]⟩

/-- CDC_CE_STATUSn. -/
def rCdcCeStatus : RegSpec :=
  ⟨"CDC_CE_STATUS", .ptn, 0x400000, 8, 8, 8, 0x0, false, [⟨63, 32, .ro⟩, ⟨31, 24, .ro⟩, ⟨21, 16, .ro⟩, ⟨2, 0, .ro⟩]⟩

/-- CDC_SES_STATUSn. -/
def rCdcSesStatus : RegSpec :=
  ⟨"CDC_SES_STATUS", .ptn, 0x400100, 8, 64, 8, 0x0, false, [⟨63, 32, .ro⟩, ⟨31, 16, .ro⟩, ⟨10, 8, .ro⟩, ⟨3, 3, .ro⟩, ⟨2, 2, .ro⟩, ⟨1, 0, .ro⟩]⟩

/-- MSIX_ADDRn. PRESUMED, log entry 143. -/
def rMsixAddr : RegSpec :=
  ⟨"MSIX_ADDR", .ptn, 0x1F00000, 16, 128, 8, 0x0, false, [⟨63, 2, .rw⟩]⟩

/-- MSIX_DATAn. -/
def rMsixData : RegSpec :=
  ⟨"MSIX_DATA", .ptn, 0x1F00008, 16, 128, 8, 0x100000000, false, [⟨32, 32, .rw⟩, ⟨31, 0, .rw⟩]⟩

/-- MSIX_PBAn. -/
def rMsixPba : RegSpec :=
  ⟨"MSIX_PBA", .ptn, 0x1F80000, 8, 2, 8, 0x0, false, [⟨63, 0, .ro⟩]⟩

/-- EVT_LCL_CTRL. -/
def rEvtLclCtrl : RegSpec :=
  ⟨"EVT_LCL_CTRL", .local, 0x0, 0, 1, 4, 0x4, false, [⟨3, 0, .rw⟩]⟩

/-- EVT_LCL_CLAIM. -/
def rEvtLclClaim : RegSpec :=
  ⟨"EVT_LCL_CLAIM", .local, 0x8, 0, 1, 4, 0xFFF, true, [⟨23, 16, .ro⟩, ⟨11, 0, .ro⟩]⟩

/-- EVT_LCL_COMPLETE. -/
def rEvtLclComplete : RegSpec :=
  ⟨"EVT_LCL_COMPLETE", .local, 0x10, 0, 1, 4, 0x0, true, [⟨11, 0, .wo⟩]⟩

/-- EVT_LCL_PRIn. -/
def rEvtLclPri : RegSpec :=
  ⟨"EVT_LCL_PRI", .local, 0x4000, 4, 4096, 4, 0x0, false, [⟨8, 8, .rw⟩, ⟨7, 0, .rw⟩]⟩

/-- Part 1 of the register map. -/
def regMapPart1 : List RegSpec :=
  [rMgtBeat, rMgtBeatFrac, rMgtTimeAlign, rMgtPpsBeat, rMgtPpsStatus,
   rMgtPtnShape, rMgtSpareCd, rMgtCoreMapSel, rMgtCoreMap, rMgtPcieLink,
   rMgtReset, rMgtFaultPtn, rMgtBringup, rMgtBuPhase, rMgtSb3,
   rPwrLimits, rPwrCeiling, rPwrStatus, rPwrCdClock, rPwrPtnState,
   rPwrModule, rPwrAgeCd, rPwrTemp, rSecStatus, rSecSvn]

/-- Part 2 of the register map. -/
def regMapPart2 : List RegSpec :=
  [rSecOpAddr, rSecOp, rSecOpArg2, rSecLogCount, rSecLogHead,
   rSecLogRefused, rLnkAddr, rLnkSpare, rLnkVcw, rLnkSluicePtn,
   rLnkPStatus, rLnkPErr, rStoGeom, rStoHealth, rStoWear,
   rStoHoldup, rStoErr, rMemSlmSplitPtn, rMemHbmH, rMemHbmPcfailH,
   rMemPoolSize, rMemPoolResult, rMemPoolPtn, rMemPoolUsePtn, rMemTierPtn]

/-- Part 3 of the register map. -/
def regMapPart3 : List RegSpec :=
  [rMemTierQsel, rMemTierQres, rMemCutPtn, rMemCutDonePtn, rMemBuddyPtn,
   rMemBuddyAcceptPtn, rMemRestorePtn, rEvtPf0QBase, rEvtPf0QHeadptr, rEvtPf0QCfg,
   rEvtPf0QStatus, rEvtPf0Route, rMgtTelBase, rMgtTelHeadptr, rMgtTelCfg,
   rMsixPf0Addr, rMsixPf0Data, rMsixPf0Pba, rPtnFuncState, rPtnBeat,
   rPtnHostwin, rPtnHostwinMiss, rPtnSqBase, rPtnSqShadow, rPtnSqCfg]

/-- Part 4 of the register map. -/
def regMapPart4 : List RegSpec :=
  [rPtnSqNext, rPtnSqStatus, rPtnCqBase, rPtnCqHeadptr, rPtnCqCfg,
   rPtnCqStatus, rPtnAccept, rPtnJob, rEvtQBase, rEvtQHeadptr,
   rEvtQCfg, rEvtQStatus, rEvtRoute, rColGrpShape, rColGrpStatus,
   rColCqCfg, rColCqStatus, rCdcCeStatus, rCdcSesStatus, rMsixAddr,
   rMsixData, rMsixPba, rEvtLclCtrl, rEvtLclClaim, rEvtLclComplete]

/-- Part 5 of the register map. -/
def regMapPart5 : List RegSpec :=
  [rEvtLclPri]

/-- The register map. -/
def regMap : List RegSpec :=
  regMapPart1 ++ regMapPart2 ++ regMapPart3 ++ regMapPart4 ++ regMapPart5

/-- The key of the register at BAR0 offset `off` of function `fn` (0 for PF0, n + 1 for PTNn); `fn` 16 + q is the
local space of on-module processor q. -/
def regKey (fn off : Nat) : Nat := fn * 0x4000000 + off

/-- Key of element `i` of register line `r` in function `fn`. -/
def RegSpec.key (r : RegSpec) (fn i : Nat) : Nat := regKey fn (r.base + r.stride * i)

/-- Does function `fn` have the space of register line `r`? -/
def Space.holds : Space → Nat → Bool
  | .mgmt, fn => fn == 0
  | .ptn, fn => decide (1 ≤ fn) && decide (fn ≤ 4)
  | .local, fn => decide (16 ≤ fn)

/-- The element of line `r` that the aligned access of `width` bytes at `off` falls into, with the byte within
it. -/
def RegSpec.hit (r : RegSpec) (fn off : Nat) : Option (Nat × Nat) :=
  if r.space.holds fn = false then none
  else if off < r.base then none
  else if r.stride = 0 then
    if off < r.base + r.width then some (0, off - r.base) else none
  else if (off - r.base) / r.stride < r.count ∧ (off - r.base) % r.stride < r.width then
    some ((off - r.base) / r.stride, (off - r.base) % r.stride)
  else none

/-- The register line, element and byte at an offset, if any (R313). -/
def findReg (fn off : Nat) : List RegSpec → Option (RegSpec × Nat × Nat)
  | [] => none
  | r :: rs => match r.hit fn off with
    | some (i, b) => some (r, i, b)
    | none => findReg fn off rs

/-- Reset value of element `i` of line `r` in function `fn` (R383 gives LNK_SLUICE_PTN0 its own). -/
def RegSpec.resetOf (r : RegSpec) (i : Nat) : Nat :=
  if r.space = .mgmt ∧ r.base = 0x300020 ∧ i = 0 then 0x0000020408102040 else r.reset

/-- The reset value of the register with key `k`; 0 where no register lies. -/
def regReset (k : Nat) : W64 :=
  match findReg (k / 0x4000000) (k % 0x4000000) regMap with
  | some (r, i, _) => BitVec.ofNat 64 (r.resetOf i)
  | none => 0#64

end Sys2Proof.Machine
end

