-- ==== Sys2Proof/Machine/State.lean ====
section
/-! DEFINITION. The state of the module: everything the spec gives it, as plain data, and the state before
power-good. Numbers that name parts, beats and counts are `Nat`; words that software or a link sees are bit
vectors. -/

namespace Sys2Proof.Machine

/-- Why a command could stop the module. No command of the table does: every command has an effect or, where the
present state does not enable it, none (DESIGN CHOICE, log entry 2). The one constructor stands for that. Safe. -/
inductive Fault where
  /-- Raised by no command. Safe. -/
  | none
deriving DecidableEq, Repr

/-- Why a command could have no meaning. -/
inductive Refusal where
  /-- Raised by an arm of `exec` that has no meaning yet; the string is the row's mnemonic. Safe. -/
  | notModelled (mnemonic : String)
deriving DecidableEq, Repr

/-- What the module puts out: host writes, messages, responses, register read data. -/
inductive Output where
  /-- A posted write of function `fn` to host memory. -/
  | hostWrite (fn : Nat) (addr : Nat) (data : Bytes)
  /-- An MSI-X message of vector `vec` (R367). -/
  | msix (fn vec : Nat) (addr : Nat) (data : Nat)
  /-- What a register read returned. -/
  | readData (fn off width : Nat) (v : W64)
  /-- A read of host memory by the headgate of function `fn` (R328, R333). -/
  | hostRead (fn : Nat) (addr len : Nat)
  /-- A BAR0 access that completes with Unsupported Request (R504). -/
  | unsupported (fn off : Nat)
  /-- What a host window read returned; none is Unsupported Request (R314). -/
  | window (p : Nat) (data : Option Bytes)
  /-- A message on the management plane or a link's VC1: kind, port and words (R395, R498, R560, R576). -/
  | message (kind : String) (port : Nat) (words : List Nat)
  /-- A flit sent at a port, and the symbols that its eight lanes carry in each symbol time (R373). -/
  | flit (port : Nat) (f : Flit) (lanes : List (List Sym))
  /-- A packet of a link-engine operation to this module itself. -/
  | packet (m : Packet)
  /-- The acknowledgement of a packet, to its source, with a failing status or DONE (R413). -/
  | ack (m : Packet) (status : Nat)
deriving DecidableEq, Repr

/-! ### Events (R358 to R370) -/

/-- A waiting event record (R364, R366). -/
structure EvRec where
  ev : Nat := 0
  beat : Nat := 0
  d0 : Nat := 0
  d1 : Nat := 0
  status : Nat := 0
  count : Nat := 1
deriving DecidableEq, Repr

/-- What an event queue holds beside its registers (R361 to R367). -/
structure EvQ where
  /-- Records not yet written, oldest first. -/
  waiting : List EvRec := []
  /-- Written count w (R365). -/
  written : Nat := 0
  /-- The head word as last read (R365). -/
  head : Nat := 0
  /-- Records written since the last message (R367). -/
  u : Nat := 0
  /-- LOST of the next record (R366). -/
  lostNext : Bool := false
  /-- The beat at whose end the coalescing timer fires. -/
  due : Option Nat := none
  /-- COUNT and TIME in force (R362). -/
  count : Nat := 1
  time : Nat := 0
deriving DecidableEq, Repr

/-- A local event interface (R368, R369): pending numbers, with the functions in whose scope each of them has been raised (R360), and active
numbers, the most recently claimed first. -/
structure Lcl where
  pend : List Nat := []
  raised : List (Nat × Nat) := []
  active : List Nat := []
deriving DecidableEq, Repr

/-! ### Rings (R326 to R341) -/

/-- What a submission ring holds beside its registers. -/
structure Sq where
  target : W64 := 0
  /-- Acceptance records sent and not acknowledged, oldest first, as their eight words. -/
  awaiting : List (List W64) := []
  completed : Nat := 0
  durable : Nat := 0
  /-- The four words last written to the shadow area, none since the ring was last enabled, and whether the ring has an area: it has been
  enabled since it was formed or discarded (R334). -/
  shadow : List Nat := []
  shadowed : Bool := false
deriving DecidableEq, Repr

/-- What a completion ring holds beside its registers. -/
structure Cq where
  written : Nat := 0
  /-- Slots given out to journaled completions. -/
  given : Nat := 0
  head : Nat := 0
deriving DecidableEq, Repr

/-! ### Link ports (R371 to R394) -/

/-- What waits at a port: a packet's slots, header first, with its virtual channel, dateline class, partition and key
slot (R376, R379, R382, R383). -/
structure TxPkt where
  vc : Nat := 0
  cls : Nat := 0
  part : Nat := 0
  key : Nat := 0
  slots : List Slot := []
deriving DecidableEq, Repr

/-- A key slot of a port: the key's key_id, the peer's slot of the same key once its KEY_READY has arrived, and the 36 bytes of key and salt
of each direction (R392, R393). -/
structure KeySlot where
  keyId : Nat := 0
  peer : Option Nat := none
  tx : List Byte := []
  rx : List Byte := []
  /-- Has this module's own KEY_READY gone out? -/
  told : Bool := false
deriving DecidableEq, Repr

/-- What a port keeps beside its registers. -/
structure Port where
  /-- Next FSEQ to send, packet flits sent and not acknowledged, and how many of them need not be sent again (R377). -/
  tx : Nat := 0
  replay : List Flit := []
  sent : Nat := 0
  /-- Slots of the packet that the first of those flits continues, sent in flits that are acknowledged (R390). -/
  lead : List Slot := []
  /-- Next FSEQ expected, slots of a packet that has begun, the last value NAKed with the flit times since, and whether
  a NAK is to be sent (R377). -/
  rx : Nat := 0
  part : List Slot := []
  nakFor : Option (Nat × Nat) := none
  nakDue : Bool := false
  /-- The FSEQ last retried and how often (R378). -/
  retry : Nat × Nat := (0, 0)
  /-- Counters of the last flit sent and of the last one met, the next being one more (R391), and the last counter accepted by key
  slot. -/
  txCtr : Nat := 0
  rxCtr : Nat := 0
  rxLast : Tbl Nat := []
  /-- Packets that wait, oldest first, and the packet that has started, with what is left of it. -/
  queue : List TxPkt := []
  cur : Option TxPkt := none
  /-- Credits held, by channel × 2 + class, and packets whose credits the peer has not returned, as (channel × 2 + class,
  partition, slots), oldest first (R382, R383). -/
  credits : Tbl Nat := []
  outst : List (Nat × Nat × Nat) := []
  /-- Slots freed here and not yet returned. -/
  freed : Tbl Nat := []
  /-- Bucket of VC0 and flit times since its refill (R380). -/
  tokens : Nat := 512
  ticks : Nat := 0
  /-- Slots counted for each data channel, sent or given up while it had nothing to send (R381). -/
  served : Tbl Nat := []
  /-- Authentication failures, with the epoch they are counted in (R394). -/
  auth : Nat × Nat := (0, 0)
  /-- Lanes agreed in a retraining, and the lanes in use (R373, R385). -/
  agreed : BitVec 8 := 0
  lanes : BitVec 8 := 0xff
  keys : Tbl KeySlot := []
  /-- key_ids that the peer has announced, by its key slot (R393). -/
  ready : Tbl Nat := []
  /-- Boundaries since a beat in which the port carried a flit other than idle ones, up to 17 (R532). -/
  still : Nat := 0
deriving DecidableEq, Repr

/-- What the links hold for the whole module: the channel weights, sluice shares and spare modes in force (R381, R384,
R387), and ports of other modules that are known to be down, as address × 32 + port (R389). -/
structure Links where
  ports : Tbl Port := []
  weights : Nat := 0x50A162C58B
  shares : Tbl Nat := []
  torus : BitVec 2 := 0
  down : List Nat := []
  /-- Ports that have failed since the last boundary (R386). -/
  failed : List Nat := []
  /-- PUT, ADD and CTR packets for this module that have been accepted and wait for a page or for a partition to leave L2 or L3, oldest
  first (R44, R412, R531). -/
  inbox : List Packet := []
deriving DecidableEq, Repr

/-! ### Collectives (R403 to R426, R448) -/

/-- A dissemination in progress: its generation, FUNC, round (3 once every round is done) and the value so far (R416,
R417). -/
structure Wag where
  /-- One of the module's own (R448). -/
  own : Bool := false
  gen : Nat := 0
  func : Nat := 0
  round : Nat := 0
  lanes : List W64 := []
deriving DecidableEq, Repr

/-- A collective group: the members heard, as (address, partition, group number), the beat in which it began to form,
whether GROUP_STATE has been raised for that, operations taken and finished on it, and messages held (R405, R417). -/
structure Grp where
  heard : List (Nat × Nat × Nat) := []
  since : Nat := 0
  warned : Bool := false
  wagTaken : Nat := 0
  wagDone : Nat := 0
  colTaken : Nat := 0
  colDone : Nat := 0
  held : List WagMsg := []
  early : List Packet := []
deriving DecidableEq, Repr

/-- An entry taken from a communication queue (R408, R410): its words, its number among its group's waggles or data
collectives, the beat its timeout runs from, how far it is, and the status it is to complete with. -/
structure COp where
  q : Nat := 0
  n : Nat := 0
  words : List Nat := []
  ord : Nat := 0
  armed : Option Nat := none
  wag : Wag := {}
  /-- Step of a data collective (R422), and the bytes that have come by source dimension and packet type. -/
  step : Nat := 0
  got : Tbl Nat := []
  /-- The outcome, once the rounds or steps are over. -/
  ready : Option Nat := none
  /-- Completed: DONE advances over it when its predecessors have (R411). -/
  done : Bool := false
  pins : List Nat := []
deriving DecidableEq, Repr

/-- Collectives of a partition: trigger counters, groups, entries taken and not yet behind DONE, entries taken in the
present beat, and the module's own waggles (R448): the one that runs, how many have run, those held, and the STEP after
which a group cut is due. -/
structure Col where
  trig : Tbl W64 := []
  groups : Tbl Grp := []
  ops : List COp := []
  taken : Nat := 0
  own : Option Wag := none
  ownGen : Nat := 0
  ownHeld : List WagMsg := []
  cutAfter : Option Nat := none
  /-- STEP number that this member is rolling back to, as it tells the group (R450). -/
  target : Nat := 0
  /-- Hellos that match no enabled group yet (R405). -/
  hellos : List Hello := []
  /-- Beat in which a group cut was last considered (R448). -/
  judged : Nat := 0
deriving DecidableEq, Repr

/-! ### Partitions -/

/-- PTN_FUNC_STATE (R309). -/
inductive Func where
  | absent | resetting | ready | discarding
deriving DecidableEq, Repr

/-- Job states (R342). -/
inductive JobState where
  | noJob | opening | running | suspending | suspended | resuming | closing
deriving DecidableEq, Repr

/-- MEM_CUT_PTNn STATE (R261). -/
inductive CutPhase where
  | idle | saving | flushing
deriving DecidableEq, Repr

/-- A partition (R22). -/
structure Ptn where
  func : Func := .resetting
  job : JobState := .noJob
  info : JobInfo := {}
  live : JobData := {}
  /-- Tile issue stopped for a cut, suspension or rollback from the boundary ending this beat (R49). -/
  paused : Option Nat := none
  cutPhase : CutPhase := .idle
  /-- The cut being saved, as it was taken: its beat, the start order reached, and how far each ring had completed (R335, R340). -/
  cutMark : Option (Nat × Nat × Tbl Nat) := none
  /-- The cut taken and not durable (R252), the last durable cut, and the save copy of a suspended job (R352). -/
  pend : Option CutImg := none
  durable : Option CutImg := none
  saved : Option CutImg := none
  /-- Older group cuts whose images are kept (R449). -/
  older : List CutImg := []
  /-- The durable cut cannot be read, or a page of it is lost (R442, R446). -/
  targetLost : Bool := false
  /-- Requests of a cut: TAKE with the beat of the write, the initial cut, an early cut, a deferred cut (R251). -/
  cutTake : Option Nat := none
  cutInit : Bool := false
  cutEarly : Bool := false
  cutDefer : Bool := false
  cutDeferEpoch : Option Nat := none
  /-- The deferral of the early cut that is wanted has been reported (R251, R260). -/
  earlySeen : Bool := false
  /-- A cut fell due when none could be taken (R251). -/
  cutWaits : Bool := false
  /-- Epoch of the last periodic cut or of the initial cut (R251). -/
  cutEpoch : Nat := 0
  flushed : Nat := 0
  sqs : Tbl Sq := []
  cqs : Tbl Cq := []
  descs : List ADesc := []
  journal : List JEntry := []
  /-- Counts that order acceptance, starts and readiness (R336). -/
  accOrd : Nat := 0
  startOrd : Nat := 0
  readyOrd : Nat := 0
  step : Option StepSt := none
  /-- STEPs opened since JOB_OPEN (R448). -/
  stepNo : Nat := 0
  /-- Pages held since they were released in the current step (R250). -/
  heldPages : List Nat := []
  used : Nat := 0
  /-- Charges, free frames, tier entries, and the AGE of pages never pinned, at the most recent boundary (R227, R232, R241). -/
  usedSeen : Nat := 0
  idleSeen : Nat := 0
  freeSeen : Nat := 0
  seen : Tbl Page := []
  /-- Tier request queue stopped by a TAIL that overran (R235), and frames a reservation waits for (R247). -/
  trqStop : Bool := false
  need : Nat := 0
  /-- Checks that wait, by logical core, in the order in which they reached the check (R231, R233). -/
  checks : List Nat := []
  /-- Waits for a free frame, as the requester (`unitOfEngine`, `unitOfRing`, `unitOfOp`; a core by its logical number) and the page;
  demand fetches in progress; and other units that wait for pins; each in the order in which they began (R231, R233, R243). -/
  wants : List (Nat × Nat) := []
  fetchQ : List (Nat × Nat) := []
  unitQ : List Nat := []
  /-- The places in order of the checks that wait, by requester, and the next place: `fetchQ` holds each fetch with that of the check it
  serves (R233). -/
  began : Tbl Nat := []
  beganNext : Nat := 0
  /-- Entries of the tier request queue taken in the present beat (R235, R238), placement moves made in it by base die, and where the eviction
  scan stands (R238, R243). -/
  trqTaken : Nat := 0
  moved : Tbl Nat := []
  scanAt : Nat := 0
  /-- Pages of the save copy that the flush has still to write (R252), and a stack has failed under the system area (R270). -/
  saveLeft : Nat := 0
  /-- The cut record of the undurable cut has been sent to the journal buffer (R252, R304). -/
  cutSent : Bool := false
  areaLost : Bool := false
  /-- Beats for which the mirroring partition has had no route to its buddy (R453). -/
  buddyGone : Nat := 0
  /-- An abort that awaits its boundary: the ring and SEQ of the JOB_CLOSE and the beat it started (R357). -/
  abort : Option (Nat × Nat × Nat) := none
  /-- A rollback required, with its cause and the beat in which it arose (R443), and one in progress. -/
  rollReq : Option (Nat × Nat) := none
  rolling : Option Nat := none
  /-- Beat of an FLR that awaits its boundary (R322) or the end of an internal reset (R324). -/
  flr : Option Nat := none
  /-- RESET_DONE kind to report: 0 conventional, 1 FLR of PF0, 2 FLR of the function, 3 internal (R359). -/
  resetKind : Nat := 3
  /-- The function's Bus Master Enable (R321). -/
  busMaster : Bool := false
  /-- The size of BAR4 as a power of two: 16 GiB at reset (R312). -/
  winBits : Nat := 34
  /-- A new SLM split being formed (R278). -/
  splitNew : Option Nat := none
  /-- Resumption rolls back, with this cause (R355, R439). -/
  resumeRoll : Option Nat := none
  /-- A suspension and a resumption in progress: ring, SEQ and the beat of the boundary (R352, R354). -/
  susp : Option (Nat × Nat × Nat) := none
  resume : Option (Nat × Nat × Nat) := none
  /-- Newest STEP number of a durable group cut that every member holds (R448). -/
  groupG : Nat := 0
  col : Col := {}
  /-- End cause of a job that the module ended (R429), to be applied at the next boundary. -/
  endCause : Option Nat := none
deriving DecidableEq, Repr

/-- The management plane's own state: time, pins and the parts that no partition owns. -/
structure Mgmt where
  powerGood : Bool := false
  /-- The module serial of R310: 0 until software reads it, since the spec gives no module's serial (DESIGN CHOICE, log entry 42). -/
  serial : W64 := 0
  slot : Nat := 0
  beat : Nat := 0
  /-- Reference cycle within the beat, 0 to 1,023 (R39). -/
  refCycle : Nat := 0
  /-- Beats in a row with the offset beyond 8 ns (R59), the count has been adopted, a partition has been READY (R57). -/
  drift : Nat := 0
  adopted : Bool := false
  everReady : Bool := false
  /-- SEQ of the last TIME_REQ sent, and whether its answer is still awaited (R396). -/
  seq : Nat := 0
  awaiting : Bool := false
  /-- The missing edge of SB3 has been reported (R60). -/
  ppsMissed : Bool := false
  /-- Path delay as half the round trip of the last exchange, in units of 62.5 ps (R56, R396). -/
  delay : Int := 0
  /-- A shape change requested and not evaluated: the shape and the beat of the write (R24). -/
  shapeReq : Option (Nat × Nat) := none
  /-- Partitions named by the MGT_RESET request in progress (R325). -/
  resetMask : Nat := 0
  /-- Hive positions that hold a member (R561). -/
  members : Nat := 0
  perst : Bool := false
  /-- BRAKE# as it stands at the pin (R541). -/
  brake : Bool := false
  /-- Beats since power-good, which an adoption does not shift; the stagger release has fallen (R550, R552). -/
  sincePg : Nat := 0
  staggered : Bool := false
  /-- The module is in L4; a thermal trip put it there (R529, R544). -/
  standby : Bool := false
  tripped : Bool := false
  /-- Beat of a request of L4 (R533), and of a change of SB3's owner with the new owner (R578). -/
  l4Req : Option Nat := none
  sb3Req : Option (Nat × Nat) := none
  /-- Dynamic address on the management I3C bus; 0 for none (R576). -/
  dynAddr : Nat := 0
  /-- PF0's Bus Master Enable, and writes to host memory that wait for it, as address and bytes, oldest first (R321). -/
  busMaster : Bool := false
  posted : List (Nat × Bytes) := []
  /-- Epoch whose boundary work has run (R41). -/
  epochSeen : Nat := 0
  /-- Compute dies declared failed (R434), and regulator phases taken offline, as die × 64 + phase (R456). -/
  deadDies : List Nat := []
  /-- Dies whose present beat the governor has marked idle (R48, R536). -/
  idleDies : List Nat := []
  phases : List Nat := []
deriving DecidableEq, Repr

/-! ### Store, HBM, core map, change log -/

/-- Records sent to the protected journal buffer and not acknowledged (R303). -/
inductive JRec where
  | accept (p n : Nat)
  | completion (p : Nat)
  | cut (p : Nat)
  | cap (p page : Nat)
  | bringup
deriving DecidableEq, Repr

/-- The partition whose buddy holds the record too: that of an acceptance, a completion or a cut (R452). -/
def JRec.mirrored : JRec → Option Nat
  | .accept p _ => some p
  | .completion p => some p
  | .cut p => some p
  | .cap _ _ => none
  | .bringup => none

/-- A page write on its way to the store (R238, R252, R259): its page (from 2^40 on, a page of the save copy), its class, whether it is the
snapshot that a copy on write left, the bytes still to be programmed, and the image it is programmed as, once it is. -/
structure SWrite where
  p : Nat := 0
  n : Nat := 0
  cls : Nat := 3
  snap : Bool := false
  left : Nat := 262144
  img : Option Nat := none
deriving DecidableEq, Repr

/-- A NAND block, beside what the carrier's factory gave it (R286, R291, R292, R295, R301): erases since the mount, whether it is
retired, the stripe of the unit that has needed step 4 in its present P/E cycle, the threshold set that last succeeded, and whether its
data is to be rewritten. -/
structure NandBlock where
  erases : Nat := 0
  retired : Bool := false
  step4 : Option Nat := none
  thresholds : Nat := 0
  rewrite : Bool := false
deriving DecidableEq, Repr

/-- A stripe (R287, R288): its position as a page of one block of each package, whether that block is in pSLC mode, the packages that hold
no unit of it because they were lost, its data units in log order (image and place in the image; none is padding), whether its parity is
programmed, and the beat it was written in, with the packages whose units of it were lost before a rebuild could give them (R294). -/
structure Stripe where
  blk : Nat := 0
  row : Nat := 0
  pslc : Bool := false
  out : List Nat := []
  units : List (Option (Nat × Nat)) := []
  closed : Bool := false
  beat : Nat := 0
  dead : List Nat := []
deriving DecidableEq, Repr

/-- A store page image (R288): its partition and page, its log sequence number, and its 16 units as (stripe, data unit). -/
structure SImg where
  p : Nat := 0
  n : Nat := 0
  seq : Nat := 0
  units : List (Nat × Nat) := []
deriving DecidableEq, Repr

/-- A relocation in progress (R297): the image moved, and its new units with their places in it. -/
structure Reloc where
  img : Nat := 0
  moves : List (Nat × (Nat × Nat)) := []
deriving DecidableEq, Repr

/-- What the store controller keeps of the NAND (R286 to R297). A block's place in its package is die × 6,144 + block, and the same place
serves a stripe in every package. Held are: blocks that differ from the factory state, by package × 98,304 + place; stripes by number;
images; the number of the next stripe, image and log sequence; the place and page next written in TLC and in pSLC mode; where the search
for an erased place goes on, and the places written since their last erase, with whether in pSLC mode; bytes drained towards the next
stripe; relocations in progress; the unit that patrol reads next; dies and channels that fail commands, as package × 16 + number; units to
rebuild when the rebuild began; and thirds of a P/E cycle since the mount, over all blocks. -/
structure Nand where
  blocks : Tbl NandBlock := []
  stripes : Tbl Stripe := []
  imgs : Tbl SImg := []
  nextStripe : Nat := 0
  nextImg : Nat := 1
  nextSeq : Nat := 0
  tlc : Nat × Nat := (0, 0)
  pslc : Nat × Nat := (1, 0)
  nextBlk : Nat := 2
  used : List (Nat × Bool) := [(0, false), (1, true)]
  drained : Nat := 0
  reloc : List Reloc := []
  patrol : Nat := 0
  deadDies : List Nat := []
  deadChans : List Nat := []
  rebuildAll : Nat := 0
  thirds : Nat := 0
deriving DecidableEq, Repr

/-- An image held for another module (R452): the source's address, partition and page, the partition here that is charged for it, its
number in the store's log, and that of the image which it supersedes once it is acknowledged (R289, R304). -/
structure Guest where
  src : Nat := 0
  srcPtn : Nat := 0
  page : Nat := 0
  p : Nat := 0
  img : Nat := 0
  old : Option Nat := none
deriving DecidableEq, Repr

/-- The reserved pSLC journal region, striped over the packages as the log is (R288, R303): the block being written, its next page, the data
units of the open stripe, the bytes of its open unit, and the stripes closed with their parity. -/
structure JRegion where
  blk : Nat := 0
  row : Nat := 0
  units : Nat := 0
  fill : Nat := 0
  stripes : Nat := 0
deriving DecidableEq, Repr

/-- The store carrier and the store controller die, beside the STO registers (R286 to R305). -/
structure Store where
  mounted : Bool := false
  variant32 : Bool := false
  /-- Write credit and bytes charged over the carrier's life (R299, R301). -/
  credit : Int := 0
  charged : Nat := 0
  avgPe : Nat := 0
  /-- Spare blocks of each die, as package × 16 + die: at first, and left (R292). -/
  spares : Tbl (Nat × Nat) := []
  /-- Bytes of demotions and cap writes of each partition: this epoch, and the last 16 epochs, newest first (R300). -/
  other : Tbl Nat := []
  otherPast : Tbl (List Nat) := []
  /-- Bytes of the last durable flush of each partition (R300). -/
  lastFlush : Tbl Nat := []
  /-- Bytes that the present beat's slices read over each base die's internal store link (R238). -/
  read : Tbl Nat := []
  /-- Page writes not acknowledged, oldest first (R259, R289), with the page commands that have completed for each partition as the
  controller last reported, and those completed since (R43, R54). -/
  writes : List SWrite := []
  done : Tbl Nat := []
  ended : Tbl Nat := []
  nand : Nand := {}
  guests : List Guest := []
  /-- Journal records held for other modules, oldest first, as (address, partition, partition here, words); and those sent to this module's
  own buddies that they have not acknowledged, oldest first (R452). -/
  guestRecs : List (Nat × Nat × Nat × List Nat) := []
  mirrorWait : List JRec := []
  /-- The beat of the open stripe's first unit (R289). -/
  stripeBeat : Nat := 0
  records : List JRec := []
  /-- Bytes of records acknowledged and not drained (R303), and spare blocks left in the journal region (R302). -/
  buffered : Nat := 0
  region : JRegion := {}
  journalSpare : Nat := 1
  /-- Beat of the last hold-up test (R305). -/
  heldUp : Nat := 0
  /-- Packages lost whose rebuild runs, and rebuilds completed (R293, R294). -/
  rebuild : List Nat := []
  rebuilt : Nat := 0
  /-- Wear events raised: 0, 50, 90 or 100 (R301). -/
  wearSeen : Nat := 0
  /-- Serial of the carrier last mounted (R556), and the STATE and LOST_PKG it had when power-good last fell. -/
  serial : Nat := 0
  health : Nat := 0
  lost : Nat := 0
deriving DecidableEq, Repr

/-- HBM repair state (R266 to R270): corrected sectors by row with their epoch, spare rows used by bank, redirected
rows, distinct banks with uncorrectable reads in the current epoch, and frames with an uncorrectable sector to zero
before use. Keys: ((stack × 64 + pseudo-channel) × 64 + bank) [× 16,384 + row]. -/
structure Hbm where
  corrected : List (Nat × Nat × Nat) := []
  spares : Tbl Nat := []
  repaired : List Nat := []
  ueBanks : List Nat := []
  ueEpoch : Nat := 0
  /-- Repaired rows made permanent by fuse (R269). -/
  fused : List Nat := []
  /-- Bank × 16,384 + row, plus 1, of each sector that reads uncorrectable, by partition × 2^48 + sector number. -/
  badBank : Tbl Nat := []
  /-- The caches (R280): by base die × 2^24 + set, the lines present, the most recently used first, each by the sector that it holds,
  numbered (stack × 262,144 + frame) × 4,096 + sector. -/
  cache : Tbl (List Nat) := []
deriving DecidableEq, Repr

/-- The logical-to-physical map (R112 to R117): retired cores, and each logical core of the module (die × 1,280 +
number) that lies elsewhere than nowhere: physical identifier plus 1. -/
structure CoreMap where
  retired : List Nat := []
  map : Tbl Nat := []
deriving DecidableEq, Repr

/-- An entry of the management change log (R519). -/
structure LogEntry where
  seq : Nat
  beat : Nat
  what : Nat
  source : Nat
  req : Nat
  old : Nat
  new : Nat
deriving DecidableEq, Repr

/-- The change log (R518 to R521): COUNT, HEAD, and the entries kept, newest first. -/
structure ChangeLog where
  count : Nat := 0
  head : Bytes := []
  entries : List LogEntry := []
deriving DecidableEq, Repr

/-! ### Security (R491 to R526) -/

/-- A firmware class: its two slots, which of them it booted from and whether that was the older one, and the image that runs, whatever has
been staged since (R491, R494, R495). -/
structure FwClass where
  a : FwSlot := { staging := 0, svn := 0, verified := false, digest := 0 }
  b : FwSlot := { staging := 0, svn := 0, verified := false, digest := 0 }
  runsB : Bool := false
  older : Bool := false
  image : FwSlot := { staging := 0, svn := 0, verified := false, digest := 0 }
deriving DecidableEq, Repr

/-- A job key table entry (R515): K_J as a number of 256 bits, and the partition mask. -/
structure JobKey where
  key : Nat := 0
  mask : Nat := 0
deriving DecidableEq, Repr

/-- How far an SPDM connection has come (R498): 0 none, 1 version, 2 capabilities, 3 algorithms; the sessions, by their
number, with whether the handshake has finished and how often the keys have been updated; the response that the DOE
mailbox holds, and DOE Error (R318). -/
structure Spdm where
  stage : Nat := 0
  sessions : Tbl (Bool × Nat) := []
  response : Option (List Nat) := none
  error : Bool := false
  /-- Words of the data object being written to the mailbox, oldest first (R318). -/
  inbox : List W32 := []
deriving DecidableEq, Repr

/-- An IDE stream (R501): whether it is Secure, the key sets programmed and the key sets in use, as sub-stream × 2 + set, and the words of a
selective stream's register block in the IDE capability, by offset, among them its association with a function and with address ranges.
DESIGN CHOICE, log entry 140. -/
structure IdeStream where
  secure : Bool := false
  keys : Tbl Nat := []
  active : List Nat := []
  regs : Tbl Nat := []
deriving DecidableEq, Repr

/-- A TDI (R502 to R504): its state (0 CONFIG_UNLOCKED, 1 CONFIG_LOCKED, 2 RUN, 3 ERROR), its stream and nonce, and the
change log's COUNT and HEAD at LOCK. -/
structure Tdi where
  state : Nat := 0
  stream : Nat := 0
  nonce : Nat := 0
  count : Nat := 0
  head : List Byte := []
deriving DecidableEq, Repr

/-- Link authentication at a port (R517): how far the peer has come (0 nothing, 1 AUTH_HELLO, 2 AUTH_KEX), this end's
nonce, the peer's nonce, chain hash and chain length, the chain received so far, its public value, the number of the draw of this end's own, and of the last one that passed the
transcript hash and the peer's serial (R392). -/
structure LinkAuth where
  stage : Nat := 0
  own : Nat := 0
  nonce : Nat := 0
  hash : Nat := 0
  len : Nat := 0
  chain : List Byte := []
  share : List Byte := []
  draw : Nat := 0
  tAuth : Nat := 0
  peer : Nat := 0
deriving DecidableEq, Repr

/-- What the root-of-trust processor holds: firmware classes, the firmware keys whose revocation fuse is blown (R493), the pairs of class 1 and 2 digests with an alias key and
whether the booted pair has one, job keys, publisher keys, the numbers of the draws of each partition's HBM key pair and
each job's store key pair (R508, R509), SPDM, IDE streams (0 the link stream, 1 to 8 selective), TDIs by function, and
link authentication by port. -/
structure Sec where
  fw : Tbl FwClass := []
  revoked : Nat := 0
  hasAlias : Bool := false
  pairs : List (Nat × Nat) := []
  jobKeys : Tbl JobKey := []
  pubKeys : Tbl Nat := []
  hbmKeys : Tbl Nat := []
  storeKeys : Tbl Nat := []
  spdm : Spdm := {}
  ide : Tbl IdeStream := []
  tdi : Tbl Tdi := []
  auth : Tbl LinkAuth := []
deriving DecidableEq, Repr

/-! ### Power, start-up and telemetry (R527 to R568) -/

/-- A partition on the ladder of power states: idle beats in a row, and the beat in which it entered its present state
(R529). -/
structure Ladder where
  quiet : Nat := 0
  since : Nat := 0
deriving DecidableEq, Repr

/-- Power, heat and wear (R527 to R549). -/
structure Power where
  /-- PL1, PL2 and the fast limit in force, in watts (R535). -/
  pl1 : Nat := 2800
  pl2 : Nat := 3300
  fast : Nat := 3600
  /-- Draw of the last 2^20 and of the last 256 beats, newest first, as runs of (beats, watts); idle marks of the last 256
  beats. -/
  hist1 : List (Nat × Nat) := []
  hist2 : List (Nat × Nat) := []
  idles : List Bool := []
  /-- Thermal ceiling of each die below 3,600 MHz, as MHz below that, and beats in a row below every release point (R543). -/
  thermal : Tbl Nat := []
  cool : Tbl Nat := []
  /-- The last estimate of coolant flow is below 3.5 L/min (R545). -/
  flowLow : Bool := false
  /-- Readings that sensors have and that have not been sampled yet, in the order in which they are sampled (R53). -/
  unread : List (Nat × Nat) := []
  ladder : Tbl Ladder := []
  /-- Ageing of each die: the count in boot flash, the fuse bits blown, and the thresholds reported (R548, R549). -/
  flash : Tbl Nat := []
  fuse : Tbl Nat := []
  aged : Tbl Nat := []
deriving DecidableEq, Repr

/-- What the module learns at bring-up (R552 to R564): whether the settings record could be read, the carrier's identity
memory, whether that carrier is a new one, the harnesses by port and the ports that training or the harness checks failed; the
serials of hive members by position, each port's report of them, the leader, and whether HIVE_FORMED has fixed the mask; the
candidate, the beat in which it last changed, whether the election has ended, the hive's coordinates (X, Y), the serial elected,
the reference module's serial and address, exchanges made with it, and the ports whose neighbours have adopted. -/
structure Boot where
  settingsOk : Bool := true
  carrier : Option CarrierIn := none
  newCarrier : Bool := false
  harness : Tbl Harness := []
  cabled : List Nat := []
  heard : Tbl Nat := []
  reports : Tbl (Tbl Nat) := []
  leader : Nat := 0
  hiveFixed : Bool := false
  cand : Option Nat := none
  candBeat : Nat := 0
  elected : Bool := false
  coords : Option (Nat × Nat) := none
  origin : Nat := 0
  ref : Nat := 0
  refAddr : Option Nat := none
  exch : Nat := 0
  nbrs : List Nat := []
deriving DecidableEq, Repr

/-- Non-volatile state outside the other parts: the settings record, by BAR0 offset (R554); the rings that the journal names, as
their registers, and the shape it names them in (R555). -/
structure Flash where
  settings : Tbl W64 := []
  rings : Tbl W64 := []
  shape : Nat := 0
deriving DecidableEq, Repr

/-- Sums over the present epoch (R568). Temperatures are offset by 32,768. -/
structure EpochSum where
  beats : Nat := 0
  energy : Nat := 0
  peak : Nat := 0
  idle : Nat := 0
  brake : Nat := 0
  clkSum : Tbl Nat := []
  clkN : Tbl Nat := []
  tj : Tbl Nat := []
  hbmT : Nat := 0
  inSum : Nat := 0
  inN : Nat := 0
  outSum : Nat := 0
  outN : Nat := 0
  ce : Nat := 0
  ue : Nat := 0
  stoRd : Nat := 0
  stoWr : Nat := 0
  retries : Nat := 0
  corrected : Nat := 0
  linkTx : Nat := 0
  replays : Nat := 0
  restores : Nat := 0
  rollbacks : Nat := 0
  remaps : Nat := 0
  cuts : Nat := 0
deriving DecidableEq, Repr

/-- The telemetry ring beside its registers (R567): the sums, the last flow estimate in 0.01 L/min, the record that is to be written with
its epoch, the written count, the head word as last read, the epoch of the enable, and LOST of the next record. -/
structure Tel where
  sum : EpochSum := {}
  flow : Nat := 0
  due : Option (Nat × List Byte) := none
  written : Nat := 0
  head : Nat := 0
  since : Nat := 0
  lostNext : Bool := false
deriving DecidableEq, Repr

/-- An armed timeout of R50: what it ends, the beat in which it was armed, its length in beats, and whether the
boundary that ends beat armed + t has found it due. -/
inductive TimerKind where
  /-- CORE_CCWAIT of a dispatcher (R108). -/
  | ccwait (d : Nat)
deriving DecidableEq, Repr

/-- See `TimerKind`. -/
structure Timer where
  kind : TimerKind
  armed : Nat
  t : Nat
  due : Bool := false
deriving DecidableEq, Repr

/-- What the background classes that own no other state keep (R53): the adaptation steps that each port's lanes have had, the phase that
the base-die regulators calibrate in the present beat, and what the store's wear levelling and refresh have read and written since the
window of 256 beats began, in bytes. -/
structure Slices where
  adapt : Tbl Nat := []
  phase : Nat := 0
  stoRd : Nat := 0
  stoWr : Nat := 0
deriving DecidableEq, Repr

/-- The state of the module. -/
structure State where
  mgmt : Mgmt := {}
  /-- Register values that differ from their reset values, by `regKey`. -/
  regs : Tbl W64 := []
  /-- Low halves written and not yet taken (R11). -/
  stage : Tbl W32 := []
  /-- Outputs, the newest first. -/
  out : List Output := []
  timers : List Timer := []
  /-- Event queues, by function × 128 + queue; local interfaces, by processor. -/
  evq : Tbl EvQ := []
  lcl : Tbl Lcl := []
  ptn : Tbl Ptn := []
  store : Store := {}
  hbm : Hbm := {}
  cmap : CoreMap := {}
  /-- Codec engines, by CE number (R465). -/
  engines : Tbl CdcEng := []
  links : Links := {}
  log : ChangeLog := {}
  sec : Sec := {}
  power : Power := {}
  boot : Boot := {}
  flash : Flash := {}
  tel : Tel := {}
  slices : Slices := {}
  /-- Words of the functions' configuration spaces that differ from their reset values, by function × 4,096 + offset: base address registers,
  command, power state, MSI-X, device and link control, error status, masks and header log, access control (R310 to R312). -/
  cfg : Tbl W32 := []
  /-- Free values used so far: the model's own (DESIGN CHOICE, log entry 6). -/
  free : Nat := 0
  /-- Commands that wait, first in, first out. -/
  pending : List Instr := []
deriving DecidableEq, Repr

/-- The module before power-good. DESIGN CHOICE, log entry 1. DESIGN CHOICE, log entry 137. -/
def State.reset : State := {}

end Sys2Proof.Machine
end

