-- ==== Sys2Proof/Machine/Ops.lean ====
section
/-! DEFINITION. The shared operations: registers, outputs, events, the change log, timeouts, partitions, rings and
completions. The meanings of the commands are written over them. -/

namespace Sys2Proof.Machine

/-- The outcome type of the model. -/
abbrev Res := Host.Outcome State Fault Refusal

/-- With power-good low nothing of the module runs (R40, R528): a command that needs it then has no effect. -/
def State.live (s : State) (f : State → State) : Res := .next (if s.mgmt.powerGood then f s else s)

/-! ### Status codes (R13, R14, R137, R225) -/

namespace Code
/-- R13. -/
def done : Nat := 0x0000
/-- R13. -/
def deferred : Nat := 0x0001
/-- R13. -/
def aborted : Nat := 0x0002
/-- R13. -/
def replayed : Nat := 0x0003
/-- R13. -/
def invalidDescriptor : Nat := 0x0010
/-- R13. -/
def invalidOperand : Nat := 0x0011
/-- R13. -/
def limitExceeded : Nat := 0x0012
/-- R13. -/
def resourceHeld : Nat := 0x0020
/-- R13. -/
def timeout : Nat := 0x0030
/-- R13. -/
def staleClaim : Nat := 0x0031
/-- R13. -/
def ptWriteViolation : Nat := 0x0040
/-- R13. -/
def boundPageEgress : Nat := 0x0041
/-- R13. -/
def uncorrectable : Nat := 0x0050
/-- R13. -/
def streamDamaged : Nat := 0x0060
/-- R13. -/
def rateAdjusted : Nat := 0x0061
/-- R13. -/
def authFailed : Nat := 0x0070
/-- R137. -/
def checksumMismatch : Nat := 0x0101
/-- R137. -/
def claimState : Nat := 0x0102
/-- R137. -/
def claimOpen : Nat := 0x0103
/-- R225. -/
def unbackedPage : Nat := 0x0301
/-- R225. -/
def readOnlyPage : Nat := 0x0302
/-- R225. -/
def poolExhausted : Nat := 0x0303
/-- R525. -/
def svnRollback : Nat := 0x0601
end Code

/-- DONE and REPLAYED: the statuses after which a tile's outputs stand (R107, R145). -/
def okTile (st : Nat) : Bool := st == Code.done || st == Code.replayed

/-! ### Registers (R7 to R11) -/

/-- Value of element `i` of register line `r` in function `fn`. -/
def State.rd (s : State) (r : RegSpec) (fn i : Nat) : Nat :=
  match Tbl.find s.regs (r.key fn i) with
  | some v => v.toNat
  | none => r.resetOf i

/-- That register takes value `v`. -/
def State.wr (s : State) (r : RegSpec) (fn i v : Nat) : State :=
  { s with regs :=
      if v % 2 ^ 64 = r.resetOf i then Tbl.del s.regs (r.key fn i)
      else Tbl.put s.regs (r.key fn i) (BitVec.ofNat 64 v) }

/-- Field `hi`:`lo` of a register. -/
def State.fld (s : State) (r : RegSpec) (fn i hi lo : Nat) : Nat := bits (s.rd r fn i) hi lo

/-- Field `hi`:`lo` of a register takes value `v`. -/
def State.setFld (s : State) (r : RegSpec) (fn i hi lo v : Nat) : State :=
  s.wr r fn i (setBits (s.rd r fn i) hi lo v)

/-- A register returns to its reset value. -/
def State.clrReg (s : State) (r : RegSpec) (fn i : Nat) : State :=
  { s with regs := Tbl.del s.regs (r.key fn i), stage := Tbl.del s.stage (r.key fn i) }

/-- A register is written whole: a low half that waits for its high half is dropped (R11). -/
def State.unstage (s : State) (r : RegSpec) (fn i : Nat) : State := { s with stage := Tbl.del s.stage (r.key fn i) }

/-- The module gives a register a value: a low half that waits for its high half is dropped (R11). -/
def State.give (s : State) (r : RegSpec) (fn i v : Nat) : State := (s.wr r fn i v).unstage r fn i

/-- Every element of a register line of function `fn` returns to its reset value. -/
def State.clrLine (s : State) (r : RegSpec) (fn : Nat) : State :=
  (List.range r.count).foldl (fun s i => s.clrReg r fn i) s

/-! ### Outputs and free values -/

/-- Put out `o`. DESIGN CHOICE, log entry 9. -/
def State.emit (s : State) (o : Output) : State := { s with out := o :: s.out }

/-- A free 64-bit value, and the state in which it is used up (DESIGN CHOICE, log entry 6). -/
def State.freshW64 (s : State) : W64 × State := (Config.freeValue s.free, { s with free := s.free + 1 })

/-- Sum something into the present epoch (R568). -/
def State.tally (s : State) (f : EpochSum → EpochSum) : State := { s with tel := { s.tel with sum := f s.tel.sum } }

/-! ### Shape and partitions (R6, R22) -/

/-- Compute dies per partition of the shape in force. -/
def State.k (s : State) : Nat :=
  match s.fld rMgtPtnShape 0 0 3 2 with
  | 0 => 4
  | 1 => 2
  | _ => 1

/-- Number of partitions of the shape in force. -/
def State.parts (s : State) : Nat := 4 / s.k

/-- Does PTNp exist in the shape in force? -/
def State.present (s : State) (p : Nat) : Bool := decide (p < s.parts)

/-- A shape change is in progress (R23). -/
def State.shapeBusy (s : State) : Bool := s.fld rMgtPtnShape 0 0 7 7 == 1

/-- The partition's state on the ladder, L0 to L3 (R529). -/
def State.lstate (s : State) (p : Nat) : Nat := s.fld rPwrPtnState 0 p 2 0

/-- Is the partition in L0 or L1, so that an access, a packet or a descriptor need not wait for the exit (R531)? -/
def State.awake (s : State) (p : Nat) : Bool := decide (s.lstate p ≤ 1)

/-- Power changes to `f` of itself. -/
def State.upPower (s : State) (f : Power → Power) : State := { s with power := f s.power }

/-- The partition's ladder. -/
def State.ladder (s : State) (p : Nat) : Ladder := Tbl.get {} s.power.ladder p

/-- The partition enters state `l` of the ladder. DESIGN CHOICE, log entry 18. -/
def State.setL (s : State) (p l : Nat) : State :=
  (s.setFld rPwrPtnState 0 p 2 0 l).upPower fun w =>
    { w with ladder := Tbl.set {} w.ladder p { s.ladder p with since := s.mgmt.beat } }

/-- A partition in L2 or L3 leaves it for L1 (R531). What waits for the exit is carried out in the same step. DESIGN CHOICE, log entry 180. -/
def State.wake (s : State) (p : Nat) : State := if s.awake p then s else s.setL p 1

/-- RESULT of bring-up phase `n` (R552). -/
def State.phase (s : State) (n : Nat) : Nat := s.fld rMgtBuPhase 0 (n - 1) 63 60

/-- Has phase `n` ended, or been skipped? -/
def State.phaseOver (s : State) (n : Nat) : Bool := decide (2 ≤ s.phase n)

/-- May a partition report READY: phase 9 has ended, and phase 12 in a module that runs it (R553)? -/
def State.bootReady (s : State) : Bool := (s.phase 9 == 2 || s.phase 9 == 3) && s.phaseOver 12

/-- Partition `p`. -/
def State.pt (s : State) (p : Nat) : Ptn := Tbl.get {} s.ptn p

/-- Partition `p` becomes `f` of itself. -/
def State.upPt (s : State) (p : Nat) (f : Ptn → Ptn) : State := { s with ptn := Tbl.put s.ptn p (f (s.pt p)) }

/-- The job data of partition `p` becomes `f` of itself. -/
def State.upJob (s : State) (p : Nat) (f : JobData → JobData) : State :=
  s.upPt p fun q => { q with live := f q.live }

/-- Logical core `lc` of job data. -/
def JobData.core (j : JobData) (lc : Nat) : Core := Tbl.get {} j.cores lc

/-- Has the core nothing queued, in flight or to be re-executed (R48, R348)? -/
def Core.idle (c : Core) : Bool := c.queue.isEmpty && c.comp.isNone && c.move.isNone && c.redo.isEmpty

/-- That core becomes `f` of itself. -/
def JobData.upCore (j : JobData) (lc : Nat) (f : Core → Core) : JobData :=
  { j with cores := Tbl.put j.cores lc (f (j.core lc)) }

/-- Dispatcher at position `i` of the partition. -/
def JobData.disp (j : JobData) (i : Nat) : Disp := Tbl.get {} j.disps i

/-- That dispatcher becomes `f` of itself. -/
def JobData.upDisp (j : JobData) (i : Nat) (f : Disp → Disp) : JobData :=
  { j with disps := Tbl.put j.disps i (f (j.disp i)) }

/-- Page `n` of the range. -/
def JobData.page (j : JobData) (n : Nat) : Page := Tbl.get { age := j.idle } j.pages n

/-- That page becomes `f` of itself. -/
def JobData.upPage (j : JobData) (n : Nat) (f : Page → Page) : JobData :=
  { j with pages := Tbl.put j.pages n (f (j.page n)) }

/-- Barrier context `c`. -/
def JobData.bar (j : JobData) (c : Nat) : Bar := Tbl.get {} j.bars c

/-- That context becomes `f` of itself. -/
def JobData.upBar (j : JobData) (c : Nat) (f : Bar → Bar) : JobData :=
  { j with bars := Tbl.put j.bars c (f (j.bar c)) }

/-- Sequence `n`. -/
def JobData.seqn (j : JobData) (n : Nat) : Seq := Tbl.get {} j.seqs n

/-- That sequence becomes `f` of itself. -/
def JobData.upSeq (j : JobData) (n : Nat) (f : Seq → Seq) : JobData :=
  { j with seqs := Tbl.put j.seqs n (f (j.seqn n)) }

/-- Core `lc` of partition `p` becomes `f` of itself. -/
def State.upCore (s : State) (p lc : Nat) (f : Core → Core) : State := s.upJob p fun j => j.upCore lc f

/-- Page `n` of partition `p` becomes `f` of itself. -/
def State.upPage (s : State) (p n : Nat) (f : Page → Page) : State := s.upJob p fun j => j.upPage n f

/-- Core `lc` of partition `p`. -/
def State.core (s : State) (p lc : Nat) : Core := (s.pt p).live.core lc

/-- Page `n` of partition `p`. -/
def State.page (s : State) (p n : Nat) : Page := (s.pt p).live.page n

/-- The partition that dispatcher Dd belongs to, and its position there (R6, R18). -/
def State.dispPos (s : State) (d : Nat) : Nat × Nat := (d / (4 * s.k), d % (4 * s.k))

/-- Dispatcher Dd. -/
def State.disp (s : State) (d : Nat) : Disp := (s.pt (s.dispPos d).1).live.disp (s.dispPos d).2

/-- Dispatcher Dd becomes `f` of itself. -/
def State.upDisp (s : State) (d : Nat) (f : Disp → Disp) : State :=
  s.upJob (s.dispPos d).1 fun j => j.upDisp (s.dispPos d).2 f

/-- The number of logical core `lc` of partition `p` over the whole module (R5, R112). -/
def State.gcore (s : State) (p lc : Nat) : Nat := p * s.k * 1280 + lc

/-- Physical core of a logical core; none when it is unmapped (R112, R116). -/
def State.phys (s : State) (p lc : Nat) : Option Nat :=
  match Tbl.get 0 s.cmap.map (s.gcore p lc) with
  | 0 => none
  | n + 1 => some n

/-- Is `lc` a mapped logical core of partition `p`? -/
def State.mapped (s : State) (p lc : Nat) : Bool := decide (lc < 1280 * s.k) && (s.phys p lc).isSome

/-- The beat that the last boundary ended: work of that boundary carries it (R360). -/
def State.lastBeat (s : State) : Nat := s.mgmt.beat - 1

/-- Beats that have passed since beat `b`, on the 64-bit count (R39, R57). -/
def State.since (s : State) (b : Nat) : Nat := (s.mgmt.beat + 2 ^ 64 - b % 2 ^ 64) % 2 ^ 64

/-- Does beat `b` lie before the present one on the 64-bit count (R39, R57)? -/
def State.past (s : State) (b : Nat) : Bool := decide (0 < s.since b) && decide (s.since b < 2 ^ 63)

/-- Epoch number (R41). -/
def State.epoch (s : State) : Nat := s.mgmt.beat / 2 ^ 20

/-- The TDI of function `fn` (R502). -/
def State.tdi (s : State) (fn : Nat) : Tdi := Tbl.get {} s.sec.tdi fn

/-- Words of the configuration space that do not reset to 0, as PCI Express resets them: Device Control with relaxed ordering, extended tags, no
snoop and 512-byte reads enabled, Link Control 2, error severities and the advisory mask. PRESUMED, log entry 141. -/
def cfgReset (off : Nat) : Nat :=
  if off = 0x78 then 0x2910 else if off = 0xA0 then 6 else if off = 0x10C then 0x462030 else if off = 0x114 then 0x2000 else 0

/-- What is held of the configuration word of function `fn` at `off`. -/
def State.cfgRd (s : State) (fn off : Nat) : Nat :=
  match Tbl.find s.cfg (fn * 4096 + off) with
  | some v => v.toNat
  | none => cfgReset off

/-- That word is held as `v`. -/
def State.setCfg (s : State) (fn off v : Nat) : State :=
  { s with cfg := if v % 2 ^ 32 = cfgReset off then Tbl.del s.cfg (fn * 4096 + off)
                  else Tbl.put s.cfg (fn * 4096 + off) (BitVec.ofNat 32 v) }

/-- Is the function in D3hot, in which it takes and makes no memory request (R310)? PRESUMED, log entry 141. -/
def State.d3hot (s : State) (fn : Nat) : Bool := bits (s.cfgRd fn 0x44) 1 0 == 3

/-- May function `fn` be reached and reach the host: it is in D0, and its TDI is CONFIG_UNLOCKED, or RUN with accesses that carry T on its
stream (R504; DESIGN CHOICE, log entry 43)? -/
def State.tdiOpen (s : State) (fn : Nat) : Bool := ((s.tdi fn).state == 0 || (s.tdi fn).state == 2) && !s.d3hot fn

/-! ### MSI-X and event queues (R317, R361 to R370) -/

/-- Configuration word of event queue `q` of function `fn`; PF0 has no queue 0 (R361). -/
def State.evCfg (s : State) (fn q : Nat) : Nat :=
  if fn = 0 then (if q = 0 then 0 else s.rd rEvtPf0QCfg 0 (q - 1)) else s.rd rEvtQCfg fn q

/-- Does function `fn` have event queue `q`? -/
def evqExists (fn q : Nat) : Bool := if fn = 0 then decide (1 ≤ q) && decide (q ≤ 31) else decide (q ≤ 127)

/-- Set a field of the queue's status register. -/
def State.setEvStatus (s : State) (fn q hi lo v : Nat) : State :=
  if fn = 0 then s.setFld rEvtPf0QStatus 0 (q - 1) hi lo v else s.setFld rEvtQStatus fn q hi lo v

/-- A field of the queue's status register. -/
def State.evStatus (s : State) (fn q hi lo : Nat) : Nat :=
  if fn = 0 then s.fld rEvtPf0QStatus 0 (q - 1) hi lo else s.fld rEvtQStatus fn q hi lo

/-- Event queue `q` of function `fn`. -/
def State.evQ (s : State) (fn q : Nat) : EvQ := Tbl.get {} s.evq (fn * 128 + q)

/-- That queue becomes `f` of itself. -/
def State.upEvQ (s : State) (fn q : Nat) (f : EvQ → EvQ) : State :=
  { s with evq := Tbl.put s.evq (fn * 128 + q) (f (s.evQ fn q)) }

/-- Is the queue enabled? -/
def State.evOn (s : State) (fn q : Nat) : Bool := evqExists fn q && bits (s.evCfg fn q) 63 63 == 1

/-- Is the vector masked: by its own mask bit, by the function's, or because the function's MSI-X is not enabled (R367)? PRESUMED, log entry 141. -/
def State.vecMasked (s : State) (fn vec : Nat) : Bool :=
  let data := if fn = 0 then s.rd rMsixPf0Data 0 vec else s.rd rMsixData fn vec
  bits data 32 32 == 1 || bits (s.cfgRd fn 0x50) 31 30 != 2

/-- Send the message of vector `vec`, or set its pending bit when it is masked (R367). -/
def State.msix (s : State) (fn vec : Nat) : State :=
  let data := if fn = 0 then s.rd rMsixPf0Data 0 vec else s.rd rMsixData fn vec
  let addr := if fn = 0 then s.rd rMsixPf0Addr 0 vec else s.rd rMsixAddr fn vec
  if s.vecMasked fn vec then
    if fn = 0 then s.setFld rMsixPf0Pba 0 0 vec vec 1 else s.setFld rMsixPba fn (vec / 64) (vec % 64) (vec % 64) 1
  else s.emit (.msix fn vec addr (data % 2 ^ 32))

/-- Merge an occurrence into a waiting record that matches it, if one does (R366). -/
def mergeRec (e d0 : Nat) : List EvRec → Option (List EvRec)
  | [] => none
  | r :: t =>
    if r.ev = e ∧ r.d0 = d0 then some ({ r with count := satAdd 65535 r.count 1 } :: t)
    else (mergeRec e d0 t).map (r :: ·)

/-- An occurrence reaches queue `q` of function `fn` (R363, R366). -/
def State.record (s : State) (fn q : Nat) (r : EvRec) : State :=
  if s.evOn fn q = false then s
  else
    let w := (s.evQ fn q).waiting
    match mergeRec r.ev r.d0 w with
    | some w' => s.upEvQ fn q fun x => { x with waiting := w' }
    | none =>
      if w.length < 256 then s.upEvQ fn q fun x => { x with waiting := w ++ [r] }
      else
        (s.upEvQ fn q fun x => { x with lostNext := true }).setEvStatus fn q 15 8 (satAdd 255 (s.evStatus fn q 15 8) 1)

/-- Local event interface of processor `q`. -/
def State.lclOf (s : State) (q : Nat) : Lcl := Tbl.get {} s.lcl q

/-- An occurrence in the scope of function `fn` reaches the on-module processors that enable it (R368, R369). -/
def State.raiseLocal (s : State) (fn e : Nat) : State :=
  (List.range 10).foldl (fun s q =>
    let l := s.lclOf q
    if s.fld rEvtLclPri (16 + q) e 8 8 = 1 then
      { s with lcl := Tbl.put s.lcl q { l with pend := if l.pend.contains e then l.pend else e :: l.pend,
                                               raised := if l.raised.contains (e, fn) then l.raised else (e, fn) :: l.raised } }
    else s) s

/-- Requests that stand for function `fn` are withdrawn where `drop` says so; an event number is idle, or active alone, once no function's request for it
stands (R360, R370). -/
def Lcl.without (l : Lcl) (fn : Nat) (drop : Nat → Bool) : Lcl :=
  let left := l.raised.filter fun x => !(x.2 == fn && drop x.1)
  { l with raised := left, pend := l.pend.filter fun e => left.any (·.1 == e) || !l.raised.any (·.1 == e) }

/-- Requests of function `fn` at the local interfaces are withdrawn. -/
def State.withdrawFn (s : State) (fn : Nat) (drop : Nat → Bool) : State :=
  { s with lcl := s.lcl.map fun (e : Nat × Lcl) => (e.1, e.2.without fn drop) }

/-- The condition of level source `e` ends in the scope of function `fn`: its pending request is withdrawn (R370). -/
def State.endLevel (s : State) (fn e : Nat) : State := s.withdrawFn fn (· == e)

/-- Raise event `e` with STATUS `st` in beat `beat`, in the scope of function `fn` (R358 to R363). -/
def State.raiseAt (s : State) (fn e d0 d1 st beat : Nat) : State :=
  if fn = 0 then
    let route := s.rd rEvtPf0Route 0 e
    let s := s.raiseLocal 0 e
    if bits route 31 31 = 1 then
      s.record 0 (bits route 6 0) { ev := e, beat := beat, d0 := d0, d1 := d1, status := st }
    else s
  else if s.present (fn - 1) = false then s
  else
    let route := s.rd rEvtRoute fn (e - 0x100)
    let s := s.raiseLocal fn e
    if bits route 31 31 = 1 then
      s.record fn (bits route 6 0) { ev := e, beat := beat, d0 := d0, d1 := d1, status := st }
    else s

/-- The beat that an occurrence belongs to: that of the boundary's work, in which the reference cycle stands at 1,024, is the beat
that ends (R43, R44). DEDUCED, log entry 98. -/
def State.stamp (s : State) : Nat := if 1024 ≤ s.mgmt.refCycle then s.lastBeat else s.mgmt.beat

/-- Raise a module event in the present beat. -/
def State.raiseM (s : State) (e d0 d1 : Nat) : State := s.raiseAt 0 e d0 d1 0 s.stamp

/-- Raise an event of partition `p` in the present beat. -/
def State.raiseP (s : State) (p e d0 d1 : Nat) : State := s.raiseAt (p + 1) e d0 d1 0 s.stamp

/-! ### The management change log (R518 to R522) -/

/-- Can an entry be made durable (R521)? -/
def State.canLog (s : State) : Bool := s.store.mounted && s.fld rStoHealth 0 0 3 0 != 5

/-- Bytes that a record takes in the journal buffer. DESIGN CHOICE, log entry 24. -/
def recordBytes : Nat := 64

/-- Has the journal buffer of 128 MiB room for a record (R303)? -/
def State.journalRoom (s : State) : Bool := decide (s.store.buffered + recordBytes ≤ 134217728)

/-- The 64 bytes of a log entry (R519). -/
def LogEntry.bytes (e : LogEntry) : Bytes :=
  leBytes 8 e.seq ++ leBytes 8 e.beat ++ leBytes 4 e.what ++ leBytes 2 e.source ++ leBytes 2 e.req ++
    leBytes 8 e.old ++ leBytes 8 e.new ++ List.replicate 24 0#8

/-- The ASCII bytes of a string. -/
def ascii (t : String) : Bytes := t.toList.map fun c => BitVec.ofNat 8 c.toNat

/-- HEAD: before entry 0, SHA-256 of "GY9650-LOG" and the serial (R520). -/
def State.logHead (s : State) : Bytes :=
  if s.log.count = 0 then sha256 (ascii "GY9650-LOG" ++ leBytes 8 s.mgmt.serial.toNat) else s.log.head

/-- Append an entry and advance HEAD (R520). DEDUCED, log entry 49. -/
def State.logChange (s : State) (what source old new : Nat) : State :=
  let e : LogEntry := { seq := s.log.count, beat := s.mgmt.beat, what := what, source := source, req := 0,
                        old := old, new := new }
  { s with log := { count := s.log.count + 1, head := sha256 (s.logHead ++ e.bytes),
                    entries := (e :: s.log.entries).take 1048576 } }

/-- Report a write that R521 refuses (R522). -/
def State.logRefused (s : State) (what : Nat) : State :=
  let n := s.fld rSecLogRefused 0 0 63 48
  let s := if n = 0 then s.setFld rSecLogRefused 0 0 31 0 what else s
  s.setFld rSecLogRefused 0 0 63 48 (satAdd 65535 n 1)

/-- The bits of `v` in the RW fields of a register. -/
def RegSpec.rwBits (r : RegSpec) (v : Nat) : Nat :=
  r.fields.foldl (fun t f => if f.acc = .rw then t + bits v f.hi f.lo * 2 ^ f.lo else t) 0

/-- Does the settings record hold the register at this BAR0 offset (R554)? Selectors, MGT_RESET, SEC_OP and its arguments, the
EVT, telemetry and MSI-X structures are left out; MGT_PTN_SHAPE is recorded when its change is made. -/
def keptSetting (off : Nat) : Bool :=
  decide (off < 0x600000) && !([0x200, 0x320, 0x408, 0x200010, 0x200018, 0x200020, 0x501070] : List Nat).contains off

/-- The settings record takes the value of the register at BAR0 offset `off` (R554). DEDUCED, log entry 25. -/
def State.noteSetting (s : State) (off : Nat) : State :=
  if keptSetting off then
    match findReg 0 off regMap with
    | some (r, i, _) => if (r.fields.any fun f => f.acc == .rw) = false then s else { s with flash := { s.flash with
        settings := Tbl.put s.flash.settings (r.base + r.stride * i) (BitVec.ofNat 64 (r.rwBits (s.rd r 0 i))) } }
    | none => s
  else s

/-- Carry out a logged change `f` of a PF0 register, or `refuse` it when its entry cannot be made durable. -/
def State.logged (s : State) (what source old new : Nat) (f refuse : State → State) : State :=
  if s.canLog then
    let s := f (s.logChange what source old new)
    if source = 0 then s.noteSetting what else s
  else refuse (s.logRefused what)

/-- The generator state of a core at JOB_OPEN and at a remap (R74). -/
def seedOf (seed : W64) (lc : Nat) : W64 :=
  let x := seed ^^^ (BitVec.ofNat 64 lc <<< 32)
  if x = 0 then 1 else x

/-! ### Timeouts (R50) -/

/-- Arm a timeout of `t` beats. -/
def State.arm (s : State) (k : TimerKind) (t : Nat) : State :=
  { s with timers := s.timers ++ [{ kind := k, armed := s.mgmt.beat, t := t }] }

/-- The awaited arrival comes: timeouts of this kind that no boundary has found due are disarmed (R51). -/
def State.disarm (s : State) (k : TimerKind) : State :=
  { s with timers := s.timers.filter fun x => x.kind ≠ k }

/-- At the boundary that ends beat `b`, timeouts that fall there become due. -/
def markDue (b : Nat) (ts : List Timer) : List Timer :=
  ts.map fun x => if x.t ≤ (b + 2 ^ 64 - x.armed % 2 ^ 64) % 2 ^ 64 then { x with due := true } else x

/-! ### Rings (R326 to R338) -/

/-- Submission ring `n` of partition `p`. -/
def Ptn.sq (q : Ptn) (n : Nat) : Sq := Tbl.get {} q.sqs n

/-- That ring becomes `f` of itself. -/
def State.upSq (s : State) (p n : Nat) (f : Sq → Sq) : State :=
  s.upPt p fun q => { q with sqs := Tbl.put q.sqs n (f (q.sq n)) }

/-- Completion ring `n` of partition `p`. -/
def Ptn.cq (q : Ptn) (n : Nat) : Cq := Tbl.get {} q.cqs n

/-- That ring becomes `f` of itself. -/
def State.upCq (s : State) (p n : Nat) (f : Cq → Cq) : State :=
  s.upPt p fun q => { q with cqs := Tbl.put q.cqs n (f (q.cq n)) }

/-- Is submission ring `n` enabled? -/
def State.sqOn (s : State) (p n : Nat) : Bool := s.fld rPtnSqCfg (p + 1) n 31 31 == 1

/-- Is completion ring `n` enabled? -/
def State.cqOn (s : State) (p n : Nat) : Bool := s.fld rPtnCqCfg (p + 1) n 31 31 == 1

/-- A is the ring's accepted count, PTN_SQn_NEXT (R332). -/
def State.accepted (s : State) (p n : Nat) : Nat := s.rd rPtnSqNext (p + 1) n

/-- Accepted descriptors whose completion has not been written (PTN_ACCEPT IN_FLIGHT). -/
def Ptn.inFlight (q : Ptn) : Nat :=
  (q.descs.filter fun d => !d.done && d.mode != 2).length + (q.journal.filter fun e => !e.written && !e.rewrite).length

/-- LIMIT of PTN_ACCEPT (R32). -/
def State.limit (s : State) : Nat := 4096 * s.k

/-- Records of the partition that await acknowledgement (R333). -/
def Ptn.awaitingAll (q : Ptn) : Nat := q.sqs.foldl (fun n e => n + e.2.awaiting.length) 0

/-- Word `i` of an accepted descriptor. -/
def ADesc.w (d : ADesc) (i : Nat) : Nat := (d.words.getD i 0).toNat

/-- OPCODE of a descriptor (R328). -/
def ADesc.opcode (d : ADesc) : Nat := bits (d.w 1) 7 0

/-- FUNC of a descriptor (R328). -/
def ADesc.func (d : ADesc) : Nat := bits (d.w 1) 15 8

/-- FENCE of a descriptor (R328). -/
def ADesc.fence (d : ADesc) : Bool := bits (d.w 1) 16 16 == 1

/-- USER of a descriptor (R328). -/
def ADesc.user (d : ADesc) : Nat := bits (d.w 1) 63 32

/-- The four words of a completion record, PHASE aside (R330). -/
def complWords (d : ADesc) (status cause result detail : Nat) : List W64 :=
  [BitVec.ofNat 64 d.seq, BitVec.ofNat 64 result, BitVec.ofNat 64 (d.user * 2 ^ 32 + detail % 2 ^ 32),
   BitVec.ofNat 64 (d.sq * 2 ^ 48 + d.opcode * 2 ^ 40 + cause * 2 ^ 32 + status * 2 ^ 16)]

/-- Change the accepted descriptor (sq, seq). -/
def Ptn.upDesc (q : Ptn) (sq seq : Nat) (f : ADesc → ADesc) : Ptn :=
  { q with descs := q.descs.map fun d => if d.sq = sq ∧ d.seq = seq then f d else d }

/-- The accepted descriptor (sq, seq). -/
def Ptn.findDesc (q : Ptn) (sq seq : Nat) : Option ADesc := q.descs.find? fun d => d.sq = sq && d.seq = seq

/-- Does partition `p` mirror to its buddy (R452)? -/
def State.mirroring (s : State) (p : Nat) : Bool := s.fld rMemBuddyPtn 0 p 2 1 == 1

/-- Word goes to the buddy of a mirroring partition, for the partition there that serves it, on the channel that is set (R451, R452).
DESIGN CHOICE, log entry 160. -/
def State.tellBuddy (s : State) (p : Nat) (what : String) (ws : List Nat) : State :=
  if s.mirroring p then
    s.emit (.message what (s.fld rMemBuddyPtn 0 p 47 36) (p :: s.fld rMemBuddyPtn 0 p 35 34 :: s.fld rMemBuddyPtn 0 p 33 31 :: ws))
  else s

/-- A record goes to the journal buffer and, of a mirroring partition, to the buddy's (R303, R452). -/
def State.sendRecord (s : State) (r : JRec) (ws : List Nat) : State :=
  let s := { s with store := { s.store with records := s.store.records ++ [r] } }
  match r.mirrored with
  | some p =>
    if s.mirroring p then
      { s with store := { s.store with mirrorWait := s.store.mirrorWait ++ [r] } }.tellBuddy p "BUDDY_RECORD" ws
    else s
  | none => s

/-- Has the buddy, where there is one, acknowledged the oldest record `r` (R452)? -/
def State.buddyHas (s : State) (r : JRec) : Bool :=
  match r.mirrored with
  | some p => !s.mirroring p || decide (s.store.mirrorWait.count r < s.store.records.count r)
  | none => true

/-- Journal a completion: with a slot of the completion ring that the submission ring names, or, when the submission
ring is disabled or PENDING, without one (R338). -/
def State.journalCompl (s : State) (p sq : Nat) (ws : List W64) : State :=
  let cq := s.fld rPtnSqCfg (p + 1) sq 21 16
  let s := s.sendRecord (.completion p) (ws.map (·.toNat))
  if s.sqOn p sq then
    let w := ((s.pt p).cq cq).given
    (s.upCq p cq fun c => { c with given := w + 1 }).upPt p fun q =>
      { q with journal := q.journal ++ [({ sq := sq, words := ws, cq := cq, slot := some w } : JEntry)] }
  else s.upPt p fun q => { q with journal := q.journal ++ [({ sq := sq, words := ws, cq := cq } : JEntry)] }

/-- Complete descriptor `d` of partition `p`: one record is journaled, or none when its completion is suppressed
(R336, R338, R340). DEDUCED, log entry 130. -/
def State.complete (s : State) (p : Nat) (d : ADesc) (status cause result detail : Nat) : State :=
  let s := s.upPt p fun q => q.upDesc d.sq d.seq fun x => { x with done := true }
  if d.mode = 2 then s else s.journalCompl p d.sq (complWords d status cause result detail)

/-- Set PTN_JOB STATE and raise JOB_STATE on a change (R342, R359). -/
def JobState.code : JobState → Nat
  | .noJob => 0 | .opening => 1 | .running => 2 | .suspending => 3 | .suspended => 4 | .resuming => 5 | .closing => 6

/-- See `JobState.code`. -/
def State.setJob (s : State) (p : Nat) (j : JobState) : State :=
  let old := (s.pt p).job
  if old = j then s
  else (s.upPt p fun q => { q with job := j }).raiseP p 0x103 j.code old.code

/-- PTN_FUNC_STATE encoding (R309). -/
def Func.code : Func → Nat
  | .absent => 0 | .resetting => 1 | .ready => 2 | .discarding => 3

/-- The partition function's state. -/
def State.setFunc (s : State) (p : Nat) (f : Func) : State := s.upPt p fun q => { q with func := f }

/-- Function state as PTN_FUNC_STATE reads (R25, R309). -/
def State.funcState (s : State) (p : Nat) : Func :=
  if s.shapeBusy then .resetting else (s.pt p).func

/-- A rollback of partition `p` becomes required, with its cause (R443). -/
def State.wantRollback (s : State) (p cause : Nat) : State :=
  s.upPt p fun q => if q.rollReq.isSome then q else { q with rollReq := some (cause, s.mgmt.beat) }

/-- The job of partition `p` is to end with this ABORTED cause at the next boundary (R429). -/
def State.wantEnd (s : State) (p cause : Nat) : State :=
  s.upPt p fun q => if q.endCause.isSome then q else { q with endCause := some cause }

/-- Add to a counter field of MGT_FAULT_PTNp, saturating. -/
def State.countFault (s : State) (p lo n : Nat) : State :=
  let s := s.tally fun t => if lo = 16 then { t with replays := t.replays + n }
    else if lo = 32 then { t with restores := t.restores + n } else { t with rollbacks := t.rollbacks + n }
  s.setFld rMgtFaultPtn 0 p (lo + 15) lo (satAdd 65535 (s.fld rMgtFaultPtn 0 p (lo + 15) lo) n)

end Sys2Proof.Machine
end

