-- ==== Sys2Proof/Machine/Mem.lean ====
section
/-! DEFINITION. The memories behind the operand spaces: core memory, SLM scratchpad and device virtual bytes with
their uncorrectable words and sectors (R86, R142, R267, R281), regions, frames, placement, the shared pool and the
residency check (R221 to R250, R258, R260). -/

namespace Sys2Proof.Machine

/-! ### Writes over protected words (R142) -/

/-- A byte write: its address, value, and whether it covers the whole byte. -/
abbrev BWrite := Nat × Byte × Bool

/-- Does the write set cover every byte of unit `u` of `size` bytes? -/
def coversUnit (size u : Nat) (ws : List BWrite) : Bool :=
  (List.range size).all fun i => ws.any fun w => w.1 == u * size + i && w.2.2

/-- Does the write set touch unit `u`? -/
def touchesUnit (size u : Nat) (ws : List BWrite) : Bool := ws.any fun w => w.1 / size == u

/-- Apply a write set to memory whose units `bad` read uncorrectable. A unit that is covered whole is healed; a
partial write into an uncorrectable unit is not applied. The list answered is that of the units whose partial write
was refused. All writes of one instruction to a unit count together. DESIGN CHOICE, log entry 173. -/
def applyWrites (size : Nat) (bad : List Nat) (m : Memory) (ws : List BWrite) : Memory × List Nat × List Nat :=
  let hit := bad.filter fun u => touchesUnit size u ws
  let part := hit.filter fun u => !coversUnit size u ws
  let m' := ws.foldl (fun m w => if part.contains (w.1 / size) then m else m.wr w.1 w.2.1) m
  (m', bad.filter (fun u => !hit.contains u || part.contains u), part)

/-- Whole-byte writes of a byte string at `a`. -/
def bwrites (a : Nat) : Bytes → List BWrite
  | [] => []
  | b :: bs => (a, b, true) :: bwrites (a + 1) bs

/-- Units of `size` bytes in `bad` that the ranges touch. -/
def rangeBad (size : Nat) (bad : List Nat) (rs : List (Nat × Nat)) : List Nat :=
  bad.filter fun u => rs.any fun r => decide (r.1 < (u + 1) * size) && decide (u * size < r.1 + r.2) && decide (0 < r.2)

/-! ### Regions and pages (R221 to R228) -/

/-- Page number of a device virtual address. -/
def pageOf (va : Nat) : Nat := va / 262144

/-- Index and descriptor of the region that holds page `n`. -/
def findRegion (n i : Nat) : List Region → Option (Nat × Region)
  | [] => none
  | r :: rs => if r.kind ≠ 0 ∧ r.base ≤ n ∧ n < r.base + r.pages then some (i, r) else findRegion n (i + 1) rs

/-- The region of page `n` of a partition's job. -/
def Ptn.region (q : Ptn) (n : Nat) : Option (Nat × Region) :=
  if q.job = .noJob then none else findRegion n 0 q.info.regions

/-- Kind of the region of page `n`: 0 outside every region. -/
def Ptn.kind (q : Ptn) (n : Nat) : Nat := ((q.region n).map fun r => r.2.kind).getD 0

/-- Is page `n` a bound page: a WEIGHTS or KV page of a job with a bound package (R514)? -/
def Ptn.pageBound (q : Ptn) (n : Nat) : Bool := q.info.bound && (q.kind n == 2 || q.kind n == 3)

/-- Pages that a byte range touches. -/
def pagesOfRange (a len : Nat) : List Nat :=
  if len = 0 then [] else (List.range (pageOf (a + len - 1) - pageOf a + 1)).map (· + pageOf a)

/-- Pages that byte ranges touch, without repeats, ascending. -/
def pagesOf (rs : List (Nat × Nat)) : List Nat :=
  (rs.foldl (fun t r => (pagesOfRange r.1 r.2).foldl (fun t n => Tbl.put t n ()) t) ([] : Tbl Unit)).map (·.1)

/-- Does the range lie in the partition's range (R221)? -/
def Ptn.inRange (q : Ptn) (rs : List (Nat × Nat)) : Bool :=
  rs.all fun r => decide (r.1 + r.2 ≤ 2 ^ 48) && (pagesOfRange r.1 r.2).all fun n => q.kind n != 0

/-- States with an HBM frame (R226). -/
def Page.framed (g : Page) : Bool := g.state == 1 || g.state == 3 || g.state == 4 || g.state == 5

/-- Stacks of partition `p`, by position: stack H number (R6). -/
def State.hstack (s : State) (p i : Nat) : Nat := p * 3 * s.k + i

/-- Frames of the partition's stack `i` (R270). -/
def State.stackFrames (s : State) (p i : Nat) : Nat := s.fld rMemHbmH 0 (s.hstack p i) 23 5

/-- Frames of stack `i` that pages, snapshots and the system area hold; the system area is spread evenly (DESIGN CHOICE, log entry 12). -/
def State.stackUsed (s : State) (p i : Nat) : Nat :=
  let q := s.pt p
  let n := 3 * s.k
  q.info.sysFrames / n + (if i < q.info.sysFrames % n then 1 else 0) +
    q.live.pages.foldl (fun c e => c + (if e.2.framed && e.2.stack == i then 1 else 0) +
      (if e.2.snap == some i then 1 else 0)) 0

/-- Free frames of stack `i`. -/
def State.stackFree (s : State) (p i : Nat) : Nat := s.stackFrames p i - s.stackUsed p i

/-- Free frames of the partition. -/
def State.freeFrames (s : State) (p : Nat) : Nat :=
  (List.range (3 * s.k)).foldl (fun n i => n + s.stackFree p i) 0

/-- All frames of the partition. -/
def State.allFrames (s : State) (p : Nat) : Nat :=
  (List.range (3 * s.k)).foldl (fun n i => n + s.stackFrames p i) 0

/-- The stack of the list with the most free frames, the lowest number first among equals. -/
def bestStack (f : Nat → Nat) : List Nat → Option Nat → Option Nat
  | [], b => b
  | i :: t, none => bestStack f t (if 0 < f i then some i else none)
  | i :: t, some b => bestStack f t (if f b < f i then some i else some b)

/-- The stack in which page `n` takes a frame (R228): its preferred stack, else the same base die's stack with the
most free frames, else the partition's. None when no frame is free. -/
def State.place (s : State) (p n : Nat) : Option Nat :=
  let pref := n % (3 * s.k)
  if 0 < s.stackFree p pref then some pref
  else match bestStack (s.stackFree p) ((List.range 3).map (· + pref / 3 * 3)) none with
    | some i => some i
    | none => bestStack (s.stackFree p) (List.range (3 * s.k)) none

/-! ### The cache (R280, R281) -/

/-- Number of the sector `sec` of a page that holds a frame, over the frames of every stack. -/
def State.lineOf (s : State) (p : Nat) (g : Page) (sec : Nat) : Nat := (s.hstack p g.stack * 262144 + g.frame) * 4096 + sec % 4096

/-- Sets of 16 ways in each cache of the partition. -/
def State.cacheSets (s : State) (p : Nat) : Nat := s.fld rMemSlmSplitPtn 0 p 3 0 * 32768

/-- Place of a line in the caches: its base die, and its set. DESIGN CHOICE, log entry 162. -/
def lineKey (sets x : Nat) : Nat := x / 3221225472 * 2 ^ 24 + x % sets

/-- Does the cache hold the line of sector `sec` (numbered over the range) of partition `p`? -/
def State.cached (s : State) (p sec : Nat) : Bool :=
  let x := s.lineOf p (s.page p (sec / 4096)) sec
  (s.page p (sec / 4096)).framed && decide (0 < s.cacheSets p) && (Tbl.get [] s.hbm.cache (lineKey (s.cacheSets p) x)).contains x

/-- A read that allocates brings the sector's line in, as its set's most recently used; the least recently used of 16 leaves. A page without a
frame has no line (R226, R280). -/
def State.touchLine (s : State) (p sec : Nat) : State :=
  let x := s.lineOf p (s.page p (sec / 4096)) sec
  let at' := lineKey (s.cacheSets p) x
  if s.cacheSets p = 0 ∨ (s.page p (sec / 4096)).framed = false then s
  else { s with hbm := { s.hbm with
    cache := Tbl.put s.hbm.cache at' ((x :: (Tbl.get [] s.hbm.cache at').filter (· != x)).take 16) } }

/-- Reads of device-virtual ranges that allocate lines (R280). -/
def State.allocate (s : State) (p : Nat) (rs : List (Nat × Nat)) : State :=
  (rs.flatMap fun r => (List.range ((r.1 + r.2 + 63) / 64 - r.1 / 64)).map (· + r.1 / 64)).foldl (fun s u => s.touchLine p u) s

/-- Lines for which `f` holds are invalid. -/
def State.dropLines (s : State) (f : Nat → Bool) : State :=
  { s with hbm := { s.hbm with cache := s.hbm.cache.map fun e => (e.1, e.2.filter fun x => !f x) } }

/-- One line is invalid. -/
def State.dropLine (s : State) (x : Nat) : State := s.dropLines (· == x)

/-- The caches of a partition's base dies are empty, and so are its codec reference stores (R278, R507). -/
def State.clearStores (s : State) (p : Nat) : State :=
  { s.dropLines fun x => x / 3221225472 / s.k == p with
    engines := s.engines.map fun e => if e.1 / (2 * s.k) = p then (e.1, { e.2 with badStore := [] }) else e }

/-- A corrected error is counted for stack `h` (R266, R281). -/
def State.countCorrected (s : State) (h : Nat) : State :=
  (s.setFld rMemHbmH 0 h 63 40 (satAdd 0xffffff (s.fld rMemHbmH 0 h 63 40) 1)).tally fun t => { t with ce := t.ce + 1 }

/-! ### Frames given and taken (R228, R440) -/

/-- Page `n` takes a frame in stack `i`; the frame number is free (R228). Nothing waits for it any more, and the lines that the fill or the
zeroing changes are invalid (R280). -/
def State.takeFrame (s : State) (p n i : Nat) (f : Page → Page) : State :=
  let s' := s.upPage p n fun g => f { g with stack := i, frame := (Config.freeFrame s.free).toNat }
  let s' := s'.dropLines fun x => x / 4096 == s'.lineOf p (s'.page p n) 0 / 4096
  { s'.upPt p fun q => { q with wants := q.wants.filter fun w => w.2 != n } with free := s.free + 1 }

/-- Page `n` loses its frame. A DEMOTE hint stays until the page is next pinned (R236). -/
def Page.unframe (g : Page) (st : Nat) : Page :=
  { g with state := st, stack := 0, frame := 0, bad := [], drop := false, acted := false, fetching := false }

/-- The bytes of page `n` become zero. -/
def zeroPage (m : Memory) (n : Nat) : Memory := m.filter fun e => e.1 / 262144 != n

/-! ### The shared pool (R239, R240) -/

/-- Charges of partition `p`: its own pages, and the images that it holds for other modules (R239, R452). -/
def State.usedOf (s : State) (p : Nat) : Nat := (s.pt p).used + (s.store.guests.filter fun g => g.p == p).length

/-- Σ max(U_q, F_q) with `n` more charges of partition `p`. -/
def State.poolSum (s : State) (p n : Nat) : Nat :=
  (List.range s.parts).foldl (fun t q =>
    t + Nat.max (s.usedOf q + if q = p then n else 0) (s.fld rMemPoolPtn 0 q 31 0)) 0

/-- Can `n` pages be charged to partition `p` (R240)? -/
def State.canCharge (s : State) (p n : Nat) : Bool :=
  decide (s.usedOf p + n ≤ s.fld rMemPoolPtn 0 p 63 32) && decide (s.poolSum p n ≤ s.fld rMemPoolSize 0 0 31 0)

/-- Charge `n` pages. -/
def State.charge (s : State) (p n : Nat) : State := s.upPt p fun q => { q with used := q.used + n }

/-- Return `n` charges. -/
def State.uncharge (s : State) (p n : Nat) : State := s.upPt p fun q => { q with used := q.used - n }

/-! ### The dirty share (R260) -/

/-- D: pages touched since the last cut. -/
def Ptn.dirtyCount (q : Ptn) : Nat := q.live.pages.foldl (fun n e => if e.2.touched then n + 1 else n) 0

/-! ### Page-table protection (R174) -/

/-- Is the block at `va` committed or under validation? -/
def JobData.protected (j : JobData) (va : Nat) : Bool :=
  Tbl.get 0 j.blockRefs (va / 4096) != 0 || j.seqs.any fun e => match e.2.edit with
    | some d => d.blocks.any fun b => b.1 == va / 4096
    | none => false

/-! ### Uncorrectable sectors (R267, R270, R439) -/

/-- The pseudo-channel of stack `h` that holds sector `sec` of a frame: 256-byte units go to those that have not failed in turn, the first
unit of a frame to the first of them (R263, R270). DESIGN CHOICE, log entry 161. -/
def State.channelOf (s : State) (h sec : Nat) : Nat :=
  let live := (List.range 64).filter fun c => s.fld rMemHbmPcfailH 0 h c c = 0
  live.getD (sec % 4096 / 4 % live.length) 0

/-- A pseudo-channel is declared failed: its bit, the frames that survive, the stack's state, every page of the
stack, and what the stack holds of the system area (R270, R441). -/
def State.failPc (s : State) (p i pc : Nat) : State :=
  let h := s.hstack p i
  if s.fld rMemHbmPcfailH 0 h pc pc = 1 then s
  else
    let s := s.setFld rMemHbmPcfailH 0 h pc pc 1
    let v := s.rd rMemHbmPcfailH 0 h
    let live := 64 - (List.range 64).foldl (fun n b => n + bits v b b) 0
    let s := s.setFld rMemHbmH 0 h 23 5 (if live < 32 then 0 else 262144 * live / 64)
    let s := s.setFld rMemHbmH 0 h 2 0 (if live < 32 then 3 else 2)
    let s := (s.raiseM 0x011 h v).dropLines fun x => x / 1073741824 == h
    let s := s.upPt p fun q => { q with areaLost := true }
    s.upJob p fun j => { j with pages := j.pages.map fun e =>
      if e.2.framed && e.2.stack == i then (e.1, { e.2 with drop := true, dropAt := s.mgmt.beat, acted := false }) else e }

/-- Some unit reads sector `sec` (numbered over the range) of partition `p` as uncorrectable: the event, the count,
and the page's frame marked for the tier manager's action at the next boundary (R267, R270, R439). -/
def State.meetBad (s : State) (p sec : Nat) : State :=
  let n := sec / 4096
  let g := s.page p n
  let h := s.hstack p g.stack
  let s := s.raiseM 0x010 h (g.frame * 4096 + sec % 4096)
  let s := (s.setFld rMemHbmH 0 h 39 32 (satAdd 255 (s.fld rMemHbmH 0 h 39 32) 1)).tally fun t => { t with ue := t.ue + 1 }
  let s := s.upPage p n fun g =>
    if g.drop then g else { g with drop := true, dropAt := s.mgmt.beat, acted := false }
  let pc := s.channelOf h sec
  let bank := (Tbl.get 0 s.hbm.badBank (p * 2 ^ 48 + sec) - 1) / 16384
  let key := (h * 64 + pc) * 64 + bank
  let old := if s.hbm.ueEpoch = s.epoch then s.hbm.ueBanks else []
  let now := if old.contains key then old else key :: old
  let s := { s with hbm := { s.hbm with ueBanks := now, ueEpoch := s.epoch } }
  if 4 ≤ (now.filter fun x => x / 64 = h * 64 + pc).length then s.failPc p g.stack pc else s

/-- Uncorrectable sectors among pages `ns`. -/
def JobData.badSectors (j : JobData) (ns : List Nat) : List Nat := ns.flatMap fun n => (j.page n).bad

/-- Sectors that reading the device-virtual ranges meets as uncorrectable: not those whose line the cache holds (R267, R280). -/
def State.dvBadIn (s : State) (p : Nat) (rs : List (Nat × Nat)) : List Nat :=
  (rangeBad 64 ((s.pt p).live.badSectors (pagesOf rs)) rs).filter fun u => !s.cached p u

/-- Sectors of page `n` that a forager meets as uncorrectable (R267, R280). -/
def State.badOf (s : State) (p n : Nat) : List Nat := (s.page p n).bad.filter fun u => !s.cached p u

/-- Write device virtual bytes: writes into protected page-table blocks are dropped, partial writes into
uncorrectable sectors are not applied. Answers the state, whether a write was dropped, and whether one met an
uncorrectable sector (R142, R174). -/
def State.dvWrite (s : State) (p : Nat) (ws : List BWrite) : State × Bool × Bool :=
  let j := (s.pt p).live
  let ok := ws.filter fun w => !j.protected w.1
  let ns := pagesOf (ok.map fun w => (w.1, 1))
  let r := applyWrites 64 (j.badSectors ns) j.dv ok
  let s1 := s.upJob p fun j =>
    ns.foldl (fun j n => if (j.page n).bad = [] then j else j.upPage n fun g => { g with bad := g.bad.filter r.2.1.contains })
      { j with dv := r.1 }
  (r.2.2.foldl (fun s u => s.meetBad p u) s1, decide (ok.length ≠ ws.length), !r.2.2.isEmpty)

/-- Base of the scratchpad window in the hart's address map (R101). -/
def slmWindow : Nat := 0x1000000000

/-- Operations and writes of a requester on 64-byte scratchpad units end the reservations that other harts hold there; `who` is the
position of the dispatcher that makes them, if one does (R284). -/
def dropResv (ds : Tbl Disp) (units : List Nat) (who : Option Nat) : Tbl Disp :=
  ds.map fun e => match e.2.resv with
    | some (a, _) => if slmWindow ≤ a ∧ units.contains ((a - slmWindow) / 64) ∧ who ≠ some e.1 then (e.1, { e.2 with resv := none }) else e
    | none => e

/-- An operation of another requester on the scratchpad unit of `off`, whether or not it writes (R284). DEDUCED, log entry 145. -/
def State.slmOperate (s : State) (p off : Nat) (who : Option Nat) : State :=
  s.upJob p fun j => { j with disps := dropResv j.disps [off / 64] who }

/-- Scratchpad offset to base die and die offset, as SLM_UNCORRECTABLE reports it (R279, R359). -/
def State.slmUnit (s : State) (p : Nat) : Nat := s.fld rMemSlmSplitPtn 0 p 7 4 * 33554432

/-- Scratchpad bytes of the partition (R279). -/
def State.scratchSize (s : State) (p : Nat) : Nat := s.k * s.slmUnit p

/-- Some unit meets an uncorrectable scratchpad word: the event and a rollback (R281, R431, R434). -/
def State.meetSlmBad (s : State) (p word : Nat) : State :=
  let u := s.slmUnit p
  let die := if u = 0 then 0 else word * 8 / u
  (s.raiseM 0x013 (p * s.k + die) (if u = 0 then word * 8 else word * 8 % u)).wantRollback p 4

/-- A unit of the module reads `n` scratchpad bytes: the uncorrectable words among them are met (R281, R434). -/
def State.slmMeet (s : State) (p off n : Nat) : State :=
  (rangeBad 8 (s.pt p).live.slmBad [(off, n)]).foldl (fun s w => s.meetSlmBad p w) s

/-- Requester `who` writes scratchpad bytes; answers whether a partial write met an uncorrectable word. -/
def State.slmWriteBy (s : State) (p : Nat) (ws : List BWrite) (who : Option Nat) : State × Bool :=
  let j := (s.pt p).live
  let r := applyWrites 8 j.slmBad j.slm ws
  let s1 := s.upJob p fun j =>
    { j with slm := r.1, slmBad := r.2.1, disps := dropResv j.disps (ws.map fun w => w.1 / 64) who }
  (r.2.2.foldl (fun s u => s.meetSlmBad p u) s1, !r.2.2.isEmpty)

/-- A requester other than a hart writes scratchpad bytes. -/
def State.slmWrite (s : State) (p : Nat) (ws : List BWrite) : State × Bool := s.slmWriteBy p ws none

/-- Write bytes of a core's memory; answers whether a partial write met an uncorrectable word. -/
def State.coreWrite (s : State) (p lc : Nat) (ws : List BWrite) : State × Bool :=
  let c := s.core p lc
  let r := applyWrites 8 c.bad c.mem ws
  (s.upCore p lc fun c => { c with mem := r.1, bad := r.2.1 }, !r.2.2.isEmpty)

/-! ### The residency check (R229 to R233, R258, R260) -/

/-- What the residency check finds for one page. -/
inductive Resid where
  | pin
  | wait
  | refuse (code : Nat)
deriving DecidableEq, Repr

/-- Does a write of the page take a frame: a ZERO page, or one that is copied on write (R229, R258)? -/
def Page.needsFrame (g : Page) (write : Bool) : Bool := write && (g.state == 6 || g.cow)

/-- Are there free frames for pages `ns`, beside those for which others have waited longer (R231, R233)? -/
def State.framesFor (s : State) (p : Nat) (ns : List Nat) : Bool :=
  let ahead := ((s.pt p).wants.takeWhile fun w => !ns.contains w.2).map (·.2)
  decide (ns = []) || decide (ahead.eraseDups.length + ns.length ≤ s.freeFrames p)

/-- Would write pins of pages `wr` make D exceed the partition's share (R260)? -/
def State.dirtyFull (s : State) (p : Nat) (wr : List Nat) : Bool :=
  let news := (wr.filter fun n => !(s.page p n).touched).eraseDups
  !news.isEmpty && decide (196608 * s.k < (s.pt p).dirtyCount + news.length)

/-- The check of page `n` (R229); a page outside every region is refused, so that no walk reads outside the partition's range (R175). A page whose frame is to be dropped takes no new pin (R439). -/
def State.residOf (s : State) (p n : Nat) (write : Bool) : Resid :=
  let q := s.pt p
  let g := q.live.page n
  if write ∧ (g.capped ∨ q.kind n = 2) then .refuse Code.readOnlyPage
  else if g.state = 0 ∨ q.kind n = 0 then .refuse Code.unbackedPage
  else if g.drop then .wait
  else if g.state = 2 ∨ g.state = 4 then .wait
  else if write ∧ s.dirtyFull p [n] then .wait
  else if g.needsFrame write ∧ (s.framesFor p [n] = false ∨ (g.cow ∧ g.bad ≠ [])) then .wait
  else .pin

/-- The result over all pages, READ_ONLY_PAGE before UNBACKED_PAGE before waiting (R229, R260). -/
def State.residAll (s : State) (p : Nat) (rd wr : List Nat) : Resid :=
  let rs := rd.map (fun n => s.residOf p n false) ++ wr.map (fun n => s.residOf p n true)
  if rs.contains (.refuse Code.readOnlyPage) then .refuse Code.readOnlyPage
  else if rs.contains (.refuse Code.unbackedPage) then .refuse Code.unbackedPage
  else if rs.contains .wait ∨ s.dirtyFull p wr ∨ s.framesFor p (wr.filter fun n => (s.page p n).needsFrame true) = false then .wait
  else .pin

/-- A page becomes dirty: HBM state with DIRTY, counted in D (R226, R260). -/
def Page.soil (g : Page) : Page := { g with state := 1, dirty := true, touched := true }

/-- The pending store writes of page `n` become `f` of themselves; one that `f` gives up is dropped. -/
def State.upWrites (s : State) (p n : Nat) (f : SWrite → Option SWrite) : State :=
  { s with store := { s.store with writes := s.store.writes.filterMap fun w => if w.p == p && w.n == n then f w else some w } }

/-- Copy on write: the old frame keeps the snapshot, which its flush write then writes, and the page takes a new one (R258). -/
def State.cowPage (s : State) (p n : Nat) : State :=
  let g := s.page p n
  match s.place p n with
  | some i => (s.takeFrame p n i fun x => { x with cow := false, snap := some g.stack, bad := [] }).upWrites p n fun w => some { w with snap := true }
  | none => s

/-- Make page `n` ready for a read or a write and take no pin yet: a DEMOTING page returns to HBM and its write-out is abandoned, unless it is
also its cap journal write or its flush; a written ZERO page takes a zeroed frame, a written page with a pending snapshot is copied (R229, R245,
R252, R258). -/
def State.touchPage (s : State) (p n : Nat) (write : Bool) : State :=
  let g := s.page p n
  let s := if g.state = 5 then
      (s.upPage p n fun g => { g with state := 1, dirty := true }).upWrites p n fun w => if w.snap ∨ g.capWrite ∨ g.cow then some w else none
    else s
  if write = false then s
  else
    let s := if (s.page p n).state = 6 then
        match s.place p n with
        | some i => s.takeFrame p n i fun g => g.soil
        | none => s
      else s
    let s := if (s.page p n).cow then s.cowPage p n else s
    (s.upPage p n Page.soil).upWrites p n fun w => if w.snap then some w else none

/-- The check of requester `who` has begun, and waits (R233). -/
def State.beginCheck (s : State) (p who : Nat) : State :=
  if (Tbl.find (s.pt p).began who).isSome then s
  else s.upPt p fun q => { q with began := Tbl.put q.began who q.beganNext, beganNext := q.beganNext + 1 }

/-- A demand fetch takes its place: behind those whose checks began before `k` (R233). -/
def fetchIn (k n : Nat) : List (Nat × Nat) → List (Nat × Nat)
  | [] => [(k, n)]
  | x :: t => if k < x.1 then (k, n) :: x :: t else x :: fetchIn k n t

/-- A fetch of page `n` starts: the page takes a frame and is FETCHING; a demand fetch takes its place in the order in which the checks began
(R229, R233, R237). -/
def State.startFetch (s : State) (p n : Nat) (demand : Option Nat) : State :=
  if (s.page p n).state ≠ 2 then s
  else match s.place p n with
    | some i =>
      let s := s.takeFrame p n i fun g =>
        { g with state := 4, fetching := true, evicted := false, promo := 0, got := 0,
                 fetched := if demand.isSome then setBits g.fetched 0 0 1 else g.fetched }
      match demand with
      | some who => s.upPt p fun q => { q with fetchQ := fetchIn (Tbl.get q.beganNext q.began who) n q.fetchQ }
      | none => s
    | none => s

/-- A check that waits for a page that another check has had fetched, and that began before it, moves the fetch to its own place (R233). -/
def State.hastenFetch (s : State) (p who n : Nat) : State :=
  let k := Tbl.get (s.pt p).beganNext (s.pt p).began who
  if (s.pt p).fetchQ.any fun x => x.2 == n && decide (k < x.1) then
    s.upPt p fun q => { q with fetchQ := fetchIn k n (q.fetchQ.filter fun x => x.2 != n) }
  else s

/-- Numbers by which units other than cores wait (R231): codec engine `e`, the copy of ring `n`, entry `n` of communication queue `q`, and
the packets that arrive. -/
def unitOfEngine (e : Nat) : Nat := 65536 + e
/-- See `unitOfEngine`. -/
def unitOfRing (n : Nat) : Nat := 65552 + n
/-- See `unitOfEngine`. -/
def unitOfOp (q n : Nat) : Nat := 65616 + n * 64 + q
/-- See `unitOfEngine`. -/
def unitOfArrival : Nat := 65551

/-- Requester `who` asks for page `n`: a STORE page is fetched once a frame is free for it; a page to be copied or zeroed waits for its frame,
and the flush then writes its snapshot ahead of the others; a snapshot that cannot be copied has its frame acted on (R229, R233, R258,
R267). -/
def State.askPage (s : State) (p who n : Nat) (write : Bool) : State :=
  let g := s.page p n
  let wait := fun (s : State) => if (s.pt p).wants.contains (who, n) then s else s.upPt p fun q => { q with wants := q.wants ++ [(who, n)] }
  if g.drop then s
  else if g.state = 2 then (if s.framesFor p [n] then s.startFetch p n (some who) else wait s)
  else if g.state = 4 then s.hastenFetch p who n
  else if g.needsFrame write then
    match g.cow, g.bad with
    | true, u :: _ => s.meetBad p u
    | true, [] => (wait s).upWrites p n fun w => some (if w.snap then w else { w with cls := Nat.min w.cls 2 })
    | false, _ => wait s
  else s

/-- The stall of a core's residency check is over: the level source ends with the last one of the partition (R370). -/
def State.endStall (s : State) (p who : Nat) : State :=
  if (s.core p who).stalled ∧ ((s.pt p).live.cores.all fun e => e.1 == who || !e.2.stalled) then s.endLevel (p + 1) 0x113 else s

/-- Requester `who` waits no longer for frames and pins (R231). -/
def State.stopWaiting (s : State) (p who : Nat) : State :=
  (s.endStall p who).upPt p fun q => { q with
    wants := q.wants.filter fun w => w.1 != who, unitQ := q.unitQ.filter (· != who), began := q.began.filter fun e => e.1 != who }

/-- What a waiting check asks for: its pages, and an early cut when D has run out (R229, R260). -/
def State.askPages (s : State) (p who : Nat) (rd wr : List Nat) : State :=
  let s := s.beginCheck p who
  let s := wr.foldl (fun s n => s.askPage p who n true) (rd.foldl (fun s n => s.askPage p who n false) s)
  if s.dirtyFull p wr ∨ wr.any (fun n => s.dirtyFull p [n]) then
    s.upPt p fun q => { q with cutEarly := true }
  else s

/-- Pages that tile instructions and walks hold pinned (R231). -/
def Ptn.tilePinned (q : Ptn) : Nat := q.live.pages.foldl (fun n e => if 0 < e.2.pins then n + 1 else n) 0

/-- Pages that the other units hold pinned (R231). -/
def Ptn.unitPinned (q : Ptn) : Nat := q.live.pages.foldl (fun n e => if 0 < e.2.opins then n + 1 else n) 0

/-- Does tile admission allow these pages (R231)? -/
def State.admits (s : State) (p : Nat) (ns : List Nat) : Bool :=
  decide (2 * ((s.pt p).tilePinned + (ns.filter fun n => (s.page p n).pins = 0).length) ≤ s.allFrames p)

/-- Do the other units' quarter allow these pages (R231)? -/
def State.admitsUnit (s : State) (p : Nat) (ns : List Nat) : Bool :=
  decide (4 * ((s.pt p).unitPinned + (ns.filter fun n => (s.page p n).opins = 0).length) ≤ s.allFrames p)

/-- May unit `who` pin these pages: they fit the quarter, and no other unit has waited longer (R231)? DEDUCED, log entry 159. -/
def State.unitMay (s : State) (p who : Nat) (ns : List Nat) : Bool :=
  s.admitsUnit p ns && ((s.pt p).unitQ.isEmpty || (s.pt p).unitQ.head? == some who)

/-- Unit `who` waits for pins, behind those that wait already (R231). -/
def State.unitWait (s : State) (p who : Nat) : State :=
  if (s.pt p).unitQ.contains who then s else (s.beginCheck p who).upPt p fun q => { q with unitQ := q.unitQ ++ [who] }

/-- Pin pages for a tile instruction or walk. -/
def State.pinTile (s : State) (p : Nat) (rd wr : List Nat) : State :=
  let s := rd.foldl (fun s n => (s.touchPage p n false).upPage p n fun g => { g with pins := g.pins + 1, age := 0, demote := false }) s
  wr.foldl (fun s n => (s.touchPage p n true).upPage p n fun g =>
    { g with pins := g.pins + 1, wpins := g.wpins + 1, age := 0, demote := false }) s

/-- Release those pins. -/
def State.unpinTile (s : State) (p : Nat) (rd wr : List Nat) : State :=
  let s := rd.foldl (fun s n => s.upPage p n fun g => { g with pins := g.pins - 1 }) s
  wr.foldl (fun s n => s.upPage p n fun g => { g with pins := g.pins - 1, wpins := g.wpins - 1 }) s

/-- Pin a page for another unit: a codec engine, a copy, a link-engine operation. -/
def State.pinUnit (s : State) (p n : Nat) (write : Bool) : State :=
  (s.touchPage p n write).upPage p n fun g =>
    { g with opins := g.opins + 1, wpins := g.wpins + (if write then 1 else 0), age := 0, demote := false }

/-- Release that pin. -/
def State.unpinUnit (s : State) (p n : Nat) (write : Bool) : State :=
  s.upPage p n fun g => { g with opins := g.opins - 1, wpins := g.wpins - (if write then 1 else 0) }

/-- Unit `who` pins its pages, those it writes among them, and waits no longer. -/
def State.pinUnits (s : State) (p who : Nat) (rd wr : List Nat) : State :=
  (wr.foldl (fun s n => s.pinUnit p n true) (rd.foldl (fun s n => s.pinUnit p n false) s)).stopWaiting p who

/-- Unit `who` pins pages for a read within the present step and releases them: their AGE starts again (R232). -/
def State.passUnits (s : State) (p who : Nat) (ns : List Nat) : State :=
  ns.foldl (fun s n => s.unpinUnit p n false) (s.pinUnits p who ns [])

/-- Bytes of the device virtual range; a ZERO page reads as zero because nothing of it is listed (R226). -/
def State.dvRead (s : State) (p a n : Nat) : Bytes := (s.pt p).live.dv.rdN a n

end Sys2Proof.Machine
end

