-- ==== Sys2Proof/Machine/Numerics.lean ====
section
/-! DEFINITION. Number formats and arithmetic: exact values, rounding, conversion, microscaling blocks and stochastic
rounding (R61 to R79). Values are exact dyadic numbers; an operation rounds where the spec rounds. -/

namespace Sys2Proof.Machine

/-- A value: NaN, an infinity, or sign × m × 2^e. A zero keeps its sign (R61). -/
inductive Fv where
  | nan
  | inf (neg : Bool)
  | fin (neg : Bool) (m : Nat) (e : Int)
deriving DecidableEq, Repr

namespace Fv
/-- +0. -/
def zero : Fv := .fin false 0 0
/-- 1. -/
def one : Fv := .fin false 1 0
/-- −∞. -/
def negInf : Fv := .inf true
/-- Is it a NaN? -/
def isNan : Fv → Bool
  | .nan => true
  | _ => false
/-- Is it finite? -/
def finite : Fv → Bool
  | .fin _ _ _ => true
  | _ => false
/-- Negation; a NaN stays a NaN. -/
def neg : Fv → Fv
  | .nan => .nan
  | .inf s => .inf !s
  | .fin s m e => .fin (!s) m e
/-- Magnitude. -/
def abs : Fv → Fv
  | .nan => .nan
  | .inf _ => .inf false
  | .fin _ m e => .fin false m e
/-- The value times 2^k. -/
def scale (k : Int) : Fv → Fv
  | .fin s m e => .fin s m (e + k)
  | v => v
/-- An integer. -/
def ofInt (i : Int) : Fv := .fin (decide (i < 0)) i.natAbs 0
/-- A natural number. -/
def ofNat (n : Nat) : Fv := .fin false n 0
end Fv

/-- The signed integer v × 2^(e − lo) of a finite value, for lo ≤ e. -/
def dyInt (neg : Bool) (m : Nat) (e lo : Int) : Int :=
  let n : Int := (m * 2 ^ (e - lo).toNat : Nat)
  if neg then -n else n

/-- The exact product. -/
def Fv.mulX : Fv → Fv → Fv
  | .nan, _ => .nan
  | _, .nan => .nan
  | .inf s, .inf t => .inf (s != t)
  | .inf s, .fin t m _ => if m = 0 then .nan else .inf (s != t)
  | .fin t m _, .inf s => if m = 0 then .nan else .inf (s != t)
  | .fin s m e, .fin t n f => .fin (s != t) (m * n) (e + f)

/-- The exact sum. A zero sum is +0 unless both addends are −0 (R71). -/
def Fv.addX : Fv → Fv → Fv
  | .nan, _ => .nan
  | _, .nan => .nan
  | .inf s, .inf t => if s = t then .inf s else .nan
  | .inf s, .fin _ _ _ => .inf s
  | .fin _ _ _, .inf s => .inf s
  | .fin s m e, .fin t n f =>
    let lo := if e ≤ f then e else f
    let i := dyInt s m e lo + dyInt t n f lo
    if i = 0 then .fin (s && t && m == 0 && n == 0) 0 0 else .fin (decide (i < 0)) i.natAbs lo

/-- The exact sum of a list: −0 when every addend is −0 and there is one. -/
def Fv.sumX : List Fv → Fv
  | [] => .zero
  | v :: t => t.foldl Fv.addX v

/-- Order of two values that are not NaN, with −0 below +0 (R131). -/
def Fv.lt (a b : Fv) : Bool :=
  match a, b with
  | .inf true, .inf true => false
  | .inf true, _ => true
  | _, .inf true => false
  | .inf false, _ => false
  | _, .inf false => true
  | .fin s m e, .fin t n f =>
    let lo := if e ≤ f then e else f
    let x := dyInt s m e lo
    let y := dyInt t n f lo
    decide (x < y) || (x == y && s && !t && m == 0)
  | _, _ => false

/-- MAX of R131. -/
def Fv.maxOf (a b : Fv) : Fv :=
  if a.isNan || b.isNan then .nan else if a.lt b then b else a

/-- MIN of R131. -/
def Fv.minOf (a b : Fv) : Fv :=
  if a.isNan || b.isNan then .nan else if b.lt a then b else a

/-! ### Rounding (R71 to R76) -/

/-- How a magnitude rounds: to nearest even, down or up by a 16-bit random value, or toward zero. -/
inductive Rnd where
  | even
  | random (r : Nat)
  | trunc
deriving DecidableEq, Repr

/-- Round m × 2^(−sh) to an integer (R71, R73). -/
def roundShift (how : Rnd) (m sh : Nat) : Nat :=
  let q := m / 2 ^ sh
  let r := m % 2 ^ sh
  match how with
  | .even => if 2 ^ sh < 2 * r ∨ (2 * r = 2 ^ sh ∧ sh ≠ 0 ∧ q % 2 = 1) then q + 1 else q
  | .random x => if r ≠ 0 ∧ x < r * 65536 / 2 ^ sh then q + 1 else q
  | .trunc => q

/-- A binary format: fraction bits, bias, the largest finite magnitude code, and whether it has infinity (R61). The
code of a magnitude is its exponent field above its fraction field. -/
structure Bin where
  mb : Nat
  bias : Int
  maxMag : Nat
  hasInf : Bool
deriving DecidableEq, Repr

/-- FP32. -/
def binFp32 : Bin := ⟨23, 127, 0x7f7fffff, true⟩
/-- The sum-of-squares range of R213: FP32 with an 11-bit exponent. -/
def binExt : Bin := ⟨23, 1023, 0x3ff7fffff, true⟩
/-- FP64. -/
def binFp64 : Bin := ⟨52, 1023, 0x7fefffffffffffff, true⟩
/-- BF16. -/
def binBf16 : Bin := ⟨7, 127, 0x7f7f, true⟩
/-- FP16. -/
def binFp16 : Bin := ⟨10, 15, 0x7bff, true⟩
/-- E5M2. -/
def binE5m2 : Bin := ⟨2, 15, 0x7b, true⟩
/-- E4M3. -/
def binE4m3 : Bin := ⟨3, 7, 0x7e, false⟩
/-- E3M2. -/
def binE3m2 : Bin := ⟨2, 3, 0x1f, false⟩
/-- E2M3. -/
def binE2m3 : Bin := ⟨3, 1, 0x1f, false⟩
/-- E2M1. -/
def binE2m1 : Bin := ⟨1, 1, 0x7, false⟩

/-- Code of the magnitude m × 2^e rounded in format `b`; it may lie beyond the largest finite code. -/
def Bin.roundMag (b : Bin) (how : Rnd) (m : Nat) (e : Int) : Nat :=
  if m = 0 then 0
  else
    let top : Int := (Nat.log2 m : Int) + e
    let ex : Int := if top < 1 - b.bias then 1 - b.bias else top
    let q : Int := ex - b.mb
    let k := if q ≤ e then m * 2 ^ (e - q).toNat else roundShift how m (q - e).toNat
    (ex + b.bias - 1).toNat * 2 ^ b.mb + k

/-- Value of a finite magnitude code. -/
def Bin.magVal (b : Bin) (neg : Bool) (c : Nat) : Fv :=
  let ef := c / 2 ^ b.mb
  let fr := c % 2 ^ b.mb
  if ef = 0 then .fin neg fr (1 - b.bias - b.mb) else .fin neg (fr + 2 ^ b.mb) ((ef : Int) - b.bias - b.mb)

/-- A value rounded to nearest even in format `b`, with infinity on overflow (R71, R79). -/
def Bin.round (b : Bin) : Fv → Fv
  | .nan => .nan
  | .inf s => .inf s
  | .fin s m e =>
    let c := b.roundMag .even m e
    if b.maxMag < c then .inf s else b.magVal s c

/-- Rounded to FP32. -/
def Fv.r32 (v : Fv) : Fv := binFp32.round v

/-- FP32 addition. -/
def fadd (a b : Fv) : Fv := (a.addX b).r32
/-- FP32 subtraction. -/
def fsub (a b : Fv) : Fv := fadd a b.neg
/-- FP32 multiplication. -/
def fmul (a b : Fv) : Fv := (a.mulX b).r32
/-- FP32 fused multiply-add, one rounding. -/
def ffma (a b c : Fv) : Fv := ((a.mulX b).addX c).r32

/-- A quotient with enough bits, and a sticky one, to round once in a format of at most 53 bits. -/
def Fv.divX : Fv → Fv → Fv
  | .nan, _ => .nan
  | _, .nan => .nan
  | .inf _, .inf _ => .nan
  | .inf s, .fin t _ _ => .inf (s != t)
  | .fin s _ _, .inf t => .fin (s != t) 0 0
  | .fin s m e, .fin t n f =>
    if n = 0 then (if m = 0 then .nan else .inf (s != t))
    else if m = 0 then .fin (s != t) 0 0
    else
      let sh := 64 + Nat.log2 n
      let q := m * 2 ^ sh / n
      let r := m * 2 ^ sh % n
      .fin (s != t) (2 * q + if r = 0 then 0 else 1) (e - f - sh - 1)

/-- FP32 division, one rounding. -/
def fdiv (a b : Fv) : Fv := (a.divX b).r32

/-! ### Element formats (R61 to R67, R127) -/

/-- Kinds of element formats. -/
inductive FKind where
  | bytes
  | flt (b : Bin)
  | int8
  | int32
  | mx (b : Bin) (emax : Int)
  | mxint8
  | scale
  | index
deriving DecidableEq, Repr

/-- A format: its element bits and kind. -/
structure Fmt where
  code : Nat
  bits : Nat
  kind : FKind
deriving DecidableEq, Repr

/-- The format of an FMT code (R127). -/
def fmtOf : Nat → Option Fmt
  | 0x00 => some ⟨0x00, 8, .bytes⟩
  | 0x01 => some ⟨0x01, 32, .flt binFp32⟩
  | 0x02 => some ⟨0x02, 16, .flt binBf16⟩
  | 0x03 => some ⟨0x03, 16, .flt binFp16⟩
  | 0x04 => some ⟨0x04, 8, .flt binE5m2⟩
  | 0x05 => some ⟨0x05, 8, .flt binE4m3⟩
  | 0x06 => some ⟨0x06, 8, .mx binE5m2 15⟩
  | 0x07 => some ⟨0x07, 8, .mx binE4m3 8⟩
  | 0x08 => some ⟨0x08, 6, .mx binE3m2 4⟩
  | 0x09 => some ⟨0x09, 6, .mx binE2m3 2⟩
  | 0x0A => some ⟨0x0A, 4, .mx binE2m1 2⟩
  | 0x0B => some ⟨0x0B, 8, .int8⟩
  | 0x0C => some ⟨0x0C, 8, .mxint8⟩
  | 0x0D => some ⟨0x0D, 32, .int32⟩
  | 0x0E => some ⟨0x0E, 8, .scale⟩
  | 0x0F => some ⟨0x0F, 4, .index⟩
  | 0x10 => some ⟨0x10, 8, .index⟩
  | _ => none

/-- Is it an MX format? -/
def Fmt.isMx (f : Fmt) : Bool := match f.kind with
  | .mx _ _ => true
  | .mxint8 => true
  | _ => false

/-- Has the format a NaN encoding (R61)? -/
def Bin.hasNan (b : Bin) : Bool := b.hasInf || b == binE4m3

/-- Value of an element code of a floating-point format (R61). -/
def Bin.decode (b : Bin) (bits c : Nat) : Fv :=
  let neg := c / 2 ^ (bits - 1) % 2 == 1
  let mag := c % 2 ^ (bits - 1)
  if mag ≤ b.maxMag then b.magVal neg mag
  else if b.hasInf ∧ mag = b.maxMag + 1 then .inf neg
  else .nan

/-- Canonical quiet NaN code (R62). -/
def Bin.nanCode (b : Bin) : Nat := if b.hasInf then b.maxMag + 1 + 2 ^ (b.mb - 1) else b.maxMag + 1

/-- Value of element code `c` under block scale code `sc` (R66, R67); plain formats take no scale. -/
def Fmt.decode (f : Fmt) (c sc : Nat) : Fv :=
  match f.kind with
  | .flt b => b.decode f.bits c
  | .int8 => .ofInt (toSigned 8 c)
  | .int32 => .ofInt (toSigned 32 c)
  | .mx b _ => if sc = 255 then .nan else (b.decode f.bits c).scale ((sc : Int) - 127)
  | .mxint8 => if sc = 255 then .nan else (Fv.ofInt (toSigned 8 c)).scale ((sc : Int) - 133)
  | _ => .ofNat c

/-- A finite value as an integer under a rounding mode (R76). -/
def Fv.toInt (how : Rnd) : Fv → Int
  | .fin s m e =>
    let k : Int := (if 0 ≤ e then m * 2 ^ e.toNat else roundShift how m (-e).toNat : Nat)
    if s then -k else k
  | _ => 0

/-- Conversion to an integer range (R75, R76). -/
def Fv.toRange (how : Rnd) (lo hi : Int) : Fv → Int
  | .nan => 0
  | .inf s => if s then lo else hi
  | v => let i := v.toInt how; if i < lo then lo else if hi < i then hi else i

/-- Element code of value `v` in a floating-point format of `bits` bits (R72, R75). -/
def Bin.encode (b : Bin) (bits : Nat) (sat : Bool) (how : Rnd) (v : Fv) : Nat :=
  let sg := fun (s : Bool) => if s then 2 ^ (bits - 1) else 0
  match v with
  | .nan => if b.hasNan then b.nanCode else 0
  | .inf s => sg s + if b.hasInf ∧ sat = false then b.maxMag + 1 else b.maxMag
  | .fin s m e =>
    if b.maxMag < b.roundMag .even m e then sg s + if b.hasInf ∧ sat = false then b.maxMag + 1 else b.maxMag
    else sg s + Nat.min b.maxMag (b.roundMag how m e)

/-- The FP32 word of a value. -/
def Fv.toW32 (v : Fv) : Nat := binFp32.encode 32 false .even v

/-- The value of an FP32 word. -/
def ofW32 (w : Nat) : Fv := binFp32.decode 32 (w % 2 ^ 32)

/-! ### Stochastic rounding (R72 to R74) -/

/-- The next state of the generator (R74). -/
def nextRng (x : W64) : W64 :=
  let x := x ^^^ (x <<< 13)
  let x := x ^^^ (x >>> 7)
  x ^^^ (x <<< 17)

/-- A generator during one instruction: its state and the elements that have drawn (R74). -/
structure Gen where
  state : W64
  idx : Nat := 0
deriving DecidableEq, Repr

/-- The next 16-bit random value. DEDUCED, log entry 13. -/
def Gen.draw (g : Gen) : Nat × Gen :=
  let st := if g.idx % 4 = 0 then nextRng g.state else g.state
  (bits st.toNat (16 * (g.idx % 4) + 15) (16 * (g.idx % 4)), { state := st, idx := g.idx + 1 })

/-- RND of a descriptor (R121). -/
inductive RndMode where
  | even | stochastic | trunc
deriving DecidableEq, Repr

/-- The rounding of the next element. -/
def RndMode.next (r : RndMode) (g : Gen) : Rnd × Gen :=
  match r with
  | .even => (.even, g)
  | .trunc => (.trunc, g)
  | .stochastic => let d := g.draw; (.random d.1, d.2)

/-! ### Conversion of rows (R68, R75, R141) -/

/-- Element code of a value in a format without block scales. -/
def Fmt.encode1 (f : Fmt) (sat : Bool) (how : Rnd) (v : Fv) : Nat :=
  match f.kind with
  | .flt b => b.encode f.bits sat how v
  | .int8 => ofSigned 8 (v.toRange how (-128) 127)
  | .int32 => ofSigned 32 (v.toRange how (-2147483648) 2147483647)
  | _ => 0

/-- floor(log2 |v|) of a finite non-zero value. -/
def Fv.log2 : Fv → Int
  | .fin _ m e => (Nat.log2 m : Int) + e
  | _ => 0

/-- The largest magnitude of finite values. -/
def maxMag (vs : List Fv) : Fv := vs.foldl (fun a v => if a.lt v.abs then v.abs else a) .zero

/-- The scale code of an MX block over its valid elements (R68). -/
def blockScale (emax : Int) (vs : List Fv) : Nat :=
  if vs.any fun v => !v.finite then 255
  else match maxMag vs with
    | .fin _ 0 _ => 127
    | x =>
      let e := x.log2 - emax
      ((if e < -127 then -127 else if 127 < e then 127 else e) + 127).toNat

/-- Element code inside a block of scale code `sc` (R68). -/
def Fmt.encodeMx (f : Fmt) (sc : Nat) (how : Rnd) (v : Fv) : Nat :=
  match f.kind with
  | .mx b _ => b.encode f.bits true how (v.scale (127 - (sc : Int)))
  | .mxint8 => ofSigned 8 ((v.scale (133 - (sc : Int))).toRange how (-127) 127)
  | _ => 0

/-- Convert elements one by one, each taking its rounding from the generator. -/
def convList (r : RndMode) (enc : Rnd → Fv → Nat) : List Fv → Gen → List Nat × Gen
  | [], g => ([], g)
  | v :: t, g =>
    let d := r.next g
    let u := convList r enc t d.2
    (enc d.1 v :: u.1, u.2)

/-- Cut a list into pieces of at most `n`, for at most `fuel` pieces. -/
def chunks {α : Type} (n : Nat) : Nat → List α → List (List α)
  | 0, _ => []
  | _ + 1, [] => []
  | fuel + 1, l => l.take n :: chunks n fuel (l.drop n)

/-- Convert the blocks of a row: element codes and scale codes (R68). -/
def convBlocks (f : Fmt) (emax : Int) (r : RndMode) : List (List Fv) → Gen → List Nat × List Nat × Gen
  | [], g => ([], [], g)
  | b :: t, g =>
    let sc := blockScale emax b
    let zero := sc == 255 || maxMag b == .fin false 0 0
    let c := convList r (fun how v => if zero then 0 else f.encodeMx sc how v) b g
    let u := convBlocks f emax r t c.2
    (c.1 ++ u.1, sc :: u.2.1, u.2.2)

/-- Convert the valid elements of a row to format `f`: element codes, scale codes, generator (R68, R75). -/
def convRow (f : Fmt) (sat : Bool) (r : RndMode) (vs : List Fv) (g : Gen) : List Nat × List Nat × Gen :=
  match f.kind with
  | .mx _ emax => convBlocks f emax r (chunks 32 (vs.length + 1) vs) g
  | .mxint8 => convBlocks f 0 r (chunks 32 (vs.length + 1) vs) g
  | _ => let c := convList r (f.encode1 sat) vs g; (c.1, [], c.2)

/-- Convert rows in row-major order. -/
def convRows (f : Fmt) (sat : Bool) (r : RndMode) : List (List Fv) → Gen → List (List Nat × List Nat) × Gen
  | [], g => ([], g)
  | v :: t, g =>
    let c := convRow f sat r v g
    let u := convRows f sat r t c.2.2
    ((c.1, c.2.1) :: u.1, u.2)

/-! ### The accumulator and the checksum (R77 to R79, R147) -/

/-- One group of at most 32 products: the exact sum rounded once to FP32 (R77). -/
def groupSum (a b : List Fv) : Fv := (Fv.sumX ((a.zip b).map fun x => x.1.mulX x.2)).r32

/-- A dot product added to an accumulator: groups of 32 along the reduction, each group sum times the block scales, added
with one rounding (R77). Elements carry no scale here; `sc` gives the scale exponent of each group, none for a NaN
scale. -/
def dotAcc : List (List Fv × List Fv) → List (Option Int) → Fv → Fv
  | [], _, acc => acc
  | (a, b) :: t, sc, acc =>
    let g := match sc.headD (some 0) with
      | some k => ((groupSum a b).scale k).r32
      | none => .nan
    dotAcc t (sc.drop 1) (fadd acc g)

/-- The comparison of R147 in one column: |t − r| ≤ τ (g + h). Results that round below FP32's normal range may be off by `tiny` units of
2^−149 more, so that a correct product passes there too (R148). DEDUCED, log entry 66. -/
def ckColumn (t r g h : Fv) (tol tiny : Nat) : Bool :=
  !((t.finite && r.finite && g.finite && h.finite)) ||
    !((((g.addX h).scale (-(8 + tol : Int))).addX (.fin false tiny (-149))).lt (t.addX r.neg).abs)

end Sys2Proof.Machine
end

