-- ==== Sys2Proof/Machine/Adders.lean ====
section
/-! DEFINITION. The memory-side adders of the stack base dies (R271 to R274). -/

namespace Sys2Proof.Machine

/-- Bytes of an element of a type (R271). -/
def dtypeBytes : DType → Nat
  | .bf16 => 2
  | .int64 | .fp64 => 8
  | _ => 4

/-- v + a in a type: FP32 and BF16 with one rounding to nearest even, integers wrapping (R271). FP64 is no type of an
adder; it is summed by the waggles alone (R69). -/
def addCodes (t : DType) (v a : Nat) : Nat :=
  match t with
  | .fp32 => ((binFp32.decode 32 v).addX (binFp32.decode 32 a)).toW32
  | .bf16 => binBf16.encode 16 false .even ((binBf16.decode 16 v).addX (binBf16.decode 16 a))
  | .int32 => (v + a) % 2 ^ 32
  | .int64 => (v + a) % 2 ^ 64
  | .fp64 => v

/-- The byte writes of an adder operation on the unit at `va`: the enabled elements take v + a (R271). -/
def adderWrites (m : Memory) (va : Nat) (t : DType) (mask : BitVec 32) (addends : Bytes) : List BWrite :=
  let n := dtypeBytes t
  (List.range (64 / n)).flatMap fun i =>
    if mask.getLsbD i then
      let a := leNat ((addends.drop (n * i)).take n ++ List.replicate (n - ((addends.drop (n * i)).take n).length) 0#8)
      bwrites (va + n * i) (leBytes n (addCodes t (m.rdLe (va + n * i) n) a))
    else []

/-- What becomes of an adder operation: applied, dropped at a protected block, or dropped at an uncorrectable unit
(R174, R274). -/
inductive AddEnd where
  | applied | guarded | uncorrectable
deriving DecidableEq, Repr

/-- One adder operation on the aligned unit at `va`, whose cache line it invalidates (R273, R274, R280). -/
def State.memAdd (s : State) (p va : Nat) (t : DType) (mask : BitVec 32) (addends : Bytes) : State × AddEnd :=
  let u := va / 64
  let j := (s.pt p).live
  if (j.page (pageOf va)).bad.contains u then (s.meetBad p u, .uncorrectable)
  else
    let r := s.dvWrite p (adderWrites j.dv (u * 64) t mask addends)
    (r.1.dropLine (s.lineOf p (j.page (pageOf va)) u), if r.2.1 then .guarded else .applied)

/-- MEMORY_SIDE_ADD: an operation of an attention stream unit or a link engine reaches the adders. Its issuer's check has
the page pinned for writing; where that check would wait or refuse, the operation is not issued (R272). -/
def memorySideAdd (p va : Nat) (t : DType) (mask : BitVec 32) (addends : Bytes) (s : State) : State :=
  let n := pageOf va
  if t = .fp64 ∨ (s.pt p).inRange [(va, 64)] = false ∨ s.residOf p n true ≠ .pin then s
  else ((s.touchPage p n true).memAdd p va t mask addends).1

/-- R271 to R274. -/
def execMemorySideAdd (p va : Nat) (dtype : DType) (mask : BitVec 32) (addends : Bytes) (s : State) : Res :=
  s.live (memorySideAdd p va dtype mask addends)

end Sys2Proof.Machine
end

