-- ==== Sys2Proof/Machine/Functions.lean ====
section
/-! DEFINITION. The special functions (R207 to R211). The exact result is computed in fixed point with 320 fraction
bits; what the unit's polynomials give is free within the error bound of R208, and the fixed results, saturations and
clamps are those of R210. -/

namespace Sys2Proof.Machine

/-! ### Fixed point -/

/-- Fraction bits. -/
def fxBits : Nat := 320

/-- 1. -/
def fxOne : Int := ((2 ^ fxBits : Nat) : Int)

/-- Product of two fixed-point numbers. -/
def fxMul (a b : Int) : Int := a * b / fxOne

/-- Quotient of two fixed-point numbers. -/
def fxDiv (a b : Int) : Int := if b = 0 then 0 else a * fxOne / b

/-- A finite value in fixed point. -/
def Fv.toFx : Fv → Int
  | .fin s m e =>
    let k := e + fxBits
    let n : Int := (if 0 ≤ k then m * 2 ^ k.toNat else m / 2 ^ (-k).toNat : Nat)
    if s then -n else n
  | _ => 0

/-- A fixed-point number as an exact value. -/
def fxVal (x : Int) : Fv := .fin (decide (x < 0)) x.natAbs (-(fxBits : Int))

/-- t + t·z/(k(k+1))…: the sum of terms, each the one before times `z` over a running denominator `f i`. -/
def fxSeries (f : Nat → Int) (z : Int) : Nat → Nat → Int → Int
  | 0, _, _ => 0
  | n + 1, i, t => t + fxSeries f z n (i + 1) (fxMul t z / f i)

/-- Σ t z^i / (2i + 1). -/
def fxOdd (z : Int) : Nat → Nat → Int → Int
  | 0, _, _ => 0
  | n + 1, i, t => t / ((2 * i + 1 : Nat) : Int) + fxOdd z n (i + 1) (fxMul t z)

/-- atanh z for 0 ≤ z ≤ 1/3. -/
def fxAtanh (z : Int) : Int := fxOdd (fxMul z z) 110 0 z

/-- atan (1/n). -/
def fxAtanInv (n : Int) : Int := fxOdd (-(fxOne / (n * n))) 75 0 (fxOne / n)

/-- ln 2. -/
def fxLn2 : Int := 2 * fxAtanh (fxOne / 3)

/-- π. -/
def fxPi : Int := 16 * fxAtanInv 5 - 4 * fxAtanInv 239

/-- Integer square root by Newton's method from above. -/
def isqrtFrom (n : Nat) : Nat → Nat → Nat
  | 0, x => x
  | fuel + 1, x => let y := (x + n / x) / 2; if x ≤ y then x else isqrtFrom n fuel y

/-- The integer square root. -/
def isqrt (n : Nat) : Nat := if n = 0 then 0 else isqrtFrom n 1200 (2 ^ (Nat.log2 n / 2 + 1))

/-- Square root of a fixed-point number that is not negative. -/
def fxSqrt (x : Int) : Int := (isqrt (x.toNat * 2 ^ fxBits) : Nat)

/-- e^t. -/
def fxExp (t : Int) : Int :=
  let n := t / fxLn2
  let r := t - n * fxLn2
  let y := fxSeries (fun i => ((i + 1 : Nat) : Int)) r 75 0 fxOne
  if 0 ≤ n then y * ((2 ^ n.toNat : Nat) : Int) else y / ((2 ^ (-n).toNat : Nat) : Int)

/-- ln y for y > 0. -/
def fxLn (y : Int) : Int :=
  let k : Int := (Nat.log2 y.toNat : Int) - fxBits
  let m := if 0 ≤ k then y / ((2 ^ k.toNat : Nat) : Int) else y * ((2 ^ (-k).toNat : Nat) : Int)
  k * fxLn2 + 2 * fxAtanh (fxDiv (m - fxOne) (m + fxOne))

/-- Σ t z^i / (i! (2i + 1)). -/
def fxErfSum (z : Int) : Nat → Nat → Int → Int
  | 0, _, _ => 0
  | n + 1, i, t => t / ((2 * i + 1 : Nat) : Int) + fxErfSum z n (i + 1) (fxMul t z / ((i + 1 : Nat) : Int))

/-- erf x for |x| < 5. -/
def fxErf (x : Int) : Int := fxDiv (2 * fxErfSum (-(fxMul x x)) 170 0 x) (fxSqrt fxPi)

/-- The reduction of an angle into [−π, π] (R208). -/
def fxReduce (x : Int) : Int :=
  let p := 2 * fxPi
  x - (x + fxPi) / p * p

/-- sin r. -/
def fxSin (r : Int) : Int := fxSeries (fun i => (((2 * i + 2) * (2 * i + 3) : Nat) : Int)) (-(fxMul r r)) 60 0 r

/-- cos r. -/
def fxCos (r : Int) : Int := fxSeries (fun i => (((2 * i + 1) * (2 * i + 2) : Nat) : Int)) (-(fxMul r r)) 60 0 fxOne

/-! ### The functions (R208) -/

/-- FUNC values of R208. -/
inductive SfuFn where
  | exp | exp2 | ln | log2 | sigmoid | tanh | erf | softplus | sqrt | rsqrt | recip | silu | gelu | sin | cos
deriving DecidableEq, Repr

/-- The FUNC encoding. -/
def SfuFn.code : SfuFn → Nat
  | .exp => 0 | .exp2 => 1 | .ln => 2 | .log2 => 3 | .sigmoid => 4 | .tanh => 5 | .erf => 6 | .softplus => 7
  | .sqrt => 8 | .rsqrt => 9 | .recip => 10 | .silu => 16 | .gelu => 17 | .sin => 18 | .cos => 19

/-- The exact result in fixed point, for an argument that no rule of R210 fixes. -/
def SfuFn.exact (f : SfuFn) (v : Fv) : Int :=
  let x := v.toFx
  match f with
  | .exp => fxExp x
  | .exp2 => fxExp (fxMul x fxLn2)
  | .ln => fxLn x
  | .log2 => fxDiv (fxLn x) fxLn2
  | .sigmoid => fxDiv fxOne (fxOne + fxExp (-x))
  | .tanh => let e := fxExp (2 * x); fxDiv (e - fxOne) (e + fxOne)
  | .erf => fxErf x
  | .softplus => fxLn (fxOne + fxExp x)
  | .sqrt => fxSqrt x
  | .rsqrt => fxDiv fxOne (fxSqrt x)
  | .recip => fxDiv fxOne x
  | .silu => fxDiv x (fxOne + fxExp (-x))
  | .gelu => fxMul x (fxOne + fxErf (fxDiv x (fxSqrt (2 * fxOne)))) / 2
  | .sin => fxSin (fxReduce x)
  | .cos => fxCos (fxReduce x)

/-- One unit in the last place of an exact result in FP32, in fixed point; 2^−149 in the subnormal range (R208). -/
def fxUlp (y : Int) : Int :=
  let top : Int := (Nat.log2 y.natAbs : Int) - fxBits
  let q := if top - 23 < -149 then -149 else top - 23
  ((2 ^ (q + fxBits).toNat : Nat) : Int)

/-- 2^−k in fixed point. -/
def fxPow (k : Nat) : Int := ((2 ^ (fxBits - k) : Nat) : Int)

/-- The error bound of a function at an argument, in fixed point (R208). -/
def SfuFn.bound (f : SfuFn) (x y : Int) : Int :=
  let inside := decide (fxOne / 2 ≤ x) && decide (x < 2 * fxOne)
  match f with
  | .ln => if inside then fxPow 28 else 2 * fxUlp y
  | .log2 => if inside then fxPow 27 else 2 * fxUlp y
  | .sqrt => fxUlp y
  | .silu => 3 * fxUlp y
  | .gelu => if -fxOne ≤ x then 3 * fxUlp y else fxPow 24
  | .sin => fxPow 22
  | .cos => fxPow 22
  | _ => 2 * fxUlp y

/-- A free value where it meets the bound, else the exact result rounded to FP32, which meets it. -/
def within (free : Fv) (y b : Int) : Fv :=
  if free.finite ∧ (free.toFx - y).natAbs ≤ b.toNat then free else (fxVal y).r32

/-- Clamp to a range (R210). -/
def clampFv (lo hi : Fv) (v : Fv) : Fv := (v.maxOf lo).minOf hi

/-- The clamp of a function's polynomial results (R210). -/
def SfuFn.clamp (f : SfuFn) (v : Fv) : Fv :=
  match f with
  | .sigmoid => clampFv .zero .one v
  | .tanh => clampFv Fv.one.neg .one v
  | .erf => clampFv Fv.one.neg .one v
  | .exp | .exp2 | .softplus | .sqrt | .rsqrt => v.maxOf .zero
  | _ => v

/-- Is the value at most n / d, or at least? -/
def Fv.leRat (v : Fv) (n : Int) (d : Nat) : Bool := !v.isNan && !((Fv.ofInt n).lt (v.mulX (.ofNat d)))

/-- See `Fv.leRat`. -/
def Fv.geRat (v : Fv) (n : Int) (d : Nat) : Bool := !v.isNan && !((v.mulX (.ofNat d)).lt (Fv.ofInt n))

/-- Is |v| below 2^−k? -/
def Fv.small (v : Fv) (k : Nat) : Bool := v.abs.lt (.fin false 1 (-(k : Int)))

/-- Is it a zero? -/
def Fv.isZero : Fv → Bool
  | .fin _ 0 _ => true
  | _ => false

/-- Sign. -/
def Fv.sign : Fv → Bool
  | .inf s => s
  | .fin s _ _ => s
  | .nan => false

/-- k when the value is exactly 2^k. -/
def Fv.pow2 : Fv → Option Int
  | .fin false m e => if m ≠ 0 ∧ m = 2 ^ Nat.log2 m then some ((Nat.log2 m : Int) + e) else none
  | _ => none

/-- The value as an integer, when it is one. -/
def Fv.asInt (v : Fv) : Option Int :=
  if v.finite ∧ ((Fv.ofInt (v.toInt .trunc)).addX v.neg).isZero then some (v.toInt .trunc) else none

/-- The fixed results of R210; none where the polynomials give the result. -/
def SfuFn.fixed (f : SfuFn) (v : Fv) : Option Fv :=
  if v.isNan then some .nan
  else match f with
  | .exp =>
    if v.isZero then some .one else if v.leRat (-104) 1 then some .zero
    else if v.geRat 887229 10000 then some (.inf false) else none
  | .exp2 =>
    if v.leRat (-150) 1 then some .zero else if v.geRat 128 1 then some (.inf false)
    else match v.asInt with
      | some k => some (.fin false 1 k)
      | none => none
  | .ln =>
    if v.isZero then some .negInf else if v.sign then some .nan else if v = .inf false then some v
    else if v.pow2 = some 0 then some .zero else none
  | .log2 =>
    if v.isZero then some .negInf else if v.sign then some .nan else if v = .inf false then some v
    else match v.pow2 with
      | some k => some (.ofInt k)
      | none => none
  | .sigmoid =>
    if v.leRat (-104) 1 then some .zero else if v.geRat 18 1 then some .one
    else if v.small 24 then some (.fin false 1 (-1)) else none
  | .tanh =>
    if v.leRat (-37) 4 then some Fv.one.neg else if v.geRat 37 4 then some .one else if v.small 12 then some v else none
  | .erf =>
    if v.leRat (-4) 1 then some Fv.one.neg else if v.geRat 4 1 then some .one
    else if v.small 12 then some (fmul v (fxVal (fxDiv (2 * fxOne) (fxSqrt fxPi))).r32) else none
  | .softplus =>
    if v.leRat (-104) 1 then some .zero else if v.geRat 16 1 then some v
    else if v.small 24 then some (fxVal fxLn2).r32 else none
  | .sqrt =>
    if v.isZero then some v else if v.sign then some .nan else if v = .inf false then some v else none
  | .rsqrt =>
    if v.isZero then some (.inf v.sign) else if v.sign then some .nan else if v = .inf false then some .zero else none
  | .recip =>
    if v = .inf v.sign then some (.fin v.sign 0 0) else if (Fv.fin false 1 (-128)).lt v.abs then none else some (.inf v.sign)
  | .silu => if v.leRat (-104) 1 then some (.fin true 0 0) else if v.geRat 18 1 then some v else none
  | .gelu => if v.leRat (-56569) 10000 then some (.fin true 0 0) else if v.geRat 56569 10000 then some v else none
  | .sin =>
    if v.finite = false then some .nan
    else if v.small 12 then some v
    else
      let r := fxVal (fxReduce v.toFx)
      if r.small 12 then some r.r32 else none
  | .cos =>
    if v.finite = false then some .nan
    else
      let r := fxVal (fxReduce v.toFx)
      if r.small 12 then some (Fv.one.addX ((r.mulX r).scale (-1)).neg).r32 else none

/-! ### Seams (R209, R211) -/

/-- FP32 arguments in their order: their magnitude codes, negative below zero. -/
def argIndex (v : Fv) : Int :=
  let c : Int := ((binFp32.encode 31 false .even v.abs : Nat) : Int)
  if v.sign then -c else c

/-- The argument at a place of that order: beyond the largest finite one lies infinity. -/
def argAt (i : Int) : Fv :=
  if 0x7F800000 ≤ i.natAbs then .inf (decide (i < 0)) else binFp32.magVal (decide (i < 0)) i.natAbs

/-- The sub-segment of a segmented variable: its binade, from 2^`low` upward, and its eighth of it (R209). -/
def fxSegment (low y : Int) : Int × Int :=
  let top : Int := (Nat.log2 y.natAbs : Int) - fxBits
  if y = 0 ∨ top < low then (low - 1, 0) else (top, (y.natAbs * 8 / 2 ^ Nat.log2 y.natAbs % 8 : Nat))

/-- The reduction cell and the sub-segment of an argument (R208); none for a function without rules at its seams. -/
def SfuFn.cell (f : SfuFn) (v : Fv) : Option (Int × Int × Int) :=
  let x := v.toFx
  let unit := fun (t : Int) => (t / fxOne, fxSegment (-24) (t % fxOne))
  match f with
  | .exp => some (unit (fxDiv x fxLn2))
  | .exp2 => some (unit x)
  | .ln | .log2 | .sqrt | .rsqrt | .recip => some (0, v.log2, (fxSegment (-149) x).2)
  | .sigmoid | .softplus => some (if v.sign then -1 else 1, fxSegment (-24) x)
  | .tanh | .erf => some (0, fxSegment (-12) x)
  | .silu | .gelu | .sin | .cos => none

/-- What the polynomials give for an argument, when it meets the bound of R208. -/
def SfuFn.freeAt (f : SfuFn) (v : Fv) : Option Fv :=
  let y := f.exact v
  let free := f.clamp (ofW32 (Config.sfu f.code v.toW32).toNat)
  if free.finite ∧ (free.toFx - y).natAbs ≤ (f.bound v.toFx y).toNat then some free else none

/-- The exact result at either side of a seam: where an infinite argument gives a finite one, that is 0. -/
def SfuFn.exactAt (f : SfuFn) (v : Fv) : Int := if v.finite then f.exact v else 0

/-- Do results at adjacent arguments a < b keep the order of R211, and its bound where both are finite? -/
def SfuFn.seamOk (f : SfuFn) (a b ra rb : Fv) : Bool :=
  let back := match f with
    | .rsqrt | .recip => ra.lt rb && !(ra.isZero && rb.isZero)
    | _ => rb.lt ra && !(ra.isZero && rb.isZero)
  let ya := f.exactAt a
  let yb := f.exactAt b
  !back && (!(ra.finite && rb.finite) ||
    decide ((rb.toFx - ra.toFx).natAbs ≤ (yb - ya).natAbs + Nat.max (fxUlp ya).toNat (fxUlp yb).toNat))

/-- The conforming choice at one side of an argument: as long as the next argument lies across a seam, the free results of both meet the
rule there; `i` is the argument's place and `d` the direction (R211). -/
def SfuFn.chainOk (f : SfuFn) (i d : Int) (r : Fv) : Nat → Bool
  | 0 => true
  | fuel + 1 =>
    let a := argAt i
    let b := argAt (i + d)
    let pair := fun (rb : Fv) => if d < 0 then f.seamOk b a rb r else f.seamOk a b r rb
    match f.fixed b with
    | some rb => pair rb
    | none =>
      if f.cell a = f.cell b then true
      else match f.freeAt b with
        | some rb => pair rb && f.chainOk (i + d) d rb fuel
        | none => false

/-- The result for an argument that no rule of R210 fixes: the free one where it, and those it shares seams with, meet the bounds and the
rules at the seams, else the exact result rounded to FP32, which meets them (R208, R211). DESIGN CHOICE, log entry 35. -/
def SfuFn.poly (f : SfuFn) (v : Fv) : Fv :=
  let exact := f.clamp (fxVal (f.exact v)).r32
  match f.freeAt v with
  | none => exact
  | some r =>
    if (f.cell v).isNone ∨ (f.chainOk (argIndex v) 1 r 4096 ∧ f.chainOk (argIndex v) (-1) r 4096) then r else exact

/-- The FP32 result of a special function for an FP32 argument (R208, R210). SILU is SIGMOID and one multiply, within 3 ulp; TANH and ERF
are odd. -/
def SfuFn.eval (f : SfuFn) (v : Fv) : Fv :=
  match f.fixed v with
  | some r => r
  | none =>
    match f with
    | .silu =>
      let y := f.exact v
      within (fmul v (match SfuFn.sigmoid.fixed v with
        | some r => r
        | none => SfuFn.sigmoid.poly v)) y (f.bound v.toFx y)
    | .tanh | .erf => if v.sign then (f.poly v.neg).neg else f.poly v
    | _ => f.poly v

/-- RSQRT of a mean square in the extended range of R213, with the bound of R208; its result keeps that range too. DESIGN CHOICE, log
entry 176. -/
def rsqrtExt (v : Fv) : Fv :=
  match SfuFn.rsqrt.fixed v with
  | some r => r
  | none => match v with
    | .fin _ m e =>
      -- 1/√(m 2^e), with e made even and the root taken of m alone
      let odd := e % 2
      let root := fxSqrt (Fv.toFx (.fin false (if odd = 0 then m else 2 * m) 0))
      let y := fxDiv (fxOne * fxOne) root
      let back : Int := -((if odd = 0 then e else e - 1) / 2) - 2 * fxBits
      let free := ofW32 (Config.sfu 0x19 (binExt.roundMag .even m e)).toNat
      let exact : Fv := .fin false y.toNat back
      let ulp : Fv := .fin false 2 (exact.log2 - 23)
      if free.finite ∧ !(ulp.lt (free.addX exact.neg).abs) then free else exact.r32
    | _ => .nan

end Sys2Proof.Machine
end

