-- ==== Sys2Proof/Machine/Hart.lean ====
section
/-! DEFINITION. The hart of a dispatcher as the manuals that R100 names define it: traps and their return, physical memory
protection, the address map and the accesses that it stops (R100 to R102, R104). PRESUMED, log entry 144. -/

namespace Sys2Proof.Machine

/-! ### Traps (R100, R102, R104) -/

/-- Exception causes of the Privileged Architecture. -/
def Cause.fetchAccess : Nat := 1
/-- See `Cause.fetchAccess`. -/
def Cause.illegal : Nat := 2
/-- See `Cause.fetchAccess`. -/
def Cause.breakpoint : Nat := 3
/-- See `Cause.fetchAccess`. -/
def Cause.loadMisaligned : Nat := 4
/-- See `Cause.fetchAccess`. -/
def Cause.loadAccess : Nat := 5
/-- See `Cause.fetchAccess`. -/
def Cause.storeMisaligned : Nat := 6
/-- See `Cause.fetchAccess`. -/
def Cause.storeAccess : Nat := 7
/-- See `Cause.fetchAccess`. -/
def Cause.ecallU : Nat := 8
/-- See `Cause.fetchAccess`. -/
def Cause.ecallM : Nat := 11

/-- The handler's address: BASE of mtvec, with four bytes for each cause of an interrupt when MODE is vectored. -/
def Disp.handler (x : Disp) (irq : Bool) (cause : Nat) : W64 :=
  let base := x.mtvec.toNat / 4 * 4
  BitVec.ofNat 64 (if irq ∧ x.mtvec.toNat % 4 = 1 then base + 4 * cause else base)

/-- A trap into M-mode: mepc, mcause and mtval are written, MPIE and MPP keep MIE and the mode, MIE is cleared, and the pc goes to the
handler. -/
def Disp.trap (x : Disp) (irq : Bool) (cause : Nat) (tval : Nat) : Disp :=
  let ms := x.mstatus.toNat
  { x with
    mepc := x.pc, mcause := BitVec.ofNat 64 ((if irq then 2 ^ 63 else 0) + cause), mtval := BitVec.ofNat 64 tval,
    mstatus := BitVec.ofNat 64 (setBits (setBits (setBits ms 7 7 (bits ms 3 3)) 3 3 0) 12 11 (if x.umode then 0 else 3)),
    umode := false, pc := x.handler irq cause }

/-- MRET: the mode of MPP and the pc of mepc return, MIE takes MPIE, and MPRV ends when the mode is U. -/
def Disp.mret (x : Disp) : Disp :=
  let ms := if bits x.mstatus.toNat 12 11 = 3 then x.mstatus.toNat else setBits x.mstatus.toNat 17 17 0
  { x with
    pc := x.mepc, umode := bits ms 12 11 != 3,
    mstatus := BitVec.ofNat 64 (setBits (setBits (setBits ms 3 3 (bits ms 7 7)) 7 7 1) 12 11 0) }

/-! ### Physical memory protection (R100, R101) -/

/-- What an access does to memory. -/
inductive MemUse where
  | fetch | load | store
deriving DecidableEq, Repr

/-- Trailing ones of a PMP address, which give the size of a naturally aligned range. -/
def trailingOnes (v : Nat) : Nat → Nat
  | 0 => 0
  | fuel + 1 => if v % 2 = 1 then 1 + trailingOnes (v / 2) fuel else 0

/-- The range of PMP entry `i`: its first byte and the byte after its last. -/
def Disp.pmpRange (x : Disp) (i : Nat) : Nat × Nat :=
  let a := (Tbl.get 0 x.pmpaddr i).toNat
  match bits (Tbl.get 0 x.pmpcfg i).toNat 4 3 with
  | 0 => (0, 0)
  | 1 => (if i = 0 then 0 else (Tbl.get 0 x.pmpaddr (i - 1)).toNat * 4, a * 4)
  | 2 => (a * 4, a * 4 + 4)
  | _ =>
    let n := trailingOnes a 54
    (a / 2 ^ (n + 1) * 2 ^ (n + 1) * 4, (a / 2 ^ (n + 1) + 1) * 2 ^ (n + 1) * 4)

/-- The lowest entry that matches a byte of the access. -/
def Disp.pmpEntry (x : Disp) (a w : Nat) : Option Nat :=
  (List.range 16).find? fun i => decide ((x.pmpRange i).1 < a + w) && decide (a < (x.pmpRange i).2)

/-- Is an access made as U-mode makes it: in U-mode, or a load or store while MPRV takes the mode of MPP? -/
def Disp.userFor (x : Disp) (k : MemUse) : Bool :=
  if k ≠ .fetch ∧ bits x.mstatus.toNat 17 17 = 1 then bits x.mstatus.toNat 12 11 != 3 else x.umode

/-- Do the PMP entries allow the access? In M-mode only a locked entry refuses; U-mode needs an entry that covers the whole access. -/
def Disp.pmpAllows (x : Disp) (a w : Nat) (k : MemUse) : Bool :=
  match x.pmpEntry a w with
  | none => !x.userFor k
  | some i =>
    let c := (Tbl.get 0 x.pmpcfg i).toNat
    let whole := decide ((x.pmpRange i).1 ≤ a) && decide (a + w ≤ (x.pmpRange i).2)
    let perm := match k with
      | .load => bits c 0 0
      | .store => bits c 1 1
      | .fetch => bits c 2 2
    whole && (perm == 1 || (!x.userFor k && bits c 7 7 == 0))

/-! ### The address map (R101, R102) -/

/-- What lies at a hart address. -/
inductive Where where
  | dlm (off : Nat)
  | slm (off : Nat)
  | nothing
deriving DecidableEq, Repr

/-- The address map: local memory, the scratchpad window up to the partition's configured size, and nothing else (R101, R102). -/
def State.hartMap (s : State) (p a w : Nat) : Where :=
  if a + w ≤ 0x40000 then .dlm a
  else if slmWindow ≤ a ∧ a + w ≤ slmWindow + s.scratchSize p then .slm (a - slmWindow)
  else .nothing

/-- Where an access of hart Dd goes; none is an access fault (R102). -/
def State.hartWhere (s : State) (d a w : Nat) (k : MemUse) : Option Where :=
  if (s.disp d).pmpAllows a w k = false then none
  else match s.hartMap (s.dispPos d).1 a w with
    | .nothing => none
    | x => some x

/-- The exception of an access that is stopped. -/
def MemUse.cause : MemUse → Nat
  | .fetch => Cause.fetchAccess
  | .load => Cause.loadAccess
  | .store => Cause.storeAccess

/-- Scratchpad words that an access of `w` bytes at offset `off` touches and that read uncorrectable. -/
def State.slmBadAt (s : State) (p off w : Nat) : List Nat := rangeBad 8 (s.pt p).live.slmBad [(off, w)]

/-- A load's value as the hart's register holds it: sign-extended, or zero-extended. -/
def extend (w : Nat) (sign : Bool) (v : Nat) : Nat :=
  if sign ∧ w < 8 then ofSigned 64 (toSigned (8 * w) v) else v

end Sys2Proof.Machine
end

