-- ==== Sys2Proof/Machine/Events.lean ====
section
/-! DEFINITION. The commands of the event controllers: host event queues and local interfaces (R361 to R370). -/

namespace Sys2Proof.Machine

/-- The message of queue `q` goes out: U returns to 0 and the timer is disarmed (R367). -/
def State.evSignal (s : State) (fn q : Nat) : State :=
  (s.upEvQ fn q fun x => { x with u := 0, due := none }).msix fn q

/-- May the function write host memory: its Bus Master Enable has been set since the last conventional reset (R321), and it is in D0? -/
def State.busMaster (s : State) (fn : Nat) : Bool :=
  if fn = 0 then s.mgmt.busMaster && !s.d3hot 0 else (s.pt (fn - 1)).busMaster && s.tdiOpen fn

/-- PF0 writes host memory, now or, while its Bus Master Enable is clear, once it is set (R321). -/
def State.postHost (s : State) (addr : Nat) (bs : Bytes) : State :=
  if s.busMaster 0 then s.emit (.hostWrite 0 addr bs) else { s with mgmt := { s.mgmt with posted := s.mgmt.posted ++ [(addr, bs)] } }

/-- Bus Master Enable of function `fn` takes value `b`; what PF0 has held back goes out (R321). -/
def State.setMaster (s : State) (fn : Nat) (b : Bool) : State :=
  if fn ≠ 0 then s.upPt (fn - 1) fun q => { q with busMaster := b }
  else
    let s := { s with mgmt := { s.mgmt with busMaster := b } }
    if s.busMaster 0 then
      s.mgmt.posted.foldl (fun s w => s.emit (.hostWrite 0 w.1 w.2)) { s with mgmt := { s.mgmt with posted := [] } }
    else s

/-- The 32 bytes of event record `r` in slot count `w` (R364). -/
def EvRec.bytes (r : EvRec) (w log2 : Nat) (lost : Bool) : Bytes :=
  leBytes 8 r.beat ++ leBytes 8 r.d0 ++ leBytes 8 r.d1 ++
    leBytes 8 ((w / 2 ^ log2 + 1) % 2 * 2 ^ 63 + (if lost then 2 ^ 62 else 0) + r.count * 2 ^ 32 + r.status * 2 ^ 16 + r.ev)

/-- Has the queue room for one more record, as far as the head word is known (R365)? -/
def State.evRoom (s : State) (fn q : Nat) : Bool :=
  decide (((s.evQ fn q).written + 2 ^ 64 - (s.evQ fn q).head) % 2 ^ 64 < 2 ^ bits (s.evCfg fn q) 36 32)

/-- Does function `fn` act towards the host: PF0 does, and a partition function unless it is ABSENT (R309)? -/
def State.hasHost (s : State) (fn : Nat) : Bool := fn == 0 || s.present (fn - 1)

/-- EVENT_RECORD_WRITE: the oldest waiting record of the queue is written when the queue has room; a queue without room is FULL, and reads
the head word again. `head` is the head word as read, none on a read error (R309, R365 to R367). -/
def eventRecordWrite (fn q : Nat) (head : Option W64) (s : State) : State :=
  let cfg := s.evCfg fn q
  let x := s.evQ fn q
  let h := (head.map (·.toNat)).getD x.head
  let entries := 2 ^ bits cfg 36 32
  match s.evOn fn q && s.busMaster fn && s.hasHost fn, x.waiting with
  | true, r :: rest =>
    let base := if fn = 0 then s.rd rEvtPf0QBase 0 (q - 1) else s.rd rEvtQBase fn q
    if (x.written + 2 ^ 64 - h) % 2 ^ 64 < entries then
      let s := s.emit (.hostWrite fn (base + 32 * (x.written % entries)) (r.bytes x.written (bits cfg 36 32) x.lostNext))
      let u := x.u + 1
      let s := s.upEvQ fn q fun x =>
        { x with waiting := rest, written := (x.written + 1) % 2 ^ 64, head := h, u := u, lostNext := false,
                 due := if u = 1 then some ((s.mgmt.beat + x.time) % 2 ^ 64) else x.due }
      let s := s.setEvStatus fn q 1 0 (if s.evRoom fn q then 1 else 2)
      if x.count ≤ u then s.evSignal fn q else s
    else (s.upEvQ fn q fun x => { x with head := h }).setEvStatus fn q 1 0 2
  | true, [] =>
    if s.evStatus fn q 1 0 = 2 then
      let s := s.upEvQ fn q fun x => { x with head := h }
      s.setEvStatus fn q 1 0 (if s.evRoom fn q then 1 else 2)
    else s
  | false, _ => s

/-- R365. -/
def execEventRecordWrite (fn q : Nat) (head : Option W64) (s : State) : Res := s.live (eventRecordWrite fn q head)

/-- COALESCING_TIMER: the boundary that ended the timer's beat has passed, and the message goes out (R367). -/
def execCoalescingTimer (fn q : Nat) (s : State) : Res :=
  s.live fun s => match (s.evQ fn q).due with
    | some b => if s.past b ∧ s.hasHost fn then s.evSignal fn q else s
    | none => s

/-- Configuration register of the queue takes value `v`. -/
def State.setEvCfg (s : State) (fn q v : Nat) : State :=
  if fn = 0 then s.wr rEvtPf0QCfg 0 (q - 1) v else s.wr rEvtQCfg fn q v

/-- COUNT and TIME of an enabled queue are rewritten; a COUNT of 0 is ignored (R362). -/
def State.setCoalescing (s : State) (fn q v : Nat) : State :=
  let s := s.setEvCfg fn q (setBits (s.evCfg fn q) 15 0 (bits v 15 0))
  if bits v 23 16 = 0 then s else s.setEvCfg fn q (setBits (s.evCfg fn q) 23 16 (bits v 23 16))

/-- EVT_Qq_CFG is written: enable, disable, or new COUNT and TIME (R362). -/
def evtQCfgWrite (fn q : Nat) (v : Nat) (s : State) : State :=
  if evqExists fn q = false ∨ 4 < fn ∨ (fn ≠ 0 ∧ s.funcState (fn - 1) = .absent) ∨ s.tdiOpen fn = false then s
  else
    let on := s.evOn fn q
    let log2 := bits v 36 32
    let keep := bits v 23 0 + log2 * 2 ^ 32
    let resetting := fn ≠ 0 ∧ s.funcState (fn - 1) = .resetting
    if bits v 63 63 = 1 then
      if on = false ∧ (log2 < 6 ∨ 16 < log2 ∨ bits v 23 16 = 0) then s.setEvStatus fn q 31 16 Code.invalidOperand
      else if resetting then s.setEvStatus fn q 31 16 Code.resourceHeld
      else if on then (s.setCoalescing fn q v).setEvStatus fn q 31 16 Code.done
      else
        let s := s.setEvCfg fn q (keep + 2 ^ 63)
        let s := s.upEvQ fn q fun x => { x with written := 0, head := 0, u := 0, due := none, waiting := [],
                                                count := bits v 23 16, time := bits v 15 0 }
        (s.setEvStatus fn q 31 16 Code.done).setEvStatus fn q 1 0 1
    else
      let s := if on then let s := s.setCoalescing fn q v; s.setEvCfg fn q (setBits (s.evCfg fn q) 63 63 0) else s.setEvCfg fn q keep
      let s := s.upEvQ fn q fun x => { x with waiting := [], due := none, u := 0 }
      (s.setEvStatus fn q 31 16 Code.done).setEvStatus fn q 1 0 0

/-- R362. -/
def execEvtQCfgWrite (fn q : Nat) (v : W64) (s : State) : Res :=
  s.live fun s => evtQCfgWrite fn q v.toNat (if fn = 0 then s.unstage rEvtPf0QCfg 0 (q - 1) else s.unstage rEvtQCfg fn q)

/-- Step 2 of a boundary: every coalescing timer whose beat has ended sends its message (R43, R367). -/
def State.coalesce (s : State) : State :=
  s.evq.foldl (fun s (e : Nat × EvQ) =>
    if (e.2.due.map s.past).getD false && s.hasHost (e.1 / 128) then s.evSignal (e.1 / 128) (e.1 % 128) else s) s

/-- At a boundary, COUNT and TIME rewritten during the beat come into force (R362). -/
def State.evBoundary (s : State) : State :=
  { s with evq := s.evq.map fun e =>
      let cfg := s.evCfg (e.1 / 128) (e.1 % 128)
      (e.1, { e.2 with count := bits cfg 23 16, time := bits cfg 15 0 }) }

/-! ### Claim and complete (R368 to R370) -/

/-- PRI of event `e` at processor `q` (R368). -/
def State.pri (s : State) (q e : Nat) : Nat := s.fld rEvtLclPri (16 + q) e 7 0

/-- The more urgent of two events: lower PRI, then lower number. With PRI ordered as a number, group comes first and
sub-priority next (R368). -/
def State.moreUrgent (s : State) (q a b : Nat) : Nat :=
  if s.pri q a < s.pri q b ∨ (s.pri q a = s.pri q b ∧ a < b) then a else b

/-- The most urgent pending event of a list; 4,095 when there is none (R369). -/
def State.mostUrgent (s : State) (q : Nat) : List Nat → Nat
  | [] => 4095
  | e :: t => t.foldl (s.moreUrgent q) e

/-- The processor's level: the group of its most recently claimed active event (R368). -/
def State.lclLevel (s : State) (q : Nat) : Option Nat :=
  (s.lclOf q).active.head?.map fun e => s.pri q e / 2 ^ s.fld rEvtLclCtrl (16 + q) 0 3 0

/-- Is the interrupt input asserted: by a pending event that is enabled (R368)? -/
def State.lclIrq (s : State) (q : Nat) : Bool :=
  (s.lclOf q).pend.any fun e => s.fld rEvtLclPri (16 + q) e 8 8 == 1 &&
    match s.lclLevel q with
    | none => true
    | some g => decide (s.pri q e / 2 ^ s.fld rEvtLclCtrl (16 + q) 0 3 0 < g)

/-- EVT_LCL_CLAIM is read: the most urgent pending event becomes active; the register holds what the read returned
(R369). -/
def evtLclClaim (q : Nat) (s : State) : State :=
  if 10 ≤ q then s
  else
    let l := s.lclOf q
    let e := s.mostUrgent q l.pend
    let pri := if e = 4095 then 0 else s.pri q e
    let s := s.wr rEvtLclClaim (16 + q) 0 (pri * 65536 + e)
    let s := s.emit (.readData (16 + q) 8 4 (BitVec.ofNat 64 (pri * 65536 + e)))
    if e = 4095 then s
    else { s with lcl := Tbl.put s.lcl q { pend := l.pend.filter (· ≠ e), raised := l.raised.filter (·.1 ≠ e),
                                           active := e :: l.active.filter (· ≠ e) } }

/-- R369. -/
def execEvtLclClaim (q : Nat) (s : State) : Res := s.live (evtLclClaim q)

/-- EVT_LCL_COMPLETE is written with `e`: an active event is idle again, or pending if it was raised meanwhile; any
other number is ignored (R369). -/
def evtLclComplete (q e : Nat) (s : State) : State :=
  let l := s.lclOf q
  { s with lcl := Tbl.put s.lcl q { l with active := l.active.filter (· ≠ e) } }

/-- R369. -/
def execEvtLclComplete (q e : Nat) (s : State) : Res :=
  s.live fun s => if e ∈ (s.lclOf q).active then evtLclComplete q e s else s

/-- HOLDUP, THERMAL, POWER_BRAKE and RESIDENCY_STALL (R370). -/
def levelSource (e : Nat) : Bool := e == 0x021 || e == 0x040 || e == 0x042 || e == 0x113

/-- The condition of a level source ends before its pending request is claimed: the request is withdrawn (R370). -/
def State.withdraw (s : State) (q e : Nat) : State :=
  if levelSource e ∧ e ∈ (s.lclOf q).pend then
    { s with lcl := Tbl.put s.lcl q { s.lclOf q with pend := (s.lclOf q).pend.filter (· ≠ e), raised := (s.lclOf q).raised.filter (·.1 ≠ e) } }
  else s

/-- STATE of a sensor: normal, throttle, trip or WARNING (R543, R546). -/
def State.tempState (s : State) (x : Nat) : Nat := s.fld rPwrTemp 0 x 17 16

/-- Does any sensor throttle, trip or warn (R547)? -/
def State.hotAny (s : State) : Bool := (List.range 96).any fun x => s.tempState x != 0

/-- Does the condition that level source `e` reports stand: hold-up not good, a sensor throttling or in WARNING, the brake applied, a residency
check of some partition waiting (R370)? -/
def State.levelOn (s : State) (e : Nat) : Bool :=
  if e = 0x021 then decide (2 ≤ s.fld rStoHoldup 0 0 1 0)
  else if e = 0x040 then s.hotAny
  else if e = 0x042 then s.fld rPwrStatus 0 0 15 15 == 1
  else if e = 0x113 then s.ptn.any fun x => x.2.live.cores.any fun c => c.2.stalled
  else false

/-- LEVEL_WITHDRAW: a request whose condition has ended (R370). -/
def execLevelWithdraw (q e : Nat) (s : State) : Res := s.live fun s => if s.levelOn e then s else s.withdraw q e

end Sys2Proof.Machine
end

