-- ==== Sys2Proof/Machine/Rings.lean ====
section
/-! DEFINITION. Rings, doorbells, the headgate, acceptance, starting and completing (R326 to R338). -/

namespace Sys2Proof.Machine

/-- Does the submission ring still have discard completions to write (R322)? They are those that have no slot yet (R338). -/
def Ptn.discards (q : Ptn) (n : Nat) : Bool := q.journal.any fun e => e.sq == n && e.slot.isNone

/-- Acceptance is stopped because the hold-up state is Insufficient (R305). -/
def State.holdupStop (s : State) : Bool := s.fld rStoHoldup 0 0 1 0 == 3

/-- Has IN_FLIGHT, with the records awaiting acknowledgement, reached LIMIT (R333)? -/
def State.acceptFull (s : State) (p : Nat) : Bool :=
  decide (s.limit ≤ (s.pt p).inFlight + (s.pt p).awaitingAll)

/-- HOLD of PTN_SQn_STATUS. -/
def State.holdBits (s : State) (p n : Nat) : Nat :=
  (if s.acceptFull p then 1 else 0) + (if s.holdupStop then 2 else 0) + (if (s.pt p).discards n then 4 else 0)

/-- PTN_SQn_STATUS as it reads: a disabled ring with discard completions to write is PENDING, and HOLD says so (R322, R326). -/
def State.sqStatus (s : State) (p n : Nat) : Nat :=
  let v := s.rd rPtnSqStatus (p + 1) n
  if s.sqOn p n then setBits v 11 8 (s.holdBits p n)
  else if (s.pt p).discards n then setBits (setBits v 2 0 3) 11 8 4
  else v

/-- Set the submission ring's STATE and ERROR; becoming STALLED raises RING_ERROR (R332, R333, R359). -/
def State.stallSq (s : State) (p n err : Nat) : State :=
  let s := (s.setFld rPtnSqStatus (p + 1) n 2 0 2).setFld rPtnSqStatus (p + 1) n 7 4 err
  s.raiseP p 0x101 n (s.sqStatus p n)

/-- Is the partition's function able to enable rings (R25, R327)? -/
def State.ringHeld (s : State) (p : Nat) : Bool :=
  s.funcState p == .resetting || s.funcState p == .discarding || s.shapeBusy

/-- PTN_SQn_CFG is written (R326, R327). A ring that is enabled has its shadow area written afresh (R334). -/
def ptnSqCfgWrite (p n v : Nat) (s : State) : State :=
  if 64 ≤ n ∨ s.funcState p = .absent ∨ s.tdiOpen (p + 1) = false then s
  else
    let res := fun (c : Nat) (s : State) => s.setFld rPtnSqStatus (p + 1) n 31 16 c
    if bits v 31 31 = 1 then
      let cfg := if s.sqOn p n then s.rd rPtnSqCfg (p + 1) n else v
      let log2 := bits cfg 4 0
      let cq := bits cfg 21 16
      let base := bits (s.rd rPtnSqBase (p + 1) n) 63 12
      let same := (List.range 64).any fun m => m != n && s.sqOn p m && bits (s.rd rPtnSqBase (p + 1) m) 63 12 == base
      if log2 < 6 ∨ 16 < log2 ∨ s.cqOn p cq = false ∨ same then res Code.invalidOperand s
      else if s.ringHeld p then res Code.resourceHeld s
      else if s.sqOn p n then res Code.done s
      else
        let s := s.wr rPtnSqCfg (p + 1) n (bits v 31 30 * 2 ^ 30 + cq * 65536 + log2)
        let s := (s.setFld rPtnSqStatus (p + 1) n 2 0 1).setFld rPtnSqStatus (p + 1) n 7 4 0
        res Code.done (s.upSq p n fun x => { x with target := BitVec.ofNat 64 (s.accepted p n), shadow := [], shadowed := true })
    else
      let open_ := (s.pt p).descs.any (fun d => d.sq == n && !d.done && d.mode != 2) ||
        (s.pt p).journal.any (fun e => e.sq == n && !e.written && !e.rewrite)
      if open_ then res Code.resourceHeld s
      else if s.sqOn p n then
        res Code.done ((s.setFld rPtnSqCfg (p + 1) n 31 31 0).setFld rPtnSqStatus (p + 1) n 2 0 0)
      else res Code.done (s.wr rPtnSqCfg (p + 1) n (bits v 30 30 * 2 ^ 30 + bits v 21 16 * 65536 + bits v 4 0))

/-- R327. -/
def execPtnSqCfgWrite (p n : Nat) (v : W32) (s : State) : Res := s.live (ptnSqCfgWrite p n v.toNat)

/-- PTN_CQn_CFG is written (R326, R327). -/
def ptnCqCfgWrite (p n v : Nat) (s : State) : State :=
  if 64 ≤ n ∨ s.funcState p = .absent ∨ s.tdiOpen (p + 1) = false then s
  else
    let res := fun (c : Nat) (s : State) => s.setFld rPtnCqStatus (p + 1) n 31 16 c
    if bits v 31 31 = 1 then
      let log2 := if s.cqOn p n then s.fld rPtnCqCfg (p + 1) n 4 0 else bits v 4 0
      if log2 < 6 ∨ 16 < log2 then res Code.invalidOperand s
      else if s.ringHeld p then res Code.resourceHeld s
      else if s.cqOn p n then res Code.done s
      else
        let s := s.wr rPtnCqCfg (p + 1) n (2 ^ 31 + bits v 23 16 * 65536 + log2)
        let s := s.upCq p n fun c => { c with written := 0, given := 0, head := 0 }
        res Code.done (s.setFld rPtnCqStatus (p + 1) n 2 0 1)
    else
      let named := (List.range 64).any fun m =>
        (s.sqOn p m || (s.pt p).discards m) && s.fld rPtnSqCfg (p + 1) m 21 16 == n
      let unwritten := (s.pt p).journal.any fun e => e.slot.isSome && e.cq == n && !e.written
      if s.cqOn p n then
        if named ∨ unwritten then res Code.resourceHeld s
        else res Code.done ((s.setFld rPtnCqCfg (p + 1) n 31 31 0).setFld rPtnCqStatus (p + 1) n 2 0 0)
      else res Code.done (s.wr rPtnCqCfg (p + 1) n (bits v 23 16 * 65536 + bits v 4 0))

/-- R327. -/
def execPtnCqCfgWrite (p n : Nat) (v : W32) (s : State) : Res := s.live (ptnCqCfgWrite p n v.toNat)

/-- Signed difference of two 64-bit counts (R332). -/
def sdiff (a b : Nat) : Int := toSigned 64 ((a + 2 ^ 64 - b % 2 ^ 64) % 2 ^ 64)

/-- A doorbell is written: a write of `width` bytes with value `tail` (R313, R332). -/
def doorbell (p n : Nat) (tail width : Nat) (s : State) : State :=
  if width ≠ 8 ∨ 64 ≤ n ∨ s.shapeBusy ∨ s.funcState p ≠ .ready ∨ s.sqOn p n = false ∨ s.tdiOpen (p + 1) = false then s
  else
    let d := sdiff tail (s.accepted p n)
    let entries : Int := (2 ^ s.fld rPtnSqCfg (p + 1) n 4 0 : Nat)
    if d ≤ 0 then s
    else if entries < d then s.stallSq p n 2
    else
      let s := s.upSq p n fun x => { x with target := BitVec.ofNat 64 tail }
      if s.fld rPtnSqStatus (p + 1) n 2 0 = 2 then
        (s.setFld rPtnSqStatus (p + 1) n 2 0 1).setFld rPtnSqStatus (p + 1) n 7 4 0
      else s

/-- R332. DESIGN CHOICE, log entry 105. -/
def execDoorbell (p n : Nat) (tail : W64) (width : Nat) (s : State) : Res := s.live (doorbell p n tail.toNat width)

/-- The host address of the slot of descriptor `seq`: its number mod the ring's entries (R328, R333). -/
def State.slotAddr (s : State) (p n seq : Nat) : Nat :=
  s.rd rPtnSqBase (p + 1) n + 64 * (seq % 2 ^ s.fld rPtnSqCfg (p + 1) n 4 0)

/-- The headgate reads the slot of the descriptor it expects next and sends its acceptance record (R333). -/
def headgateFetch (p n : Nat) (slot : Option (List W64)) (s : State) : State :=
  let x := (s.pt p).sq n
  let expect := (s.accepted p n + x.awaiting.length) % 2 ^ 64
  if s.funcState p ≠ .ready ∨ s.sqOn p n = false ∨ s.tdiOpen (p + 1) = false ∨ s.fld rPtnSqStatus (p + 1) n 2 0 ≠ 1 ∨ s.holdBits p n ≠ 0 ∨
      256 ≤ x.awaiting.length ∨ 1024 ≤ (s.pt p).awaitingAll ∨ sdiff x.target.toNat expect ≤ 0 then s
  else
    let s := s.emit (.hostRead (p + 1) (s.slotAddr p n expect) 64)
    match slot with
    | none => s.stallSq p n 3
    | some ws =>
      if ws.length ≠ 8 then s
      else if (ws.getD 0 0).toNat ≠ expect then s.stallSq p n 1
      else
        let s := s.upSq p n fun x => { x with awaiting := x.awaiting ++ [ws] }
        s.sendRecord (.accept p n) (ws.map (·.toNat))

/-- R333. -/
def execHeadgateFetch (p n : Nat) (slot : Option (List W64)) (s : State) : Res := s.live (headgateFetch p n slot)

/-- Remove the first occurrence of a record. -/
def dropRec (r : JRec) : List JRec → List JRec
  | [] => []
  | x :: t => if x = r then t else x :: dropRec r t

/-- First accepted descriptor of ring `n` without a completion. -/
def Ptn.ringHead (q : Ptn) (n : Nat) : Option ADesc := q.descs.find? fun d => d.sq == n && !d.done

/-- Is the ring a control ring? -/
def State.ctrlRing (s : State) (p n : Nat) : Bool := s.fld rPtnSqCfg (p + 1) n 30 30 == 1

/-- Completions of the partition whose records the journal buffer has still to acknowledge; they are its newest, and are not
yet durable (R303, R338). A failed store journals nothing, and its completions do not wait (R460). -/
def State.unacked (s : State) (p : Nat) : Nat :=
  if s.canLog then (s.store.records.filter fun r => r == .completion p).length else 0

/-- The journal entries of those completions. -/
def State.unackedOf (s : State) (p : Nat) : List JEntry := (s.pt p).journal.drop ((s.pt p).journal.length - s.unacked p)

/-- Has descriptor `d` completed, so that what follows it may act on that: its record is acknowledged (R304, R336)? DEDUCED, log entry 181. -/
def State.settled (s : State) (p : Nat) (d : ADesc) : Bool :=
  d.done && !(s.unackedOf p).any fun e => e.sq == d.sq && (e.words.getD 0 0).toNat == d.seq

/-- Has every descriptor before `d` that it waits for completed: those of its ring, and with a FENCE every one accepted earlier (R336)? -/
def State.cleared (s : State) (p : Nat) (d : ADesc) (fence : Bool) : Bool :=
  ((s.unackedOf p).all fun e => e.sq != d.sq) && !(fence && (s.pt p).descs.any fun e => e.ord < d.ord && !s.settled p e)

/-- STEPs that become ready to start are numbered in the order in which they do (R336). -/
def State.refreshReady (s : State) (p : Nat) : State :=
  let q := s.pt p
  if q.job ≠ .running then s
  else (List.range 64).foldl (fun s n =>
    match (s.pt p).ringHead n with
    | some d =>
      if d.opcode = 2 ∧ d.start = none ∧ d.ready = 0 ∧ s.cleared p d d.fence then
        s.upPt p fun q => { q.upDesc d.sq d.seq (fun x => { x with ready := q.readyOrd + 1 }) with readyOrd := q.readyOrd + 1 }
      else s
    | none => s) s

/-- An acceptance record of ring `n` is acknowledged: its descriptor is accepted and A advances (R333). DEDUCED, log entry 128. -/
def State.accept (s : State) (p n : Nat) : State :=
  match ((s.pt p).sq n).awaiting with
  | [] => s
  | ws :: rest =>
    let a := s.accepted p n
    let s := s.upSq p n fun x => { x with awaiting := rest }
    let s := s.give rPtnSqNext (p + 1) n ((a + 1) % 2 ^ 64)
    let s := s.upPt p fun q =>
      { q with descs := q.descs ++ [({ sq := n, seq := a, words := ws, ord := q.accOrd } : ADesc)], accOrd := q.accOrd + 1 }
    let s := { s with store := { s.store with records := dropRec (.accept p n) s.store.records,
                                              buffered := s.store.buffered + recordBytes } }
    s.refreshReady p

/-- R333: the acknowledgement of the ring's oldest record awaiting it. -/
def execDescriptorAccepted (p n : Nat) (s : State) : Res :=
  s.live fun s => if s.journalRoom ∧ s.buddyHas (.accept p n) then s.accept p n else s

/-- JOURNAL_RECORD_ACK: the buffer acknowledges the oldest record it has received; from then on it is durable (R303).
A record that a buddy mirrors waits for the buddy's acknowledgement too (R452). An acceptance record's acknowledgement accepts its
descriptor, and after a completion's the descriptors that it held back may be ready. -/
def journalRecordAck (s : State) : State :=
  match s.store.records with
  | [] => s
  | r :: rest =>
    if s.buddyHas r = false then s
    else
      let t := { s with store := { s.store with records := rest, buffered := s.store.buffered + recordBytes } }
      match r with
      | .accept p n => s.accept p n
      | .completion p => t.refreshReady p
      | _ => t

/-- R303. -/
def execJournalRecordAck (s : State) : Res := s.live fun s => if s.canLog ∧ s.journalRoom then journalRecordAck s else s

/-! ### Starting (R328, R329, R336, R342) -/

/-- Are words `from` to 7 all zero? -/
def ADesc.zeroFrom (d : ADesc) (i : Nat) : Bool := (List.range (8 - i)).all fun j => d.w (i + j) == 0

/-- The checks of R329 on fields and rings; those of STEP are R347's, those of CODEC are in R469. -/
def ADesc.wellFormed (d : ADesc) (ctrl : Bool) : Bool :=
  bits (d.w 1) 31 17 == 0 &&
  match d.opcode with
  | 0x01 => !ctrl && d.func == 0 && d.w 2 % 64 == 0 && bits (d.w 3) 63 32 == 0 && bits (d.w 7) 63 32 == 0
  | 0x02 => !ctrl && d.func == 0 && bits (d.w 2) 63 16 == 0 && bits (d.w 5) 31 13 == 0 && d.zeroFrom 6 &&
      d.w 4 % 16 == 0 && bits (d.w 5) 63 32 % 16 == 0 && decide (bits (d.w 5) 12 0 ≤ 4096)
  | 0x03 => !ctrl && d.func == 0 && bits (d.w 2) 63 48 == 0 && bits (d.w 4) 63 32 == 0 && d.w 4 != 0 && d.zeroFrom 5
  | 0x04 => !ctrl && d.func == 0 && bits (d.w 3) 63 48 == 0 && bits (d.w 4) 63 32 == 0 && d.w 4 != 0 && d.zeroFrom 5
  | 0x05 => ctrl && d.func == 0 && d.zeroFrom 2
  | 0x06 => ctrl && d.func == 0 && d.zeroFrom 2
  | 0x07 => (d.func == 0 && !ctrl || d.func == 1 && ctrl) && d.zeroFrom 2
  | 0x08 => d.func == 0 && d.zeroFrom 2
  | 0x30 => !ctrl && decide (1 ≤ d.func) && decide (d.func ≤ 4)
  | _ => false

/-- May the descriptor start, job state aside (R336)? No FENCE delays one of a control ring. -/
def State.orderOk (s : State) (p : Nat) (d : ADesc) : Bool :=
  s.cleared p d (!s.ctrlRing p d.sq && (d.fence || (d.opcode == 7 && d.func == 0)))

/-- Work descriptors wait while the job is OPENING, SUSPENDING, RESUMING or CLOSING, and every descriptor of a work ring but JOB_OPEN and NOP
while it is SUSPENDED, malformed ones as well (R342, R353). DEDUCED, log entry 182. -/
def State.heldByJob (s : State) (p : Nat) (d : ADesc) : Bool :=
  let work := d.opcode == 2 || d.opcode == 3 || d.opcode == 4 || d.opcode == 7 || d.opcode == 0x30
  !s.ctrlRing p d.sq && match (s.pt p).job with
    | .noJob | .running => false
    | .suspended => d.opcode != 1 && d.opcode != 8
    | _ => work

/-- Can any descriptor start in the partition: it is READY, no rollback runs, and no abort is due (R57, R321, R444)? -/
def State.startsOpen (s : State) (p : Nat) : Bool :=
  (s.pt p).func == .ready && (s.pt p).rolling.isNone && !s.shapeBusy

/-- Mark the descriptor as started. -/
def State.started (s : State) (p : Nat) (d : ADesc) : State :=
  s.upPt p fun q =>
    { q.upDesc d.sq d.seq (fun x => { x with start := some q.startOrd, beat := s.mgmt.beat }) with startOrd := q.startOrd + 1 }

/-- Complete, then number the STEPs that this makes ready. -/
def State.finish (s : State) (p : Nat) (d : ADesc) (status cause result detail : Nat) : State :=
  (s.complete p d status cause result detail).refreshReady p

/-- Descriptors that a rollback runs again start in their original start order (R340). -/
def Ptn.againOk (q : Ptn) (d : ADesc) : Bool :=
  match d.again with
  | none => true
  | some o => q.descs.all fun e => match e.again with
    | some o' => e.done || e.start.isSome || decide (o ≤ o')
    | none => true

/-- A descriptor row of ring `n`: the ring's next descriptor starts. A malformed one completes with
INVALID_DESCRIPTOR whatever row is given; one of the row's opcode and FUNC goes to `k` (R329, R336). DESIGN CHOICE, log entry 129. -/
def State.startRow (s : State) (p n op : Nat) (ok : ADesc → Bool) (k : ADesc → State → State) : State :=
  match (s.pt p).ringHead n with
  | none => s
  | some d =>
    if d.start.isSome ∨ s.startsOpen p = false ∨ s.orderOk p d = false ∨ (s.pt p).againOk d = false ∨
        (op ≠ 8 ∧ s.awake p = false) then s
    else if d.wellFormed (s.ctrlRing p n) = false then
      (if s.heldByJob p d then s else (s.started p d).finish p d Code.invalidDescriptor 0 0 0)
    else if d.opcode = op ∧ ok d then k d s
    else s

/-- A work descriptor of R342: it waits unless the job is RUNNING, and completes ABORTED with NO_JOB with no job. -/
def State.withJob (s : State) (p : Nat) (d : ADesc) (k : State → State) : State :=
  match (s.pt p).job with
  | .running => k (s.started p d)
  | .noJob => (s.started p d).finish p d Code.aborted 4 0 0
  | _ => s

/-- NOP never waits for a job state and completes with DONE (R342). -/
def execNop (p n : Nat) (s : State) : Res :=
  s.live fun s => s.startRow p n 8 (fun _ => true) fun d s => (s.started p d).finish p d Code.done 0 0 0

/-! ### Completions (R330, R338) -/

/-- The 32 bytes of a completion in slot count `w` (R330). -/
def complBytes (ws : List W64) (w log2 : Nat) : Bytes :=
  ((ws.take 3).flatMap fun x => leBytes 8 x.toNat) ++
    leBytes 8 ((ws.getD 3 0).toNat + (w / 2 ^ log2 + 1) % 2 * 2 ^ 63)

/-- Journal entries that have been written and whose slot the host's HEAD has passed are freed, those that a reset has left to be written again
as well (R338, R339). -/
def freeJournal (cq head : Nat) (js : List JEntry) : List JEntry :=
  js.filter fun e => !((e.written || e.rewrite) && e.cq == cq && (match e.slot with | some w => decide (w < head) | none => false))

/-- Of journal entries, that with the lowest slot. -/
def lowestSlot : List JEntry → Option JEntry
  | [] => none
  | e :: t => match lowestSlot t with
    | some x => if x.slot.getD 0 < e.slot.getD 0 then some x else some e
    | none => some e

/-- The journaled record that completion ring `c` takes next: the lowest of those with a slot, and when none of them waits the oldest without
one of a ring that is enabled and names `c` (R322, R338). An unacknowledged record is not written. DESIGN CHOICE, log entry 183. -/
def State.nextRecord (s : State) (p c : Nat) : Option JEntry :=
  let q := s.pt p
  let js := (q.journal.take (q.journal.length - s.unacked p)).filter fun e => !e.written
  let mine := fun (e : JEntry) => !e.written && e.slot.isSome && e.cq == c
  if q.journal.any mine then lowestSlot (js.filter mine)
  else js.find? fun e => e.slot.isNone && s.sqOn p e.sq && s.fld rPtnSqCfg (p + 1) e.sq 21 16 == c

/-- A record is written into slot `w` of completion ring `c`: its entry is in that slot, and the counts advance (R330, R335, R338). -/
def State.noteWritten (s : State) (p c w : Nat) (e : JEntry) : State :=
  let s := s.upPt p fun q =>
    { q with journal := q.journal.map fun x => if x = e then { x with written := true, cq := c, slot := some w } else x }
  let s := s.upCq p c fun x => { x with written := Nat.max x.written (w + 1), given := Nat.max x.given (w + 1) }
  s.upSq p e.sq fun x => { x with completed := if e.rewrite then x.completed else x.completed + 1 }

/-- The next record of completion ring `c` meets the head word: it is written, with the completion event, or the ring is FULL (R338, R369). -/
def completionWrite (p c : Nat) (head : Option W64) (s : State) : State :=
  let q := s.pt p
  if s.cqOn p c = false ∨ s.busMaster (p + 1) = false ∨ q.func ≠ .ready then s
  else
    let h := (head.map (·.toNat)).getD (q.cq c).head
    let s := s.upCq p c fun x => { x with head := h }
    let log2 := s.fld rPtnCqCfg (p + 1) c 4 0
    let base := s.rd rPtnCqBase (p + 1) c
    let s := s.upPt p fun q => { q with journal := freeJournal c h q.journal }
    match s.nextRecord p c with
    | none => s
    | some e =>
      let w := e.slot.getD ((s.pt p).cq c).given
      if (w + 2 ^ 64 - h) % 2 ^ 64 < 2 ^ log2 then
        let s := s.emit (.hostWrite (p + 1) (base + 32 * (w % 2 ^ log2)) (complBytes e.words w log2))
        let s := (s.noteWritten p c w e).setFld rPtnCqStatus (p + 1) c 2 0 1
        let evq := s.fld rPtnCqCfg (p + 1) c 23 16
        (s.raiseLocal (p + 1) 0x100).record (p + 1) evq { ev := 0x100, beat := s.mgmt.beat, d0 := c, d1 := ((s.pt p).cq c).written }
      else s.setFld rPtnCqStatus (p + 1) c 2 0 2

/-- R338. -/
def execCompletionWrite (p c : Nat) (head : Option W64) (s : State) : Res := s.live (completionWrite p c head)

/-- After a reset, journaled records that the host has not consumed are to be written again (R339). -/
def rewriteAfterReset (q : Ptn) : Ptn :=
  { q with journal := q.journal.map fun e => if e.written then { e with written := false, rewrite := true } else e }

/-- At the end of a beat, the shadow areas whose words changed are written, of disabled rings as well (R334, R335). A ring has an area once it
has been enabled. DESIGN CHOICE, log entry 184. -/
def State.shadowBoundary (s : State) (p : Nat) : State :=
  if s.busMaster (p + 1) = false then s
  else (List.range 64).foldl (fun s n =>
    let x := (s.pt p).sq n
    let ws := [s.accepted p n, x.completed, x.durable, s.sqStatus p n]
    if x.shadowed ∧ x.shadow ≠ ws then
      let s := s.emit (.hostWrite (p + 1) (s.rd rPtnSqShadow (p + 1) n) (ws.flatMap (leBytes 8) ++ List.replicate 32 0#8))
      s.upSq p n fun x => { x with shadow := ws }
    else s) s

end Sys2Proof.Machine
end

