-- ==== Sys2Proof/Machine/Aes.lean ====
section
/-! DEFINITION. AES-256 (FIPS 197) and its Galois/Counter Mode (SP 800-38D), by which a flit is encrypted and authenticated (R391). Their
algorithms are the standards' (PRESUMED, log entry 7). -/

namespace Sys2Proof.Machine

/-- The S-box, thirty-two bytes to a number, the first the most significant. -/
def aesBoxRows : List Nat :=
  [0x637c777bf26b6fc53001672bfed7ab76ca82c97dfa5947f0add4a2af9ca472c0,
   0xb7fd9326363ff7cc34a5e5f171d8311504c723c31896059a071280e2eb27b275,
   0x09832c1a1b6e5aa0523bd6b329e32f8453d100ed20fcb15b6acbbe394a4c58cf,
   0xd0efaafb434d338545f9027f503c9fa851a3408f929d38f5bcb6da2110fff3d2,
   0xcd0c13ec5f974417c4a77e3d645d197360814fdc222a908846eeb814de5e0bdb,
   0xe0323a0a4906245cc2d3ac629195e479e7c8376d8dd54ea96c56f4ea657aae08,
   0xba78252e1ca6b4c6e8dd741f4bbd8b8a703eb5664803f60e613557b986c11d9e,
   0xe1f8981169d98e949b1e87e9ce5528df8ca1890dbfe6426841992d0fb054bb16]

/-- S-box entry of a byte. -/
def aesSub (b : Byte) : Byte := BitVec.ofNat 8 (aesBoxRows.getD (b.toNat / 32) 0 / 256 ^ (31 - b.toNat % 32))

/-- Byte strings added bit by bit. -/
def xorBytes (a b : Bytes) : Bytes := a.zipWith (· ^^^ ·) b

/-- A byte times x in GF(2^8). -/
def aesDouble (b : Byte) : Byte := if b.msb then (b <<< 1) ^^^ 0x1b#8 else b <<< 1

/-- The next `n` words of the key schedule after the first `i`; `w` holds them with the newest first. -/
def aesExpand : Nat → Nat → Byte → List Bytes → List Bytes
  | 0, _, _, w => w
  | n + 1, i, rcon, w =>
    let t := w.headD []
    let t := if i % 8 = 0 then xorBytes ((t.drop 1 ++ t.take 1).map aesSub) [rcon, 0, 0, 0]
      else if i % 8 = 4 then t.map aesSub else t
    aesExpand n (i + 1) (if i % 8 = 0 then aesDouble rcon else rcon) (xorBytes (w.getD 7 []) t :: w)

/-- The fifteen round keys of a 32-byte key, sixteen bytes each. -/
def aesKeys (key : Bytes) : List Bytes :=
  let first := (List.range 8).map fun i => (key.drop (4 * i)).take 4
  let w := (aesExpand 52 8 1 first.reverse).reverse
  (List.range 15).map fun r => ((w.drop (4 * r)).take 4).flatten

/-- Bytes after SubBytes and ShiftRows; byte 4c + r is row r of column c. -/
def aesShift (st : Bytes) : Bytes :=
  (List.range 16).map fun i => aesSub (st.getD ((i + 4 * (i % 4)) % 16) 0)

/-- One column of MixColumns. -/
def aesMixColumn (c : Bytes) : Bytes :=
  let a := fun (i : Nat) => c.getD (i % 4) 0
  (List.range 4).map fun i => aesDouble (a i) ^^^ (aesDouble (a (i + 1)) ^^^ a (i + 1)) ^^^ a (i + 2) ^^^ a (i + 3)

/-- MixColumns. -/
def aesMix (st : Bytes) : Bytes := (List.range 4).flatMap fun c => aesMixColumn ((st.drop (4 * c)).take 4)

/-- The rounds with the round keys left; the last does not mix. -/
def aesRounds : List Bytes → Bytes → Bytes
  | [], st => st
  | [k], st => xorBytes (aesShift st) k
  | k :: t, st => aesRounds t (xorBytes (aesMix (aesShift st)) k)

/-- AES of a block under a key schedule. -/
def aesBlock (keys : List Bytes) (block : Bytes) : Bytes := aesRounds (keys.drop 1) (xorBytes block (keys.headD []))

/-! ### Galois/Counter Mode -/

/-- The product of two elements of GF(2^128), the first bit of a block being the most significant: `n` bits of `x` are left. -/
def ghashMul : Nat → Nat → Nat → Nat → Nat
  | 0, _, _, z => z
  | n + 1, x, v, z =>
    ghashMul n x (if v % 2 = 1 then (v / 2) ^^^ (0xe1 * 2 ^ 120) else v / 2) (if x / 2 ^ n % 2 = 1 then z ^^^ v else z)

/-- GHASH over blocks. -/
def ghash (h : Nat) (blocks : List Nat) : Nat := blocks.foldl (fun y b => ghashMul 128 (y ^^^ b) h 0) 0

/-- The sixteen-byte blocks of a byte string, the last filled with zeros. -/
def padBlocks (bs : Bytes) : List Bytes :=
  (List.range (ceilDiv bs.length 16)).map fun i =>
    let b := (bs.drop (16 * i)).take 16
    b ++ List.replicate (16 - b.length) 0

/-- The data under the counter blocks from 2 on: encryption and decryption alike. -/
def gcmStream (keys : List Bytes) (iv data : Bytes) : Bytes :=
  (List.range (ceilDiv data.length 16)).flatMap fun i =>
    xorBytes ((data.drop (16 * i)).take 16) (aesBlock keys (iv ++ beBytes 4 (i + 2)))

/-- The tag over associated data and ciphertext. -/
def gcmTag (keys : List Bytes) (iv aad ct : Bytes) : Bytes :=
  let h := beNat (aesBlock keys (List.replicate 16 0))
  let s := ghash h ((padBlocks aad ++ padBlocks ct ++ [beBytes 8 (8 * aad.length) ++ beBytes 8 (8 * ct.length)]).map beNat)
  xorBytes (beBytes 16 s) (aesBlock keys (iv ++ beBytes 4 1))

end Sys2Proof.Machine
end

