-- ==== Sys2Proof/Machine/Fec.lean ====
section
/-! DEFINITION. The forward error correction of a flit: the Reed–Solomon code RS(256, 240) over GF(2^10) (R374). -/

namespace Sys2Proof.Machine

/-! ### GF(2^10) with x^10 + x^3 + 1 -/

/-- An element times α. -/
def gfDouble (a : Sym) : Sym := if a.msb then (a <<< 1) ^^^ 9#10 else a <<< 1

/-- An element divided by α. -/
def gfHalf (a : Sym) : Sym := if a.getLsbD 0 then (a ^^^ 9#10) >>> 1 ||| 0x200#10 else a >>> 1

/-- The product of two elements, over the low `n` bits of `b`, from the highest. -/
def gfMulBits (a b : Sym) : Nat → Sym → Sym
  | 0, z => z
  | n + 1, z => gfMulBits a b n (gfDouble z ^^^ (if b.getLsbD n then a else 0))

/-- The product of two elements. -/
def gfMul (a b : Sym) : Sym := gfMulBits a b 10 0

/-- `a` raised to the powers 2, 4, … 2^n, multiplied together. -/
def gfSquares : Nat → Sym → Sym
  | 0, _ => 1
  | n + 1, a => let q := gfMul a a; gfMul q (gfSquares n q)

/-- The inverse, which is the power 1,022; 0 of 0. -/
def gfInv (a : Sym) : Sym := gfSquares 9 a

/-- The powers of α from the power 0 on. -/
def gfPowers (n : Nat) : List Sym := (List.range n).map fun i => Nat.repeat gfDouble i 1

/-- A polynomial, the lowest coefficient first, at `x`. -/
def polyAt (p : List Sym) (x : Sym) : Sym := p.foldr (fun c a => c ^^^ gfMul a x) 0

/-- The sum of two polynomials. -/
def polyAdd : List Sym → List Sym → List Sym
  | [], q => q
  | p, [] => p
  | a :: p, b :: q => (a ^^^ b) :: polyAdd p q

/-- A polynomial times an element. -/
def polyScale (c : Sym) (p : List Sym) : List Sym := p.map (gfMul c)

/-- The product of two polynomials. -/
def polyMul : List Sym → List Sym → List Sym
  | [], _ => []
  | a :: p, q => polyAdd (polyScale a q) (0 :: polyMul p q)

/-! ### Coding -/

/-- The generator, with the roots α^0 to α^15, the lowest coefficient first. -/
def rsGenerator : List Sym := (gfPowers 16).foldl (fun g r => polyMul g [r, 1]) [1]

/-- One symbol enters the division by the generator; `reg` holds the remainder, the highest coefficient first. -/
def rsShift (g reg : List Sym) (x : Sym) : List Sym :=
  let fb := x ^^^ reg.headD 0
  (reg.drop 1 ++ [0]).zipWith (fun r c => r ^^^ gfMul fb c) g

/-- The sixteen parity symbols of 240 data symbols. The first symbol is the highest coefficient (DESIGN CHOICE, log entry 188). -/
def rsParity (data : List Sym) : List Sym :=
  data.foldl (rsShift (rsGenerator.take 16).reverse) (List.replicate 16 0)

/-- The sixteen syndromes of a received word. -/
def rsSyndromes (word : List Sym) : List Sym := (gfPowers 16).map fun r => polyAt word.reverse r

/-- One step of the Berlekamp–Massey algorithm at `n`: the locator and its length, the locator before its last change, that change's
discrepancy and the steps since. -/
def bmStep (syn : List Sym) (n : Nat) (st : List Sym × Nat × List Sym × Sym × Nat) : List Sym × Nat × List Sym × Sym × Nat :=
  let (c, l, b, d0, m) := st
  let d := (List.range (l + 1)).foldl (fun a i => a ^^^ gfMul (c.getD i 0) (syn.getD (n - i) 0)) 0
  if d = 0 then (c, l, b, d0, m + 1)
  else
    let t := polyAdd c (polyScale (gfMul d (gfInv d0)) (List.replicate m 0 ++ b))
    if 2 * l ≤ n then (t, n + 1 - l, c, d, 1) else (t, l, b, d0, m + 1)

/-- The error locator of the syndromes and its length. -/
def rsLocator (syn : List Sym) : List Sym × Nat :=
  let r := (List.range 16).foldl (fun st n => bmStep syn n st) ([1], 0, [1], 1, 1)
  (r.1, r.2.1)

/-- The formal derivative. -/
def polyDeriv (p : List Sym) : List Sym := ((p.drop 1).zip (List.range p.length)).map fun x => if x.2 % 2 = 0 then x.1 else 0

/-- The value of the error at the place whose inverse locator is `x`. -/
def rsValue (syn loc : List Sym) (x : Sym) : Sym :=
  gfMul (gfInv x) (gfMul (polyAt ((polyMul syn loc).take 16) x) (gfInv (polyAt (polyDeriv loc) x)))

/-- The word with its errors taken away, `x` being the inverse locator of its last symbol, the last symbol first. -/
def rsFix (syn loc : List Sym) : List Sym → Sym → List Sym
  | [], _ => []
  | a :: t, x => (if polyAt loc x = 0 then a ^^^ rsValue syn loc x else a) :: rsFix syn loc t (gfHalf x)

/-- The code word within eight symbol errors of a received word, with the number of errors; none when there is no such word. -/
def rsDecode (word : List Sym) : Option (List Sym × Nat) :=
  let syn := rsSyndromes word
  if syn.all (· == 0) then some (word, 0)
  else
    let loc := rsLocator syn
    let fixed := (rsFix syn loc.1 word.reverse 1).reverse
    let errors := (word.zip fixed).countP fun x => x.1 != x.2
    if loc.2 ≤ 8 ∧ errors ≤ 8 ∧ (rsSyndromes fixed).all (· == 0) then some (fixed, errors) else none

end Sys2Proof.Machine
end

