-- ==== Sys2Proof/Machine/Wire.lean ====
section
/-! DEFINITION. A flit on the lanes: its header and payload as bytes, its encryption and integrity value, its symbols with their parity, and
their places on the lanes (R371, R373, R374, R391). -/

namespace Sys2Proof.Machine

/-! ### Bytes (R373, R374, R391) -/

/-- HDR (R374). -/
def hdrBytes (f : Flit) : Bytes :=
  leBytes 4 (f.fseq.toNat * 2 ^ 21 + f.ack.toNat * 2 ^ 10 + f.typ.toNat * 2 ^ 8 + f.key.toNat * 2 ^ 5 + f.start.toNat)

/-- A flit of a header word and 288 bytes of payload. -/
def flitOf (h : Nat) (payload : Bytes) : Flit :=
  { fseq := BitVec.ofNat 11 (h / 2 ^ 21), ack := BitVec.ofNat 11 (h / 2 ^ 10), typ := BitVec.ofNat 2 (h / 2 ^ 8),
    key := BitVec.ofNat 3 (h / 2 ^ 5), start := BitVec.ofNat 5 h,
    slots := (List.range 18).map fun i => BitVec.ofNat 128 (leNat ((payload.drop (16 * i)).take 16)) }

/-- The nonce of a flit: the salt, which follows the 32 bytes of the key, and the flit counter (R391). DESIGN CHOICE, log entry 188. -/
def flitNonce (ks : Bytes) (ctr : Nat) : Bytes := ks.drop 32 ++ leBytes 8 ctr

/-- ICV over HDR and the encrypted payload: the first 64 bits of the tag (R391). -/
def flitIcv (ks : Bytes) (ctr : Nat) (hdr ct : Bytes) : Bytes := (gcmTag (aesKeys (ks.take 32)) (flitNonce ks ctr) hdr ct).take 8

/-- Bytes 0 to 299 of a flit under the key and salt `ks` at a counter (R373, R391). -/
def sealFlit (ks : Bytes) (ctr : Nat) (f : Flit) : Bytes :=
  let ct := gcmStream (aesKeys (ks.take 32)) (flitNonce ks ctr) (f.slots.flatMap fun x => leBytes 16 x.toNat)
  hdrBytes f ++ ct ++ flitIcv ks ctr (hdrBytes f) ct

/-- The flit of 300 bytes under the key and salt `ks` at a counter, unless its ICV fails (R391). -/
def openFlit (ks : Bytes) (ctr : Nat) (bs : Bytes) : Option Flit :=
  let ct := (bs.drop 4).take 288
  if flitIcv ks ctr (bs.take 4) ct = bs.drop 292 then
    some (flitOf (leNat (bs.take 4)) (gcmStream (aesKeys (ks.take 32)) (flitNonce ks ctr) ct))
  else none

/-! ### Symbols (R373, R374) -/

/-- The ten-bit symbols of `n` groups of five bytes, the low bits first (DESIGN CHOICE, log entry 188). -/
def symbolsOf : Nat → Bytes → List Sym
  | 0, _ => []
  | n + 1, bs =>
    let v := leNat (bs.take 5)
    [BitVec.ofNat 10 v, BitVec.ofNat 10 (v / 2 ^ 10), BitVec.ofNat 10 (v / 2 ^ 20), BitVec.ofNat 10 (v / 2 ^ 30)] ++ symbolsOf n (bs.drop 5)

/-- The bytes of `n` groups of four symbols. -/
def bytesOfSymbols : Nat → List Sym → Bytes
  | 0, _ => []
  | n + 1, l => leBytes 5 ((l.take 4).foldr (fun x a => x.toNat + 1024 * a) 0) ++ bytesOfSymbols n (l.drop 4)

/-- The 256 symbols of a flit's 300 bytes: 240 of data and 16 of parity (R374). -/
def flitSymbols (bs : Bytes) : List Sym :=
  let d := symbolsOf 60 bs
  d ++ rsParity d

/-! ### Lanes (R371, R373) -/

/-- The symbols of symbol time `t` on the lanes `active`, as the eight lanes carry them; a lane that is not active carries zero, and so do
the places after the last symbol. -/
def lanesAt (active : List Nat) (syms : List Sym) (t : Nat) : List Sym :=
  (List.range 8).map fun i => match active.findIdx? (· == i) with
    | some k => syms.getD (t * active.length + k) 0
    | none => 0

/-- A flit on the lanes: symbol s on the s-th active lane counted modulo their number, in each symbol time (R373). -/
def onLanes (active : List Nat) (syms : List Sym) : List (List Sym) :=
  (List.range (ceilDiv 256 active.length)).map fun t => lanesAt active syms t

/-- The 256 symbols that the lanes `active` have brought. -/
def offLanes (active : List Nat) (times : List (List Sym)) : List Sym :=
  (times.flatMap fun t => active.map fun i => t.getD i 0).take 256

/-- The lane of the other end that meets lane `i` of the end that a harness's memory is read at (R371, R557). -/
def farLane (h : Harness) (i : Nat) : Nat :=
  if h.endB then (h.laneMap.findIdx? (· == i)).getD i else h.laneMap.getD i i

/-- Lane numbers in a mask, ascending. -/
def lanesIn (mask : BitVec 8) : List Nat := (List.range 8).filter fun i => mask.getLsbD i

end Sys2Proof.Machine
end

