-- ==== Sys2Proof/Machine/Links.lean ====
section
/-! DEFINITION. The link ports: flits and link-level retry, virtual channels, credits and sluices, routes, lanes, failover
and keys (R371 to R402, R428). -/

namespace Sys2Proof.Machine

/-- Port `n`. -/
def State.port (s : State) (n : Nat) : Port := Tbl.get {} s.links.ports n

/-- Port `n` becomes `f` of itself. -/
def State.upPort (s : State) (n : Nat) (f : Port → Port) : State :=
  { s with links := { s.links with ports := Tbl.put s.links.ports n (f (s.port n)) } }

namespace PS
/-- Port states (R428). -/
def down : Nat := 0
/-- R428. -/
def training : Nat := 1
/-- R428. -/
def authenticating : Nat := 2
/-- R428. -/
def up : Nat := 3
/-- R428. -/
def retraining : Nat := 4
/-- R428. -/
def failed : Nat := 5
/-- R428. -/
def spareIdle : Nat := 6
end PS

/-- STATE of port `n`. -/
def State.pstate (s : State) (n : Nat) : Nat := s.fld rLnkPStatus 0 n 2 0

/-- Is port `n` UP? -/
def State.pup (s : State) (n : Nat) : Bool := s.pstate n == PS.up

/-- This module's address (R398). -/
def State.addr (s : State) : Nat := s.rd rLnkAddr 0 0 % 4096

/-! ### Packets and link-management messages (R376, R395) -/

/-- R427. -/
def Code.routeLost : Nat := 0x0403

/-- The fields of a packet header slot (R376). DEDUCED, log entry 69. -/
def headerSlot (ptype dslots vc dl narrow dst dptn dgrp src sptn dtype rctr rctrEn per : Nat) : Slot :=
  BitVec.ofNat 128 (per * 2 ^ 64 + rctrEn * 2 ^ 61 + rctr * 2 ^ 53 + dtype * 2 ^ 50 + sptn * 2 ^ 48 + src * 2 ^ 36 +
    dgrp * 2 ^ 30 + dptn * 2 ^ 28 + dst * 2 ^ 16 + narrow * 2 ^ 13 + dl * 2 ^ 12 + vc * 2 ^ 9 + dslots * 2 ^ 4 + ptype)

/-- Data bytes as slots. -/
def dataSlots : Nat → Bytes → List Slot
  | 0, _ => []
  | _ + 1, [] => []
  | n + 1, b => BitVec.ofNat 128 (leNat (b.take 16)) :: dataSlots n (b.drop 16)

/-- A field of a header slot. -/
def hdr (x : Slot) (hi lo : Nat) : Nat := bits x.toNat hi lo

/-- The packet of a header slot and its data slots, of a data collective or none (R376, R421). -/
def packetOf (h : Slot) (data : List Slot) (coll : Option (Nat × Nat × Nat)) : Packet :=
  { src := BitVec.ofNat 12 (hdr h 47 36), sptn := hdr h 49 48, ptype := hdr h 3 0, dptn := hdr h 29 28, addr := hdr h 111 64
    data := (data.flatMap fun x => leBytes 16 x.toNat).take (if hdr h 3 0 = 4 then 0 else hdr h 127 112)
    dtype := hdr h 52 50, narrow := hdr h 13 13 == 1, rctrEn := hdr h 61 61 == 1, rctr := hdr h 60 53
    inc := BitVec.ofNat 64 (hdr h 127 64), group := hdr h 35 30, coll := coll }

namespace Msg
/-- Types of link-management messages (R395, R560). -/
def credit : Nat := 0x01
/-- R395. -/
def timeReq : Nat := 0x02
/-- R395. -/
def timeRsp : Nat := 0x03
/-- R395. -/
def portState : Nat := 0x05
/-- R395. -/
def resync : Nat := 0x06
/-- R395. -/
def keyReady : Nat := 0x07
/-- R395. -/
def keyRetire : Nat := 0x08
/-- R395. -/
def groupHello : Nat := 0x09
/-- R560. -/
def hiveHello : Nat := 0x10
/-- R560. -/
def hiveFormed : Nat := 0x11
/-- R560. -/
def apiaryElect : Nat := 0x12
/-- R560. -/
def apiaryCoord : Nat := 0x13
/-- R560. -/
def apiaryState : Nat := 0x14
end Msg

/-- A MGMT packet of a type for the module at `dst`: the message's words in order, eight bytes each, in the data slots (R376, R395, R396).
The words and their places are those of R396 for the time messages and the model's for the others; DESIGN CHOICE, log entry 189. -/
def mgmtPkt (src dst typ : Nat) (ws : List Nat) : TxPkt :=
  let data := dataSlots 16 (ws.flatMap fun w => leBytes 8 w)
  { vc := 1, part := 4, key := 4, slots := headerSlot 5 data.length 1 0 0 dst 0 0 src 0 0 0 0 typ :: data }

/-- The words of a message's data slots. -/
def mgmtWords (data : List Slot) : List Nat := data.flatMap fun x => [x.toNat % 2 ^ 64, x.toNat / 2 ^ 64]

/-- PEER_ADDR of port `n`. -/
def State.portPeer (s : State) (n : Nat) : Nat := s.fld rLnkPStatus 0 n 47 36

/-- A message for the module at `dst` waits at port `n` on VC1. -/
def State.sendMgmtTo (s : State) (n dst typ : Nat) (ws : List Nat) : State :=
  s.upPort n fun q => { q with queue := q.queue ++ [mgmtPkt s.addr dst typ ws] }

/-- A message for the peer of port `n` waits there on VC1. -/
def State.sendMgmt (s : State) (n typ : Nat) (ws : List Nat) : State := s.sendMgmtTo n (s.portPeer n) typ ws

/-- Tell the hive and the ring of a port's state (R389). -/
def State.flood (s : State) (origin port : Nat) (up : Bool) (except : Nat) : State :=
  (List.range 25).foldl (fun s n =>
    if s.pup n ∧ n ≠ except then s.sendMgmt n Msg.portState [origin, port, if up then 1 else 0] else s) s

/-- Change port `n`'s registers by `f`; a change of STATE or WIDTH raises LINK_PORT, and one of STATE is flooded (R389,
R428). -/
def State.portChange (s : State) (n : Nat) (f : State → State) : State :=
  let old := s.rd rLnkPStatus 0 n
  let s := f s
  let now := s.rd rLnkPStatus 0 n
  let s := if bits old 2 0 ≠ bits now 2 0 ∨ bits old 15 12 ≠ bits now 15 12 then s.raiseM 0x050 n now else s
  if bits old 2 0 ≠ bits now 2 0 then s.flood s.addr n (bits now 2 0 == PS.up) n else s

/-- Port `n` takes a state. -/
def State.setPState (s : State) (n st : Nat) : State := s.portChange n fun s => s.setFld rLnkPStatus 0 n 2 0 st

/-- Count in a field of LNK_Pn_ERR, saturating. -/
def State.countErr (s : State) (n hi lo k : Nat) : State :=
  let s := s.tally fun t => if lo = 32 then { t with corrected := t.corrected + k }
    else if lo = 16 then { t with retries := t.retries + k } else t
  s.setFld rLnkPErr 0 n hi lo (satAdd (2 ^ (hi - lo + 1) - 1) (s.fld rLnkPErr 0 n hi lo) k)

/-- APIARY_STATE goes out at a port: formed, origin and reference, with this module's adoption state (R560, R564). -/
def State.announceAt (s : State) (n : Nat) : State :=
  if s.pup n ∧ s.phaseOver 11 then
    s.sendMgmt n Msg.apiaryState [1, s.boot.origin, s.boot.ref, s.boot.refAddr.getD 0, if s.mgmt.adopted then 1 else 0]
  else s

/-- APIARY_STATE goes out at every port that is UP. DEDUCED, log entry 114. -/
def State.announce (s : State) : State := (List.range 25).foldl (fun s n => s.announceAt n) s

/-! ### Credits and channels (R379 to R384) -/

/-- Slots of the receive buffer of a channel and class (R379). -/
def vcBuffer (vc : Nat) : Nat := if vc = 0 then 512 else if vc = 1 then 256 else 3072

/-- Full credits of every channel and class (R382). -/
def fullCredits : Tbl Nat :=
  (List.range 8).foldl (fun t vc =>
    let t := Tbl.set 0 t (2 * vc) (vcBuffer vc)
    if vc < 2 then t else Tbl.set 0 t (2 * vc + 1) (vcBuffer vc)) []

/-- KEY_READY goes out at port `n` for every job key slot that has not been announced there (R393). -/
def State.tellKeys (s : State) (n : Nat) : State :=
  (List.range 4).foldl (fun s p => match Tbl.find (s.port n).keys p with
    | some k =>
      if k.told then s
      else (s.upPort n fun q => { q with keys := Tbl.put q.keys p { k with told := true } }).sendMgmt n Msg.keyReady [p, k.keyId]
    | none => s) s

/-- Port `n` goes UP on the lanes `lanes`: each end grants the other its full buffers, what the peer has not acknowledged is sent again, and
the keys installed meanwhile are announced (R378, R382, R393). -/
def State.portUp (s : State) (n : Nat) (lanes : BitVec 8) : State :=
  let s := s.upPort n fun q => { q with credits := fullCredits, outst := [], freed := [], sent := 0, lanes := lanes }
  (s.portChange n fun s =>
    (s.setFld rLnkPStatus 0 n 2 0 PS.up).setFld rLnkPStatus 0 n 15 12 (lanesIn lanes).length).tellKeys n

/-- Weight in force of a data channel (R381). -/
def State.vcWeight (s : State) (vc : Nat) : Nat := bits s.links.weights (7 * (vc - 2) + 6) (7 * (vc - 2))

/-- Share in force of a partition on a data channel (R383). -/
def State.share (s : State) (p vc : Nat) : Nat := bits (Tbl.get 0 s.links.shares p) (7 * (vc - 2) + 6) (7 * (vc - 2))

/-- Credits of a channel that a partition holds at a port. -/
def Port.held (q : Port) (p vc : Nat) : Nat :=
  q.outst.foldl (fun n x => if x.1 / 2 = vc ∧ x.2.1 = p then n + x.2.2 else n) 0

/-- Does a packet need no credit: a CREDIT message (R382)? -/
def creditFree (h : Slot) : Bool := hdr h 3 0 == 5 && hdr h 71 64 == Msg.credit

/-- May a packet be sent now: credits for all its slots, tokens, its partition's share, and the key of its slot ready at
the peer (R380, R382, R383, R393)? -/
def State.mayTx (s : State) (q : Port) (x : TxPkt) : Bool :=
  let n := x.slots.length
  (creditFree (x.slots.headD 0) || decide (n ≤ Tbl.get 0 q.credits (2 * x.vc + x.cls))) && (x.vc != 0 || decide (n ≤ q.tokens)) &&
  (decide (x.vc < 2) || decide (q.held x.part x.vc + n ≤ s.share x.part x.vc * (2 * vcBuffer x.vc) / 64)) &&
  (decide (4 ≤ x.key) || (Tbl.get {} q.keys x.key).peer.isSome)

/-- The first packet of channel `vc` that may be sent. -/
def State.firstOf (s : State) (q : Port) (vc : Nat) : Option TxPkt := q.queue.find? fun x => x.vc == vc && s.mayTx q x

/-- Of two data channels, with the slots that each has sent and will have sent after its next packet, the one whose packet ends first when
each is served at its weight. -/
def sooner (a b : Nat × Nat × TxPkt) : Nat × Nat × TxPkt :=
  if b.2.1 * a.1 < a.2.1 * b.1 then b else a

/-- The data channel served next, with the slots counted for each after it: of the channels with a weight and a packet ready, the one whose
packet would end first if each were served at its own share, so that none falls behind its share by more than one packet; a channel with
nothing ready is counted as served meanwhile, and one of weight 0 sends when no other can (R381; DESIGN CHOICE, log entry 37). -/
def State.pickData (s : State) (q : Port) : Option (TxPkt × Tbl Nat) :=
  let ready := ([2, 3, 4, 5, 6, 7] : List Nat).filterMap fun vc => (s.firstOf q vc).map fun x => (vc, x)
  let due := (ready.filter fun x => 0 < s.vcWeight x.1).map fun x =>
    (s.vcWeight x.1, Tbl.get 0 q.served x.1 + x.2.slots.length, x.2)
  match due with
  | [] => ready.head?.map fun x => (x.2, q.served)
  | d :: t =>
    let x := (t.foldl sooner d).2.2
    let low := (ready.filter fun y => 0 < s.vcWeight y.1).foldl (fun (m : Nat × Nat) y =>
      let v := Tbl.get 0 q.served y.1
      if v * m.2 < m.1 * s.vcWeight y.1 then (v, s.vcWeight y.1) else m) (d.2.1 - d.2.2.slots.length, d.1)
    let served := ([2, 3, 4, 5, 6, 7] : List Nat).foldl (fun c vc =>
      let v := Tbl.get 0 q.served vc
      Tbl.set 0 c vc (if vc = x.vc then v + x.slots.length
        else if ready.any (·.1 == vc) then v else Nat.max v (low.1 * s.vcWeight vc / low.2))) []
    some (x, served)

/-- The packet sent next: VC0, then VC1, then the data channels (R379). -/
def State.pickPkt (s : State) (q : Port) : Option (TxPkt × Tbl Nat) :=
  match s.firstOf q 0 with
  | some x => some (x, q.served)
  | none => match s.firstOf q 1 with
    | some x => some (x, q.served)
    | none => s.pickData q

/-- Remove the first occurrence. -/
def removeOne (x : TxPkt) : List TxPkt → List TxPkt
  | [] => []
  | y :: t => if y = x then t else y :: removeOne x t

/-- A packet starts: its credits and tokens are taken. -/
def Port.start (q : Port) (x : TxPkt) (served : Tbl Nat) : Port :=
  let n := x.slots.length
  let k := 2 * x.vc + x.cls
  let q := { q with queue := removeOne x q.queue, cur := some x, tokens := if x.vc = 0 then q.tokens - n else q.tokens, served := served }
  if creditFree (x.slots.headD 0) then q
  else { q with credits := Tbl.set 0 q.credits k (Tbl.get 0 q.credits k - n), outst := q.outst ++ [(k, x.part, n)] }

/-- Fill the remaining `fuel` slots of a flit's payload: its slots so far, its key slot, and START. When the packet to be sent next has
another key slot, the rest of the flit is NULL slots (R376, R379). -/
def State.fillFlit (s : State) : Nat → Port → List Slot → Option Nat → Nat → Port × List Slot × Option Nat × Nat
  | 0, q, l, key, st => (q, l, key, st)
  | fuel + 1, q, l, key, st =>
    match q.cur with
    | some x =>
      let q' := { q with cur := if x.slots.length ≤ 1 then none else some { x with slots := x.slots.drop 1 } }
      s.fillFlit fuel q' (l ++ x.slots.take 1) (some x.key) st
    | none =>
      match (s.pickPkt q).filter fun x => key.all (· == x.1.key) with
      | none => s.fillFlit fuel q (l ++ [0]) key st
      | some (x, served) =>
        let q1 := q.start x served
        let q' := { q1 with cur := if x.slots.length ≤ 1 then none else some { x with slots := x.slots.drop 1 } }
        s.fillFlit fuel q' (l ++ x.slots.take 1) (some x.key) (if st = 31 then l.length else st)

/-! ### Sending and acknowledging flits (R373 to R378, R391) -/

/-- Freed slots are returned in CREDIT messages: those of at least `min` slots (R382). -/
def State.returnCredits (s : State) (n min : Nat) : State :=
  (s.port n).freed.foldl (fun s e =>
    if min ≤ e.2 then
      (s.upPort n fun q => { q with freed := Tbl.set 0 q.freed e.1 0 }).sendMgmt n Msg.credit [e.1 / 2, e.1 % 2, e.2]
    else s) s

/-- A port has carried flit `f`: one that is not an idle flit begins its quiet time anew (R532). -/
def Port.carried (q : Port) (f : Flit) : Port := if f.typ = 1 then q else { q with still := 0 }

/-- Is port `n` in low-power idle: every partition in L2 or L3, and 16 beats without a flit other than idle ones or a packet that waits
(R532)? -/
def State.portRests (s : State) (n : Nat) : Bool :=
  let q := s.port n
  ((List.range s.parts).all fun p => decide (2 ≤ s.lstate p)) && decide (17 ≤ q.still) && q.queue.isEmpty && q.cur.isNone

/-- A flit of port `n` with the counter `ctr` as its lanes carry it: sealed under its key slot, with its parity, on the lanes in use (R373,
R374, R391). -/
def State.onWire (s : State) (n ctr : Nat) (f : Flit) : List (List Sym) :=
  onLanes (lanesIn (s.port n).lanes) (flitSymbols (sealFlit (Tbl.get {} (s.port n).keys f.key.toNat).tx ctr f))

/-- FLIT_TRANSMIT: one flit time of a port that is UP: a NAK that is due, a flit to be sent again, a new packet flit or
an idle flit goes out (R373, R376, R377, R380, R391). -/
def flitTransmit (n : Nat) (s : State) : State :=
  if s.pup n = false then s
  else
    let q := s.port n
    let ticks := (q.ticks + 1) % 64
    let q : Port := { q with ticks := ticks, txCtr := q.txCtr + 1, tokens := if ticks = 0 then Nat.min 512 (q.tokens + 23) else q.tokens,
                             nakFor := q.nakFor.map fun (x : Nat × Nat) => (x.1, x.2 + 1) }
    let ack := BitVec.ofNat 11 q.rx
    let blank := List.replicate 18 (0 : Slot)
    let idle : Flit := { fseq := BitVec.ofNat 11 q.tx, ack := ack, typ := 1, key := 4, start := 31, slots := blank }
    let r : Port × Flit :=
      if q.nakDue then ({ q with nakDue := false, nakFor := some (q.rx, 0) }, { idle with typ := 2 })
      else if q.sent < q.replay.length then
        ({ q with sent := q.sent + 1 }, { q.replay.getD q.sent idle with ack := ack })
      else if 512 ≤ q.replay.length then (q, idle)
      else
        let b := s.fillFlit 18 q [] none 31
        match b.2.2.1 with
        | none => (q, idle)
        | some k =>
          let f : Flit := { fseq := BitVec.ofNat 11 q.tx, ack := ack, typ := 0, key := BitVec.ofNat 3 k,
                            start := BitVec.ofNat 5 b.2.2.2, slots := b.2.1 }
          ({ b.1 with tx := (b.1.tx + 1) % 2048, replay := b.1.replay ++ [f], sent := b.1.sent + 1 }, f)
    let s := (s.upPort n fun _ => r.1.carried r.2).emit (.flit n r.2 (s.onWire n q.txCtr r.2))
    let s := if r.2.typ = 0 then s.tally fun t => { t with linkTx := t.linkTx + 288 } else s
    if ticks = 0 then s.returnCredits n 1 else s

/-- R373 to R380. -/
def execFlitTransmit (port : Nat) (s : State) : Res := s.live (flitTransmit port)

/-- Packets of a run of slots, and the slots of one that has not ended (R376). -/
def parsePkts : Nat → List Slot → List (List Slot) × List Slot
  | 0, l => ([], l)
  | _ + 1, [] => ([], [])
  | fuel + 1, h :: t =>
    if h = 0 then parsePkts fuel t
    else
      let n := hdr h 8 4
      if t.length < n then ([], h :: t)
      else let r := parsePkts fuel (t.drop n); ((h :: t.take n) :: r.1, r.2)

/-- The peer has received every packet flit before FSEQ `a`: they leave the replay buffer, and the slots of a packet of which only the
beginning is among them are kept (R377, R390). -/
def Port.acked (q : Port) (a : Nat) : Port :=
  let base := (q.tx + 2048 - q.replay.length % 2048) % 2048
  let k := (a + 2048 - base) % 2048
  if k ≤ q.replay.length then
    { q with replay := q.replay.drop k, sent := q.sent - k, retry := if k = 0 then q.retry else (0, 0),
             lead := (parsePkts (q.lead.length + 18 * k) (q.lead ++ (q.replay.take k).flatMap fun f => f.slots)).2 }
  else q

/-- The lanes of port `n` that have not failed. -/
def State.workingLanes (s : State) (n : Nat) : BitVec 8 := ~~~ (BitVec.ofNat 8 (s.fld rLnkPStatus 0 n 23 16))

/-- A port goes to RETRAINING: its LANE_MAP tells the peer its working lanes and the counter of its first flit afterwards (R378, R385,
R391). -/
def State.retrain (s : State) (n : Nat) : State :=
  if s.pup n then
    (((s.upPort n fun q => { q with agreed := 0 }).countErr n 7 0 1).setPState n PS.retraining).emit
      (.message "LANE_MAP" n [(s.workingLanes n).toNat, (s.port n).txCtr + 1])
  else s

/-- A NAK arrives: the transmitter sends again from the named FSEQ; the eighth retry of one FSEQ retrains (R377, R378). -/
def nakArrives (n fseq : Nat) (s : State) : State :=
  if s.pup n = false then s
  else
    let s := (s.upPort n fun q =>
      let q := q.acked fseq
      { q with sent := 0, retry := (fseq, if q.retry.1 = fseq then q.retry.2 + 1 else 1) }).countErr n 31 16 1
    if 8 ≤ (s.port n).retry.2 then (s.upPort n fun q => { q with retry := (fseq, 0) }).retrain n else s

/-- R377. -/
def execNak (port fseq : Nat) (s : State) : Res := s.live (nakArrives port (fseq % 2048))

/-- A flit is discarded and NAKed, unless its FSEQ has been NAKed within 256 flit times (R377). -/
def Port.wantNak (q : Port) : Port :=
  match q.nakFor with
  | some (v, t) => if v = q.rx ∧ t < 256 then q else { q with nakDue := true }
  | none => { q with nakDue := true }

/-! ### Shapes (R403) -/

/-- The members of a group. -/
structure Shape where
  mask : Nat
  y0 : Nat
  ny : Nat
  x0 : Nat
  nx : Nat
deriving DecidableEq, Repr

/-- The shape in COL_GRPg_SHAPE. -/
def shapeOf (v : Nat) : Shape :=
  { mask := bits v 47 32, y0 := bits v 31 28, ny := bits v 27 24 + 1, x0 := bits v 23 20, nx := bits v 19 16 + 1 }

/-- Hive positions in the shape, ascending. -/
def Shape.positions (h : Shape) : List Nat := (List.range 16).filter fun m => bits h.mask m m == 1

/-- |S|. -/
def Shape.ns (h : Shape) : Nat := h.positions.length

/-- G. -/
def Shape.size (h : Shape) : Nat := h.ns * h.nx * h.ny

/-- yi, xi and pi of an address (R403). -/
def Shape.coords (h : Shape) (a : Nat) : Nat × Nat × Nat :=
  ((bits a 11 8 + 16 - h.y0) % 16, (bits a 7 4 + 16 - h.x0) % 16, (h.positions.filter (· < a % 16)).length)

/-- Does the shape contain the address? -/
def Shape.has (h : Shape) (a : Nat) : Bool :=
  let c := h.coords a
  decide (c.1 < h.ny) && decide (c.2.1 < h.nx) && bits h.mask (a % 16) (a % 16) == 1

/-- Rank of an address (R403). -/
def Shape.rank (h : Shape) (a : Nat) : Nat :=
  let c := h.coords a
  (c.1 * h.nx + c.2.1) * h.ns + c.2.2

/-- Address at coordinates. -/
def Shape.addrAt (h : Shape) (yi xi pi : Nat) : Nat :=
  (h.y0 + yi) % 16 * 256 + (h.x0 + xi) % 16 * 16 + h.positions.getD pi 0

/-- Address of a rank. -/
def Shape.addrOf (h : Shape) (r : Nat) : Nat := h.addrAt (r / h.ns / h.nx) (r / h.ns % h.nx) (r % h.ns)

/-- Is the group enabled? -/
def State.grpOn (s : State) (p g : Nat) : Bool := s.fld rColGrpShape (p + 1) g 63 63 == 1

/-- The group's shape. -/
def State.grpShape (s : State) (p g : Nat) : Shape := shapeOf (s.rd rColGrpShape (p + 1) g)

/-! ### Packets and routes (R376, R389, R398 to R402) -/

/-- Does the port named reach a neighbour whose port is known to be down? -/
def State.knownDown (s : State) (addr port : Nat) : Bool := s.links.down.contains (addr * 32 + port)

/-- The working port with the most free credits, the lower-numbered one on a tie (R401). -/
def State.bestPort (s : State) (ns : List Nat) : Option Nat :=
  ns.foldl (fun b n =>
    if s.pup n = false then b
    else match b with
      | none => some n
      | some m =>
        let c := fun k => (s.port k).credits.foldl (fun t e => t + e.2) 0
        if c m < c n then some n else b) none

/-- Ports of a torus direction: 0 +X, 1 −X, 2 +Y, 3 −Y (R400). -/
def State.torusPorts (s : State) (dir : Nat) : List Nat :=
  let base := [15 + dir, 19 + dir]
  if dir = 0 ∧ s.links.torus.getLsbD 0 then base ++ [23]
  else if dir = 1 ∧ s.links.torus.getLsbD 1 then base ++ [24]
  else base

/-- The mesh port between positions `a` and `b` of a hive (R399). -/
def meshPort (a b : Nat) : Nat := (b + 16 - a - 1) % 16

/-- A step of a route: the port and whether the packet uses the upper dateline class after it. -/
abbrev Hop := Nat × Bool

/-- The directions along a ring from place `x` to `dst`, true for the positive one: the shorter, the positive one when equal, and the other
after it when the group's range covers the ring. A range that does not is left by the way outside it, so its packets stay inside (R389,
R401, R402); DEDUCED, log entry 165. `r` is the first place and the count of the range; a count of 0 is no range. -/
def ringDirs (x dst : Nat) (r : Nat × Nat) : List Bool :=
  let short := decide ((dst + 16 - x) % 16 ≤ 8)
  if r.2 = 16 then [short, !short]
  else if r.2 = 0 then [short]
  else [decide ((x + 16 - r.1) % 16 < (dst + 16 - r.1) % 16)]

/-- No group's range. -/
def noSpan : Nat × Nat := (0, 0)

/-- Is some module between places `x` and `dst` of a ring known to have no port of direction `dir` that works (R389)? `place` gives the
address of a place. -/
def State.ringCut (s : State) (x dst dir : Nat) (up : Bool) (place : Nat → Nat) : Bool :=
  let dist := if up then (dst + 16 - x) % 16 else (x + 16 - dst) % 16
  (List.range (dist - 1)).any fun i =>
    ([15 + dir, 19 + dir] : List Nat).all fun n => s.knownDown (place (if up then (x + i + 1) % 16 else (x + 15 - i) % 16)) n

/-- The route along one ring: the first of the directions that has a working port here and is not cut further on (R389, R401). -/
def State.ringHop (s : State) (x dst plus : Nat) (dirs : List Bool) (place : Nat → Nat) (dl : Bool) : Option Hop :=
  dirs.findSome? fun up =>
    let dir := if up then plus else plus + 1
    if s.ringCut x dst dir up place then none
    else (s.bestPort (s.torusPorts dir)).map fun n => (n, dl || (if up then x == 15 else x == 0))

/-- The next hop to a module address. `mask` names the positions that may forward, `xr` and `yr` the group's ranges; `come` is the direction
of a packet that is on the ring already and goes straight on (R389, R401, R402). -/
def State.route (s : State) (dst mask : Nat) (xr yr : Nat × Nat) (come : Option Bool) (dl : Bool) : Option Hop :=
  let a := s.addr
  let m := a % 16
  let n := dst % 16
  let x := bits a 7 4
  let y := bits a 11 8
  let dirs := fun (l : List Bool) => match come with
    | some up => up :: l.filter (· ≠ up)
    | none => l
  if m ≠ n then
    if s.pup (meshPort m n) then some (meshPort m n, false)
    else
      match (List.range 16).find? fun c =>
        c != m && c != n && bits mask c c == 1 && s.pup (meshPort m c) &&
          !s.knownDown (a - m + c) (meshPort c n) with
      | some c => some (meshPort m c, false)
      | none => none
  else if x ≠ bits dst 7 4 then
    s.ringHop x (bits dst 7 4) 0 (dirs (ringDirs x (bits dst 7 4) xr)) (fun i => y * 256 + i * 16 + m) dl
  else if y ≠ bits dst 11 8 then
    s.ringHop y (bits dst 11 8) 2 (dirs (ringDirs y (bits dst 11 8) yr)) (fun i => i * 256 + x * 16 + m) dl
  else none

/-- The next hop of a packet that starts here for a member of a group (R401, R402). -/
def State.routeIn (s : State) (h : Shape) (dst : Nat) : Option Hop := s.route dst h.mask (h.x0, h.nx) (h.y0, h.ny) none false

/-- The group of partition `p` that has a packet's two ends: only its members forward the packet (R402). DEDUCED, log entry 165. -/
def State.carrier (s : State) (p : Nat) (h : Slot) : Option Shape :=
  ((List.range 64).find? fun g => s.grpOn p g && (s.grpShape p g).has (hdr h 47 36) && (s.grpShape p g).has (hdr h 27 16)).map
    fun g => s.grpShape p g

/-- The direction along its ring of a packet that comes by a torus port, true for the positive one (R400). -/
def ringDirOf (inPort : Nat) : Bool := ([16, 18, 20, 22, 24] : List Nat).contains inPort

/-- A packet that has no route ends its operation with ROUTE_LOST (R389): its source is told so in place of an acknowledgement. DEDUCED, log
entry 191. -/
def State.lostPacket (s : State) (h : Slot) (data : List Slot) : State :=
  if hdr h 3 0 = 1 ∨ hdr h 3 0 = 2 ∨ hdr h 3 0 = 4 then s.emit (.ack (packetOf h data none) Code.routeLost) else s

/-- The route of a packet under key slot `k` with the header `h`, and whether it uses the upper dateline class after the hop; `fresh` says that it
has not come over a port, so that a mesh detour is open to it. A second mesh hop and a ring's dateline use the upper class, which DL marks;
it is clear again at the turn from X to Y and where a ring begins (R389, R401, R402; DESIGN CHOICE, log entry 189). -/
def State.nextHop (s : State) (inPort k : Nat) (fresh : Bool) (h : Slot) : Option Hop :=
  let dst := hdr h 27 16
  let torus := !fresh && decide (15 ≤ inPort)
  let turn := torus && bits s.addr 7 4 == bits dst 7 4 && ([15, 16, 19, 20, 23, 24] : List Nat).contains inPort
  let grp := if k = 4 then some { mask := 0xffff, y0 := 0, ny := 0, x0 := 0, nx := 0 } else s.carrier k h
  grp.bind fun g =>
    (s.route dst (if fresh then g.mask else 0) (g.x0, g.nx) (g.y0, g.ny)
      (if torus ∧ turn = false then some (ringDirOf inPort) else none) (torus && hdr h 12 12 == 1 && !turn)).map fun x =>
        (x.1, x.2 || (!fresh && decide (inPort < 15) && decide (x.1 < 15)))

/-- A packet goes on by its route, behind the packets that wait there or, with `first`, before them; one without a route is lost. -/
def State.relay (s : State) (inPort k : Nat) (fresh first : Bool) (pk : List Slot) : State :=
  match pk with
  | [] => s
  | h :: rest =>
    match s.nextHop inPort k fresh h with
    | none => s.lostPacket h rest
    | some (n, upper) =>
      let vc := hdr h 11 9
      let x : TxPkt := { vc := vc, cls := if upper ∧ 2 ≤ vc then 1 else 0, part := k, key := k,
                         slots := BitVec.ofNat 128 (setBits h.toNat 12 12 (if upper then 1 else 0)) :: rest }
      s.upPort n fun q => { q with queue := if first then x :: q.queue else q.queue ++ [x] }

/-- A packet for another module that has come over a port goes on, when this module holds its key (R402). -/
def State.forward (s : State) (inPort key : Nat) (pk : List Slot) : State :=
  if key = 4 ∨ (Tbl.get {} (s.port inPort).keys key).keyId ≠ 0 then s.relay inPort key false false pk else s

/-- Is it the type of a link-management message (R395)? -/
def mgmtKnown (t : Nat) : Bool := (decide (1 ≤ t) && decide (t ≤ 9)) || (decide (0x10 ≤ t) && decide (t ≤ 0x2F))

/-! ### Lanes, retraining and failover (R385 to R390) -/

/-- Working lanes of a port. -/
def State.working (s : State) (n : Nat) : Nat :=
  8 - (List.range 8).foldl (fun c i => c + bits (s.fld rLnkPStatus 0 n 23 16) i i) 0

/-- A port becomes FAILED (R386). -/
def State.failPort (s : State) (n : Nat) : State :=
  if s.pstate n = PS.failed then s
  else
    let s := s.portChange n fun s =>
      ((s.setFld rLnkPStatus 0 n 2 0 PS.failed).setFld rLnkPStatus 0 n 15 12 0).setFld rLnkPStatus 0 n 30 26 31
    { s with links := { s.links with failed := s.links.failed ++ [n] } }

/-- LANE_FAILED: the lane is marked; the port retrains, or fails with fewer than four lanes (R385, R386). -/
def laneFailed (n lane : Nat) (s : State) : State :=
  let st := s.pstate n
  if st = PS.down ∨ st = PS.failed ∨ st = PS.spareIdle ∨ s.fld rLnkPStatus 0 n (16 + lane) (16 + lane) = 1 then s
  else
    let s := s.setFld rLnkPStatus 0 n (16 + lane) (16 + lane) 1
    if s.working n < 4 then s.failPort n else s.retrain n

/-- R385. -/
def execLaneFailed (port lane : Nat) (s : State) : Res :=
  s.live fun s => if port < 25 ∧ lane < 8 then laneFailed port lane s else s

/-- The lane of the peer that meets lane `i` of port `n` (R371). -/
def State.farOf (s : State) (n i : Nat) : Nat := ((Tbl.find s.boot.harness n).map fun h => farLane h i).getD i

/-- The lanes of port `n` that meet the peer's lanes in a mask (R371). -/
def State.nearMask (s : State) (n : Nat) (mask : BitVec 8) : BitVec 8 :=
  BitVec.ofNat 8 ((List.range 8).foldl (fun m i => if mask.getLsbD (s.farOf n i) then m + 2 ^ i else m) 0)

/-- LANE_MAP: the ends agree on the lanes that work at both, and the receiver takes the counter of the peer's first flit
(R385, R391). -/
def execLaneMap (port : Nat) (mask : BitVec 8) (counter : W64) (s : State) : Res :=
  s.live fun s =>
    if s.pstate port = PS.retraining then
      s.upPort port fun q => { q with agreed := s.nearMask port mask &&& s.workingLanes port, rxCtr := counter.toNat - 1 }
    else s

/-- Set bits of a mask. -/
def ones (n w : Nat) : Nat := (List.range n).foldl (fun c i => c + bits w i i) 0

/-- RETRAINING_DONE: the port returns to UP at the agreed width, or fails (R385, R386). -/
def execRetrainingDone (port : Nat) (inTime : Bool) (s : State) : Res :=
  s.live fun s =>
    if s.pstate port ≠ PS.retraining then s
    else
      if inTime ∧ 4 ≤ ones 8 (s.port port).agreed.toNat then s.portUp port (s.port port).agreed else s.failPort port

/-- PORT_FAILED (R386). -/
def execPortFailed (port : Nat) (s : State) : Res :=
  s.live fun s => if port < 25 ∧ s.pstate port ≠ PS.down ∧ s.pstate port ≠ PS.spareIdle then s.failPort port else s

/-- FOR field of spare `k` (23 or 24). -/
def State.standsFor (s : State) (k : Nat) : Nat := if k = 23 then s.fld rLnkSpare 0 0 9 5 else s.fld rLnkSpare 0 0 14 10

/-- The free spare that takes a port over: in failover mode, standing in for none, P23 first (R386). -/
def State.freeSpare (s : State) : Option Nat :=
  ([23, 24] : List Nat).find? fun k => s.standsFor k == 31 && !s.links.torus.getLsbD (k - 23)

/-- RESYNC for the port at the other end of FAILED port `n` goes out by a route of R389: it names the FSEQ expected next. Neither end knows
what the other has not had acknowledged, so each sends it (R390; DEDUCED, log entry 190). -/
def State.sendResync (s : State) (n : Nat) : State :=
  match s.route (s.portPeer n) 0xffff noSpan noSpan none false with
  | some (m, _) => s.sendMgmtTo m (s.portPeer n) Msg.resync [s.fld rLnkPStatus 0 n 35 31, (s.port n).rx]
  | none => s

/-- Step of the boundary: ports that have failed take spares in ascending order, the peer being told the counter of the first flit
afterwards; one that finds none sends its RESYNC (R386, R390, R391). -/
def State.takeSpares (s : State) : State :=
  let fs := (List.range 25).filter fun n => s.links.failed.contains n && s.pstate n == PS.failed
  let s := fs.foldl (fun s n =>
    match s.freeSpare with
    | some k => (s.setFld rLnkSpare 0 0 (if k = 23 then 9 else 14) (if k = 23 then 5 else 10) n).emit
        (.message "TAKEOVER" n [k, (s.port n).txCtr + 1])
    | none => s.sendResync n) s
  { s with links := { s.links with failed := [] } }

/-- SPARE_TAKEOVER_DONE: the failed port runs on the spare's SerDes with all eight lanes, and the receiver takes the counter of the peer's
first flit (R372, R386, R391); a port that has not authenticated since power-good trains on them first. -/
def execSpareTakeoverDone (t : Takeover) (s : State) : Res :=
  s.live fun s =>
    match ([23, 24] : List Nat).find? fun k => s.standsFor k == t.port with
    | none => s
    | some k =>
      if s.pstate t.port ≠ PS.failed then s
      else
        let s := (s.setFld rLnkPStatus 0 t.port 30 26 k).setFld rLnkPStatus 0 t.port 23 16 0
        if (Tbl.get {} s.sec.auth t.port).tAuth = 0 then s.setPState t.port PS.training
        else (s.upPort t.port fun q => { q with rxCtr := t.counter.toNat - 1 }).portUp t.port 0xff

/-- CREDIT: slots of a channel and class come back; the partitions that held them hold them no longer (R382, R383). -/
def giveBack (k : Nat) : Nat → List (Nat × Nat × Nat) → List (Nat × Nat × Nat)
  | _, [] => []
  | n, (a, p, m) :: t =>
    if a ≠ k then (a, p, m) :: giveBack k n t
    else if m ≤ n then giveBack k (n - m) t
    else (a, p, m - n) :: t

/-- R382. -/
def creditIn (port vc cls slots : Nat) (s : State) : State :=
  if s.pup port then
    s.upPort port fun q =>
      let k := 2 * vc + cls
      { q with credits := Tbl.set 0 q.credits k (Nat.min (vcBuffer vc) (Tbl.get 0 q.credits k + slots)),
               outst := giveBack k slots q.outst }
  else s

/-- R382. -/
def execCredit (port vc cls slots : Nat) (s : State) : Res := s.live (creditIn port vc cls slots)

/-- PORT_STATE: what other modules' ports can do is noted, and told on when it is news (R389). -/
def portStateIn (origin port : Nat) (up : Bool) (s : State) : State :=
  let k := origin * 32 + port
  let known := s.links.down.contains k
  if origin = s.addr ∨ known ≠ up then s
  else
    let s : State := { s with links := { s.links with
      down := if up then s.links.down.filter (· ≠ k) else k :: s.links.down } }
    s.flood origin port up 25

/-- R389. -/
def execPortState (origin : BitVec 12) (port : Nat) (up : Bool) (s : State) : Res :=
  s.live (portStateIn origin.toNat port up)

/-- The packets of a run of flits after the slots `lead`, each with its key slot, and the slots of one that has not ended; a packet never
continues into a flit of another key slot (R376). -/
def keyedPkts (lead : List Slot) (fs : List Flit) : List (Nat × List Slot) × List Slot :=
  fs.foldl (fun r f =>
    let x := parsePkts (r.2.length + f.slots.length) (r.2 ++ f.slots)
    (r.1 ++ x.1.map fun pk => (f.key.toNat, pk), x.2)) ([], lead)

/-- The packets that a FAILED port holds, each with its key slot, in order: those of the replay buffer, the one whose beginning the peer has
acknowledged and the one whose end has not been sent included, then those that wait (R390). -/
def Port.unsent (q : Port) : List (Nat × List Slot) :=
  let r := keyedPkts q.lead q.replay
  let last := match q.cur with
    | some x => [(x.key, r.2 ++ x.slots)]
    | none => []
  r.1 ++ last ++ q.queue.map fun x => (x.key, x.slots)

/-- Does a packet belong to the port it waits at: a message to the peer about the link itself (R395)? -/
def portOwn (pk : List Slot) : Bool :=
  let h := pk.headD 0
  hdr h 3 0 == 5 && ([Msg.credit, Msg.timeReq, Msg.timeRsp, Msg.keyReady, Msg.keyRetire] : List Nat).contains (hdr h 71 64)

/-- RESYNC: the packets of a FAILED port's replay buffer from the peer's expected FSEQ on, then those that waited there, go
over the new route, before the packets that wait there (R390). -/
def resync (n fseq : Nat) (s : State) : State :=
  if s.pstate n ≠ PS.failed ∨ s.standsFor 23 = n ∨ s.standsFor 24 = n then s
  else
    let q := (s.port n).acked fseq
    (q.unsent.filter fun x => !portOwn x.2).reverse.foldl (fun s x => s.relay n x.1 true true x.2)
      (s.upPort n fun _ => { q with replay := [], sent := 0, queue := [], cur := none, lead := [], part := [] })

/-- R390. -/
def execResync (port fseq : Nat) (s : State) : Res := s.live (resync port (fseq % 2048))

/-! ### Keys (R392, R393) -/

/-- The ends of one direction of a link, as the information of a derivation names them: serials of 8 bytes and ports of one (R392, R517).
DEDUCED, log entry 166. -/
def linkEnds (txSerial txPort rxSerial rxPort : Nat) : Bytes := leBytes 8 txSerial ++ leBytes 1 txPort ++ leBytes 8 rxSerial ++ leBytes 1 rxPort

/-- The key and salt of one direction of port `n`: derived from `ikm` and `salt` with the ends as information (R392). -/
def State.portKey (s : State) (n : Nat) (ikm salt : Bytes) (label : String) (tx : Bool) : Bytes :=
  let own := s.mgmt.serial.toNat
  let peer := (Tbl.get {} s.sec.auth n).peer
  let at' := s.fld rLnkPStatus 0 n 35 31
  hkdf ikm salt (ascii label ++ if tx then linkEnds own n peer at' else linkEnds peer at' own n) 36

/-- Key slot `p` of port `n` for the job key of that partition: one key for each direction, and the peer's slot when its KEY_READY for the
same key_id has come already (R392, R393). -/
def State.slotKeys (s : State) (n p keyId : Nat) : KeySlot :=
  let kj := beBytes 32 (Tbl.get {} s.sec.jobKeys (s.pt p).info.keyHandle).key
  let salt := beBytes 32 (Tbl.get {} s.sec.auth n).tAuth
  { keyId := keyId, peer := ((s.port n).ready.find? fun e => e.2 == keyId).map (·.1),
    tx := s.portKey n kj salt "GY9650-HOP" true, rx := s.portKey n kj salt "GY9650-HOP" false }

/-- KEY_READY: the receive key is installed for whichever partition holds the same key_id, now or once a job opens with it, and its sluices
open. -/
def keyReadyIn (port slot keyId : Nat) (s : State) : State :=
  s.upPort port fun q =>
    { q with ready := Tbl.put q.ready slot keyId
             keys := q.keys.map fun e => if e.2.keyId = keyId ∧ e.2.keyId ≠ 0 then (e.1, { e.2 with peer := some slot }) else e }

/-- R393. -/
def execKeyReady (port slot : Nat) (keyId : W64) (s : State) : Res := s.live (keyReadyIn port slot keyId.toNat)

/-- KEY_RETIRE: the peer has erased a key slot. -/
def keyRetireIn (port slot : Nat) (s : State) : State :=
  s.upPort port fun q =>
    { q with ready := Tbl.del q.ready slot
             keys := q.keys.map fun e => if e.2.peer = some slot then (e.1, { e.2 with peer := none }) else e }

/-- R393. -/
def execKeyRetire (port slot : Nat) (s : State) : Res := s.live (keyRetireIn port slot)

/-- A job opens with a link key: each port installs key slot `p` and sends KEY_READY, one that is not UP once it is (R393). -/
def State.installKeys (s : State) (p keyId : Nat) : State :=
  (List.range 25).foldl (fun s n =>
    let s := s.upPort n fun q => { q with keys := Tbl.put q.keys p (s.slotKeys n p keyId) }
    if s.pup n then s.tellKeys n else s) s

/-- At JOB_CLOSE each port erases the slot and sends KEY_RETIRE (R393). -/
def State.retireKeys (s : State) (p : Nat) : State :=
  (List.range 25).foldl (fun s n =>
    if (Tbl.find (s.port n).keys p).isSome then
      let s := s.upPort n fun q => { q with keys := Tbl.del q.keys p, queue := q.queue.filter fun x => x.key ≠ p }
      if s.pup n then s.sendMgmt n Msg.keyRetire [p] else s
    else s) s

/-- key_id of partition `p`'s job; 0 without one. -/
def State.keyId (s : State) (p : Nat) : Nat := (s.pt p).info.keyId

/-! ### The link registers (R381, R384, R387) -/

/-- Sum of six 7-bit fields. -/
def sum6 (v : Nat) : Nat := (List.range 6).foldl (fun t i => t + bits v (7 * i + 6) (7 * i)) 0

/-- LNK_VCW is written (R381). -/
def lnkVcwWrite (v : Nat) (s : State) : State :=
  if sum6 v ≠ 64 then s.setFld rLnkVcw 0 0 63 48 Code.invalidOperand
  else s.logged 0x300018 0 (s.rd rLnkVcw 0 0 % 2 ^ 42) (v % 2 ^ 42)
    (fun s => (s.setFld rLnkVcw 0 0 41 0 v).setFld rLnkVcw 0 0 63 48 Code.done)
    (fun s => s.setFld rLnkVcw 0 0 63 48 Code.resourceHeld)

/-- R381. -/
def execLnkVcwWrite (v : W64) (s : State) : Res := s.live fun s => lnkVcwWrite v.toNat (s.unstage rLnkVcw 0 0)

/-- Would the present partitions' shares with partition `p`'s replaced exceed 64 on some channel? -/
def State.shareOver (s : State) (p v : Nat) : Bool :=
  (List.range 6).any fun i =>
    decide (64 < (List.range s.parts).foldl (fun t q =>
      t + bits (if q = p then v else s.rd rLnkSluicePtn 0 q) (7 * i + 6) (7 * i)) 0)

/-- LNK_SLUICE_PTNp is written (R384). -/
def lnkSluiceWrite (p v : Nat) (s : State) : State :=
  if s.present p = false then s
  else if s.shareOver p v then s.setFld rLnkSluicePtn 0 p 63 48 Code.resourceHeld
  else s.logged (0x300020 + 8 * p) 0 (s.rd rLnkSluicePtn 0 p % 2 ^ 42) (v % 2 ^ 42)
    (fun s => (s.setFld rLnkSluicePtn 0 p 41 0 v).setFld rLnkSluicePtn 0 p 63 48 Code.done)
    (fun s => s.setFld rLnkSluicePtn 0 p 63 48 Code.resourceHeld)

/-- R384. -/
def execLnkSluiceWrite (p : Nat) (v : W64) (s : State) : Res :=
  s.live fun s => lnkSluiceWrite p v.toNat (s.unstage rLnkSluicePtn 0 p)

/-- LNK_SPARE is written: a spare that stands in for a port keeps its mode (R387). -/
def lnkSpareWrite (v : Nat) (s : State) : State :=
  let held := fun (i : Nat) => bits v i i == 1 && s.standsFor (23 + i) != 31
  let new := (if held 0 then s.fld rLnkSpare 0 0 0 0 else bits v 0 0) + 2 * (if held 1 then s.fld rLnkSpare 0 0 1 1 else bits v 1 1)
  let res := if held 0 || held 1 then Code.resourceHeld else Code.done
  if new = s.fld rLnkSpare 0 0 1 0 ∧ res ≠ Code.done then s.setFld rLnkSpare 0 0 31 16 res
  else s.logged 0x300010 0 (s.fld rLnkSpare 0 0 1 0) new
    (fun s => (s.setFld rLnkSpare 0 0 1 0 new).setFld rLnkSpare 0 0 31 16 res)
    (fun s => s.setFld rLnkSpare 0 0 31 16 Code.resourceHeld)

/-- R387. -/
def execLnkSpareWrite (v : W32) (s : State) : Res := s.live (lnkSpareWrite v.toNat)

/-- At the boundary accepted weights, shares and modes take effect, a spare that becomes a torus path trains, and failed
ports take spares (R381, R384, R386, R387). Until phase 9 of bring-up has applied the settings, none of the first does. -/
def State.linksBoundary (s : State) : State :=
  if s.phaseOver 9 = false then s.takeSpares else
  let old := s.links.torus
  let now := BitVec.ofNat 2 (s.fld rLnkSpare 0 0 1 0)
  let shares := (List.range 4).foldl (fun t p => Tbl.set 0 t p (s.fld rLnkSluicePtn 0 p 41 0)) []
  let weights := s.fld rLnkVcw 0 0 41 0
  let ports := if weights = s.links.weights then s.links.ports else s.links.ports.map fun (e : Nat × Port) => (e.1, { e.2 with served := [] })
  let s : State := { s with links := { s.links with ports := ports, weights := weights, torus := now, shares := shares } }
  let s := (List.range 2).foldl (fun s i =>
    if old.getLsbD i = now.getLsbD i then s
    else s.setPState (23 + i) (if now.getLsbD i then PS.training else PS.spareIdle)) s
  s.takeSpares

end Sys2Proof.Machine
end

