-- ==== Sys2Proof/Machine/Time.lean ====
section
/-! DEFINITION. The time base: reads of MGT_BEAT, alignment across modules, the time input on SB3, and timeouts
(R39 to R60, R396, R577 to R579). -/

namespace Sys2Proof.Machine

/-- A 64-bit read of MGT_BEAT: it returns the beat and latches REF_CYCLE (R42). -/
def execMgtBeatRead (s : State) : Res :=
  s.live fun s =>
    (s.wr rMgtBeatFrac 0 0 s.mgmt.refCycle).emit (.readData 0 0x100 8 (BitVec.ofNat 64 s.mgmt.beat))

/-- A time in units of 1/65,536 beat (R56, R396). -/
def stampUnits (t : Stamp) : Int := (t.beat.toNat * 65536 + t.frac.toNat : Nat)

/-- STATE of MGT_TIME_ALIGN takes value `v`, with its event on entry to 0b11 and on return from it to 0b10 (R58, R59). -/
def State.setAlign (s : State) (v : Nat) : State :=
  let old := s.fld rMgtTimeAlign 0 0 31 30
  let s := s.setFld rMgtTimeAlign 0 0 31 30 v
  if old ≠ v ∧ v = 3 then s.raiseM 0x001 (s.rd rMgtTimeAlign 0 0) 0
  else if old = 3 ∧ v = 2 then s.raiseM 0x002 (s.rd rMgtTimeAlign 0 0) 0
  else s

/-- A stamp that the module takes: its own count, with the fraction of the beat at which the symbol crosses the connector, which the
port measures (R56, R396). DESIGN CHOICE, log entry 28. -/
def State.takeStamp (s : State) (frac : BitVec 16) : Stamp := { beat := BitVec.ofNat 64 s.mgmt.beat, frac := frac }

/-- A TIME_REQ arrives at a port: the module answers it with T2, its receipt, and T3, the transmission of the answer
(R396). -/
def timeReqIn (port seq : Nat) (t1 : Stamp) (f2 f3 : BitVec 16) (s : State) : State :=
  let b := s.mgmt.beat % 2 ^ 64
  s.sendMgmt port Msg.timeRsp [seq, 0, t1.beat.toNat, t1.frac.toNat, b, f2.toNat, b, f3.toNat]

/-- R396. -/
def execTimeReq (port seq : Nat) (t1 : Stamp) (f2 f3 : BitVec 16) (s : State) : Res := s.live (timeReqIn port seq t1 f2 f3)

/-- The offset that an exchange yields: half of (T2 − T1) − (T4 − T3), in units of 62.5 ps (R396). -/
def exchangeOffset (t1 t2 t3 t4 : Stamp) : Int := ((stampUnits t2 - stampUnits t1) - (stampUnits t4 - stampUnits t3)) / 2

/-- The path delay that an exchange yields: half of (T4 − T1) − (T3 − T2) (R56, R396). -/
def exchangeDelay (t1 t2 t3 t4 : Stamp) : Int := ((stampUnits t4 - stampUnits t1) - (stampUnits t3 - stampUnits t2)) / 2

/-- OFFSET as the register holds it: the estimate, kept within 16 signed bits (DESIGN CHOICE, log entry 10). -/
def clampOffset (o : Int) : Int := if o < -32768 then -32768 else if 32767 < o then 32767 else o

/-- REF_PORT (R58). -/
def State.refPort (s : State) : Nat := s.fld rMgtTimeAlign 0 0 20 16

/-- A TIME_REQ goes out on REF_PORT every four beats, with T1 (R396); the fraction that the port will measure is a free value. DESIGN
CHOICE, log entry 28. -/
def State.timeReqBoundary (s : State) : State :=
  if s.mgmt.beat % 4 = 0 ∧ s.refPort < 25 ∧ s.fld rLnkPStatus 0 s.refPort 2 0 = 3 then
    let q := (s.mgmt.seq + 1) % 65536
    let r := s.freshW64
    { r.2 with mgmt := { r.2.mgmt with seq := q, awaiting := true } }.sendMgmt s.refPort Msg.timeReq
      [q, 0, s.mgmt.beat % 2 ^ 64, r.1.toNat % 65536, 0, 0, 0, 0]
  else s

/-- A TIME_RSP to the outstanding TIME_REQ arrives, received at T4: the path delay and the offset of the responder are estimated; once
the count is adopted, an offset within ±8 ns (128 units) means aligned (R56, R58, R59, R396). -/
def timeRspIn (port seq : Nat) (t1 t2 t3 : Stamp) (f4 : BitVec 16) (s : State) : State :=
  if s.mgmt.awaiting = false ∨ seq ≠ s.mgmt.seq ∨ port ≠ s.refPort then s
  else
    let t4 := s.takeStamp f4
    let o := exchangeOffset t1 t2 t3 t4
    let s := s.setFld rMgtTimeAlign 0 0 15 0 (ofSigned 16 (clampOffset o))
    let s := { s with boot := { s.boot with exch := s.boot.exch + 1 }, mgmt := { s.mgmt with awaiting := false, delay := exchangeDelay t1 t2 t3 t4 } }
    if s.fld rMgtTimeAlign 0 0 31 30 = 1 ∧ o.natAbs ≤ 128 then s.setAlign 2 else s

/-- R396. -/
def execTimeRsp (port seq : Nat) (t1 t2 t3 : Stamp) (f4 : BitVec 16) (s : State) : Res := s.live (timeRspIn port seq t1 t2 t3 f4)

/-- Move a beat value held from before the adoption by `d`, on the 64-bit count (R57). -/
def rebase (d : Int) (b : Nat) : Nat := (((b : Int) + d) % 2 ^ 64).toNat

/-- An event whose DATA0 names a beat: PPS_MISSED, CUT_TAKEN, CUT_DURABLE, CUT_DEFERRED (R57, R359). -/
def EvRec.rebase (d : Int) (w : EvRec) : EvRec :=
  { w with beat := Machine.rebase d w.beat,
           d0 := if ([0x003, 0x110, 0x111, 0x112] : List Nat).contains w.ev then Machine.rebase d w.d0 else w.d0 }

/-- A journaled completion of a JOB_OPEN that is DONE names the beat of its cut (R57, R345). -/
def JEntry.rebase (d : Int) (e : JEntry) : JEntry :=
  let w := (e.words.getD 3 0).toNat
  if bits w 47 40 = 1 ∧ bits w 31 16 = Code.done then
    { e with words := e.words.set 1 (BitVec.ofNat 64 (Machine.rebase d (e.words.getD 1 0).toNat)) }
  else e

/-- Every beat value that the job's data holds moves with the count (R57). -/
def JobData.rebase (d : Int) (j : JobData) : JobData :=
  let r := Machine.rebase d
  let fl := fun (f : Flight) => { f with beat := r f.beat }
  { j with
    pages := j.pages.map fun e => (e.1, { e.2 with dropAt := r e.2.dropAt })
    cores := j.cores.map fun e => (e.1, { e.2 with comp := e.2.comp.map fl, move := e.2.move.map fl, check := e.2.check.map r })
    runs := j.runs.map fun e => (e.1, { e.2 with start := e.2.start.map r }) }

/-- Those of a step. -/
def StepSt.rebase (d : Int) (t : StepSt) : StepSt :=
  { t with start := Machine.rebase d t.start, opened := t.opened.map (Machine.rebase d),
           fail := t.fail.map fun f => { f with beat := Machine.rebase d f.beat },
           failTile := t.failTile.map fun f => { f with beat := Machine.rebase d f.beat } }

/-- Those of a cut. -/
def CutImg.rebase (d : Int) (c : CutImg) : CutImg :=
  { c with beat := Machine.rebase d c.beat, data := c.data.rebase d, step := c.step.map (·.rebase d) }

/-- Every beat value that the partition holds moves with the count (R57). -/
def Ptn.rebase (d : Int) (q : Ptn) : Ptn :=
  let r := Machine.rebase d
  { q with live := q.live.rebase d, paused := q.paused.map r, pend := q.pend.map (·.rebase d), durable := q.durable.map (·.rebase d),
           older := q.older.map (·.rebase d), saved := q.saved.map (·.rebase d), step := q.step.map (·.rebase d),
           cutTake := q.cutTake.map r, abort := q.abort.map fun a => (a.1, a.2.1, r a.2.2),
           susp := q.susp.map fun a => (a.1, a.2.1, r a.2.2), resume := q.resume.map fun a => (a.1, a.2.1, r a.2.2),
           rollReq := q.rollReq.map fun a => (a.1, r a.2), rolling := q.rolling.map r, flr := q.flr.map r,
           descs := q.descs.map fun x => { x with beat := r x.beat }, journal := q.journal.map (·.rebase d),
           info := { q.info with cutBeat := r q.info.cutBeat },
           col := { q.col with judged := r q.col.judged, groups := q.col.groups.map fun e => (e.1, { e.2 with since := r e.2.since }), ops := q.col.ops.map fun o => { o with armed := o.armed.map r } },
           cutEpoch := r (q.cutEpoch * 2 ^ 20) / 2 ^ 20,
           cutDeferEpoch := q.cutDeferEpoch.map fun e => r (e * 2 ^ 20) / 2 ^ 20 }

/-- Has any partition reported READY since power-good (R57)? -/
def State.anyReady (s : State) : Bool := s.mgmt.everReady

/-- Every beat value that the module holds outside its partitions moves with the count, and every epoch that it holds with the epoch; an entry of the change log takes its new beat, and
HEAD stands (R57; DESIGN CHOICE, log entry 154). -/
def State.rebase (s : State) (d : Int) : State :=
  let r := Machine.rebase d
  let ep := fun (e : Nat) => (((e : Int) + ((r s.mgmt.beat / 2 ^ 20 : Nat) : Int) - (s.epoch : Int)) % 2 ^ 44).toNat
  let s : State := { s with
    mgmt := { s.mgmt with shapeReq := s.mgmt.shapeReq.map fun x => (x.1, r x.2), l4Req := s.mgmt.l4Req.map r,
                          sb3Req := s.mgmt.sb3Req.map fun x => (x.1, r x.2) }
    timers := s.timers.map fun t => { t with armed := r t.armed }
    evq := s.evq.map fun e =>
      (e.1, { e.2 with due := e.2.due.map r, waiting := e.2.waiting.map (·.rebase d) })
    ptn := s.ptn.map fun e => (e.1, e.2.rebase d)
    store := { s.store with stripeBeat := r s.store.stripeBeat, heldUp := r s.store.heldUp,
                            nand := { s.store.nand with stripes := s.store.nand.stripes.map fun e => (e.1, { e.2 with beat := r e.2.beat }) } }
    engines := s.engines.map fun e => (e.1, { e.2 with resetAt := e.2.resetAt.map r, failEpoch := e.2.failEpoch.map ep })
    hbm := { s.hbm with corrected := s.hbm.corrected.map fun x => (x.1, x.2.1, ep x.2.2), ueEpoch := ep s.hbm.ueEpoch }
    links := { s.links with ports := s.links.ports.map fun e => (e.1, { e.2 with auth := (ep e.2.auth.1, e.2.auth.2) }) }
    tel := { s.tel with since := ep s.tel.since }
    log := { s.log with entries := s.log.entries.map fun e => { e with beat := r e.beat } }
    power := { s.power with ladder := s.power.ladder.map fun e => (e.1, { e.2 with since := r e.2.since }) } }
  let s := if s.fld rMgtPpsStatus 0 0 31 31 = 1 then s.wr rMgtPpsBeat 0 0 (r (s.rd rMgtPpsBeat 0 0)) else s
  (List.range 4).foldl (fun s p =>
    if s.rd rMemCutDonePtn 0 p = 0 then s else s.wr rMemCutDonePtn 0 p (r (s.rd rMemCutDonePtn 0 p))) s

/-- COUNT_ADOPTION: in phase 12, after four exchanges and once the neighbour has adopted, the module takes the apiary count,
once, before any partition has been READY; armed timers keep their remaining beats and beat values held are re-based
(R57, R563). -/
def countAdoption (count : Nat) (s : State) : State :=
  if s.mgmt.adopted ∨ s.anyReady ∨ s.phase 12 ≠ 1 ∨ s.boot.exch < 4 ∨ s.boot.nbrs.contains s.refPort = false then s
  else
    let s := s.rebase ((count : Int) - s.mgmt.beat)
    { s with mgmt := { s.mgmt with beat := count, adopted := true, epochSeen := count / 2 ^ 20 } }.setAlign 1

/-- R57. -/
def execCountAdoption (count : W64) (s : State) : Res := s.live (countAdoption count.toNat)

/-- Is the estimated offset beyond ±8 ns (R59)? -/
def State.offBeyond (s : State) : Bool := decide (128 < (toSigned 16 (s.fld rMgtTimeAlign 0 0 15 0)).natAbs)

/-- ALIGNMENT_LOST: the offset has exceeded ±8 ns for 16 consecutive beats (R59). It can be lost while slewing and while aligned, not
while free-running, and beats before the adoption count towards the 16; DESIGN CHOICE, log entry 153. -/
def execAlignmentLost (s : State) : Res :=
  s.live fun s =>
    let st := s.fld rMgtTimeAlign 0 0 31 30
    if (st = 1 ∨ st = 2) ∧ 16 ≤ s.mgmt.drift then s.setAlign 3 else s

/-- ALIGNMENT_REGAINED: slewing has brought the offset back within ±8 ns (R59). -/
def execAlignmentRegained (s : State) : Res :=
  s.live fun s => if s.fld rMgtTimeAlign 0 0 31 30 = 3 ∧ s.offBeyond = false then s.setAlign 2 else s

/-- PPS_EDGE: a rising edge on SB3 while it is the time input latches the beat and the reference cycle (R60, R579). -/
def execPpsEdge (s : State) : Res :=
  s.live fun s =>
    if s.fld rMgtSb3 0 0 1 0 = 1 then
      let s := { s.wr rMgtPpsBeat 0 0 s.mgmt.beat with mgmt := { s.mgmt with ppsMissed := false } }
      (s.setFld rMgtPpsStatus 0 0 31 31 1).setFld rMgtPpsStatus 0 0 9 0 s.mgmt.refCycle
    else s

/-- PPS_MISSED: no edge within 245,000 beats of the previous edge, which is reported once for it (R60). -/
def ppsMissed (s : State) : State :=
  if s.fld rMgtPpsStatus 0 0 31 31 = 1 ∧ s.mgmt.ppsMissed = false ∧ 245000 < s.since (s.rd rMgtPpsBeat 0 0) then
    { (s.setFld rMgtPpsStatus 0 0 30 30 1).raiseM 0x003 (s.rd rMgtPpsBeat 0 0) 0 with mgmt := { s.mgmt with ppsMissed := true } }
  else s

/-- R60. -/
def execPpsMissed (s : State) : Res := s.live ppsMissed

end Sys2Proof.Machine
end

