-- ==== Sys2Proof/Machine/Dispatcher.lean ====
section
/-! DEFINITION. Dispatchers: the parts of a STEP, the accesses with an action of R105, mailboxes, barriers and ticket counters (R92,
R97, R98, R105 to R111, R348, R349). -/

namespace Sys2Proof.Machine

/-! ### Parts of a step (R348, R349) -/

/-- The failure that counts first: lower beat, then cores before dispatchers, then the lower number (R349). -/
def StepFail.before (a b : StepFail) : Bool :=
  decide (a.beat < b.beat) || (a.beat == b.beat &&
    (decide (a.isDisp < b.isDisp) || (a.isDisp == b.isDisp && decide (a.num < b.num))))

/-- The earlier of a failure and the one noted before, if any (R349). -/
def StepFail.first (f : StepFail) (old : Option StepFail) : StepFail :=
  match old with
  | none => f
  | some g => if f.before g then f else g

/-- Note a failing status of the running step. -/
def State.noteFail (s : State) (p : Nat) (f : StepFail) : State :=
  s.upPt p fun q => { q with step := q.step.map fun t =>
    { t with fail := some (f.first t.fail), failTile := if f.isDisp = 0 then some (f.first t.failTile) else t.failTile } }

/-- Note that an instruction of the running step completed REPLAYED (R349). -/
def State.noteReplay (s : State) (p : Nat) : State :=
  s.upPt p fun q => { q with step := q.step.map fun t => { t with replayed := true } }

/-- Has every part ended and every pushed instruction completed (R348)? -/
def State.stepIdle (s : State) (p : Nat) : Bool :=
  ((List.range (4 * s.k)).all fun i => ((s.pt p).live.disp i).ended.isSome) &&
  ((s.pt p).live.cores.all fun e => e.2.idle)

/-- The statuses written back into the manifest in host memory (R346). -/
def manifestWrites (p addr : Nat) (i : Nat) : List Nat → List Output
  | [] => []
  | st :: t => .hostWrite (p + 1) (addr + 16 * i + 4) (leBytes 2 st) :: manifestWrites p addr (i + 1) t

/-- A rollback that is called for will undo the failure that the step would report, so that the report does not reach its completion (R283,
R433). -/
def Ptn.undoing (q : Ptn) (t : StepSt) : Bool :=
  q.rollReq.isSome && (t.fail.map fun f => f.status == Code.uncorrectable).getD false

/-- When the step is over it completes with the fields of R349. An open claim is closed without changing its record,
and the step then has CLAIM_OPEN unless something failed earlier (R152). -/
def State.checkStep (s : State) (p : Nat) : State :=
  match (s.pt p).step with
  | none => s
  | some t =>
    if t.entered = false ∨ s.stepIdle p = false ∨ (s.pt p).undoing t ∨ (s.pt p).paused.isSome ∨ (s.pt p).job ≠ .running ∨
        (t.count ≠ 0 ∧ s.busMaster (p + 1) = false) then s
    else
      let openClaim := (s.pt p).live.cores.any fun e => e.2.claim.isSome
      let d := ((s.pt p).findDesc t.sq t.seq).getD {}
      let status := match t.fail with
        | some f => f.status
        | none => if openClaim then Code.claimOpen
                  else if t.replayed ∨ d.mode ≠ 0 then Code.replayed else Code.done
      let a0 := match ((s.pt p).live.disp 0).ended with
        | some r => r.2.toNat
        | none => 0
      let deferred := (t.statuses.filter (· == Code.deferred)).length
      let detail := Nat.min deferred 65535 * 65536 + (match t.failTile with
        | some f => f.tag * 256 + f.opcode
        | none => 0)
      let s := s.upPt p fun q =>
        { q with step := none, live := { q.live with
            cores := q.live.cores.map fun e => (e.1, { e.2 with claim := none, replay := [] }),
            disps := q.live.disps.map fun e => (e.1, { e.2 with ended := none, running := false }),
            pages := q.live.pages.map fun e => (e.1, { e.2 with placed := false }) } }
      let s := { s with out := (manifestWrites p t.manAddr 0 t.statuses).reverse ++ s.out }
      s.finish p d status 0 a0 detail

/-- The part of dispatcher Dd ends with a status and a result (R348). -/
def State.endPart (s : State) (d status : Nat) (a0 : W64) : State :=
  let p := (s.dispPos d).1
  let s := s.upDisp d fun x => { x with running := false, stall := none, ended := some (status, a0) }
  let s := if status = Code.done then s
    else s.noteFail p { beat := s.mgmt.beat, isDisp := 1, num := (s.dispPos d).2, status := status }
  s.checkStep p

/-- Control code of dispatcher Dd takes an exception, and the firmware ends its part with the status it reports (R102, R348). -/
def State.hartTrap (s : State) (d cause tval status : Nat) : State := (s.upDisp d fun x => x.trap false cause tval).endPart d status 0

/-- Is dispatcher Dd running a part with no access outstanding? -/
def State.hartRuns (s : State) (d : Nat) : Bool :=
  decide (d < 16) && s.present (s.dispPos d).1 && (s.disp d).running && (s.disp d).stall.isNone

/-- And not interrupted for a pre-emption (R104)? -/
def State.hartReady (s : State) (d : Nat) : Bool := s.hartRuns d && (s.pt (s.dispPos d).1).paused.isNone

/-- The hart writes `v` to `rd` and goes on to the next instruction; x0 stays zero (R100). -/
def Disp.retire (x : Disp) (rd : Nat) (v : W64) : Disp :=
  { x with
    x := if rd % 32 = 0 then x.x else Tbl.set 0 x.x (rd % 32) v, pc := x.pc + x.len, stall := none, retired := x.retired + 1,
    minstret := if bits x.mcountinhibit.toNat 2 2 = 1 then x.minstret else x.minstret + 1 }

/-- See `Disp.retire`. -/
def State.retire (s : State) (d rd : Nat) (v : Nat) : State := s.upDisp d fun x => x.retire rd (BitVec.ofNat 64 v)

/-- A row of a running hart: `f` on the state. DESIGN CHOICE, log entry 139. -/
def State.onHart (s : State) (d : Nat) (f : State → State) : Res := s.live fun s => if s.hartReady d then f s else s

/-! ### CORE_TQPUSH (R105, R106) -/

/-- Will a cut fall due at the next boundary: one that software, D or the interval asks for, or one deferred that can be taken (R251)? -/
def State.cutNext (s : State) (p : Nat) : Bool :=
  let q := s.pt p
  q.cutTake.isSome || q.cutEarly || q.cutInit || (q.cutDefer && q.pend.isNone) ||
    ((s.mgmt.beat + 1) % 2 ^ 20 == 0 && s.fld rMemCutPtn 0 p 7 0 != 0 && s.fld rMemCutPtn 0 p 15 8 != 0 &&
      decide (q.cutEpoch + s.fld rMemCutPtn 0 p 15 8 ≤ s.epoch + 1))

/-- A pre-emption takes effect at the next boundary (R105): a cut, a rollback, an abort, an FLR, the end of the job, a shape change or a
suspension has been called for. DESIGN CHOICE, log entry 148. -/
def State.preemptNext (s : State) (p : Nat) : Bool :=
  let q := s.pt p
  s.cutNext p || q.rollReq.isSome || q.abort.isSome || q.flr.isSome || q.endCause.isSome || s.mgmt.shapeReq.isSome ||
    q.descs.any fun x => (x.opcode == 5) && x.start.isSome && !x.done

/-- A pre-emption is pending or in effect in the partition (R106). DESIGN CHOICE, log entry 148. -/
def State.preempted (s : State) (p : Nat) : Bool :=
  (s.pt p).paused.isSome || (s.pt p).job != .running || s.preemptNext p

/-- The result of a push of `v` by dispatcher Dd (R106). -/
def State.pushResult (s : State) (d v : Nat) : Nat :=
  let p := (s.dispPos d).1
  let lc := bits v 47 32
  let off := bits v 17 6
  if s.preempted p then 3
  else if lc / 320 ≠ (s.dispPos d).2 then 2
  else if s.mapped p lc = false then 5
  else if (s.disp d).umode ∧ off < 0x400 then 4
  else if 16 ≤ (s.core p lc).queue.length then 1
  else 0

/-- A push: the descriptor at the DLM offset joins the core's queue, or nothing is pushed (R89, R106). -/
def coreTqpush (d rd v : Nat) (s : State) : State :=
  let r := s.pushResult d v
  let s := if r = 0 then
      let w := BitVec.ofNat 512 ((s.disp d).dlm.rdLe (bits v 17 6 * 64) 64)
      s.upCore (s.dispPos d).1 (bits v 47 32) fun c => { c with queue := c.queue ++ [{ desc := w }] }
    else s
  s.retire d rd r

/-- R106. A push of the firmware runs while a pre-emption is in effect, too, and finds it so. -/
def execCoreTqpush (d rd : Nat) (v : W64) (s : State) : Res :=
  s.live fun s => if s.hartRuns d = false then s else coreTqpush d rd v.toNat s

/-! ### Mailboxes (R92, R93) -/

/-- A post leaves `src` for slot `slot` of core `lc`. -/
def State.post (s : State) (p src lc slot : Nat) (w : W64) : State :=
  s.upJob p fun j => { j with posts := j.posts ++ [{ key := lc * 16 + slot, src := src, word := w }] }

/-- Row and column of a core's cluster in its die (R18). -/
def clusterAt (ph : Nat) : Nat × Nat := (ph / 16 % 128 / 12, ph / 16 % 128 % 12)

/-- The input port of the router at core `ph` by which what comes from core `from_` arrives, in the order of the port table: the core
ports, then north, south, east and west, then the vertical port. A route goes along the row first and then along the column, so it ends
in the column, unless the two clusters share a row (R93, R94). Row 0 is taken to lie north and column 0 west; DESIGN CHOICE, log entry 147. -/
def inputPort (from_ ph : Nat) : Nat :=
  let a := clusterAt from_
  let b := clusterAt ph
  if from_ / 2048 ≠ ph / 2048 then 20
  else if a = b then from_ % 16
  else if a.1 < b.1 then 16
  else if b.1 < a.1 then 17
  else if b.2 < a.2 then 18
  else 19

/-- The port by which a post arrives: that of its route from a core; a post of a dispatcher, a barrier or a link engine comes by the
vertical port (DESIGN CHOICE, log entry 147). -/
def State.postPort (s : State) (p lc : Nat) (m : Post) : Nat :=
  if m.src < 8192 then inputPort ((s.phys p m.src).getD 0) ((s.phys p lc).getD 0) else 20

/-- CORE_MBOX_POST: CORE_MBOX_DATA goes to a slot of a mapped core of the partition. -/
def coreMboxPost (d rd v : Nat) (s : State) : State :=
  let p := (s.dispPos d).1
  let lc := bits v 47 32
  if s.mapped p lc then (s.post p (8192 + (s.dispPos d).2) lc (bits v 3 0) (s.disp d).mboxData).retire d rd Code.done
  else s.retire d rd Code.invalidOperand

/-- R93. -/
def execCoreMboxPost (d rd : Nat) (v : W64) (s : State) : Res := s.onHart d fun s => coreMboxPost d rd v.toNat s

/-- Take the first element whose key is `k`. -/
def takeFirst {α : Type} (k : Nat) : List (Nat × α) → Option (α × List (Nat × α))
  | [] => none
  | (a, v) :: t => if a = k then some (v, t) else (takeFirst k t).map fun r => (r.1, (a, v) :: r.2)

/-- A post arrives: WORD is set, COUNT rises to at most 65,535, and a post that finds it there sets OVF (R92). -/
def Core.receive (c : Core) (slot : Nat) (w : W64) : Core :=
  let n := Tbl.get 0 c.mboxCount slot
  { c with mboxWord := Tbl.set 0 c.mboxWord slot w, mboxCount := Tbl.set 0 c.mboxCount slot (satAdd 65535 n 1),
           ovf := if n = 65535 then c.ovf ||| (1#16 <<< slot) else c.ovf }

/-- Posts to `key` whose place among the posts to it is in `who`, and the posts that stay in flight; `n` counts the places. -/
def splitPosts (key : Nat) (who : List Nat) (n : Nat) : List Post → List Post × List Post
  | [] => ([], [])
  | m :: t =>
    if m.key = key then
      let r := splitPosts key who (n + 1) t
      if who.contains n then (m :: r.1, r.2) else (r.1, m :: r.2)
    else
      let r := splitPosts key who n t
      (r.1, m :: r.2)

/-- Insert by ascending port, behind equals. -/
def insertPort (f : Post → Nat) (m : Post) : List Post → List Post
  | [] => [m]
  | x :: t => if f m < f x then m :: x :: t else x :: insertPort f m t

/-- One post is applied: the slot receives it, and one that finds COUNT full raises MAILBOX_OVERFLOW (R92). -/
def State.applyPost (s : State) (p lc slot : Nat) (w : W64) : State :=
  let full := Tbl.get 0 (s.core p lc).mboxCount slot = 65535
  let s := s.upCore p lc fun c => c.receive slot w
  if full then s.raiseP p 0x120 lc slot else s

/-- MAILBOX_POST: the posts that reach the slot in one fabric cycle are applied in ascending order of their input ports (R92, R93). -/
def mailboxPost (p lc slot : Nat) (who : List Nat) (s : State) : State :=
  let r := splitPosts (lc * 16 + slot) who 0 (s.pt p).live.posts
  let now := r.1.foldl (fun l m => insertPort (s.postPort p lc) m l) []
  now.foldl (fun s m => s.applyPost p lc slot m.word) (s.upJob p fun j => { j with posts := r.2 })

/-- R92. -/
def execMailboxPost (p lc : Nat) (a : MboxArrivals) (s : State) : Res :=
  s.live fun s => if a.slot < 16 ∧ s.mapped p lc then mailboxPost p lc a.slot a.who s else s

/-- CORE_MBOX_OVF: read and clear the overflow bits of a core (R92, R105). -/
def coreMboxOvf (d rd v : Nat) (s : State) : State :=
  let p := (s.dispPos d).1
  let lc := bits v 47 32
  if s.mapped p lc then
    let o := (s.core p lc).ovf.toNat
    (s.upCore p lc fun c => { c with ovf := 0 }).retire d rd (Code.done * 65536 + o)
  else s.retire d rd (Code.invalidOperand * 65536)

/-- R92. -/
def execCoreMboxOvf (d rd : Nat) (v : W64) (s : State) : Res := s.onHart d fun s => coreMboxOvf d rd v.toNat s

/-! ### Completion counters (R107, R108) -/

/-- Has counter `c` reached the target (R108)? -/
def Disp.reached (x : Disp) (c : Nat) (target : W32) : Bool :=
  !(((Tbl.get 0 x.ccnt c).setWidth 32 - target).getLsbD 31)

/-- CORE_CCWAIT: return DONE at once, or stall with a timeout when one is named. -/
def coreCcwait (d rd : Nat) (v : Nat) (s : State) : State :=
  let c := bits v 45 40
  let target := BitVec.ofNat 32 (bits v 31 0)
  let t := bits v 63 48
  if (s.disp d).reached c target then s.retire d rd Code.done
  else
    let s := s.upDisp d fun x => { x with stall := some (.ccwait rd c target t) }
    if t = 0 then s else s.arm (.ccwait d) t

/-- R108. -/
def execCoreCcwait (d rd : Nat) (v : W64) (s : State) : Res := s.onHart d fun s => coreCcwait d rd v.toNat s

/-- Has the timeout of dispatcher Dd fallen due (R51)? -/
def State.timerDue (s : State) (d : Nat) : Bool := s.timers.any fun t => t.kind == .ccwait d && t.due

/-- A stalled CORE_CCWAIT whose counter has reached its target returns DONE, unless its timeout has fired (R51, R108). -/
def State.wakeCcwait (s : State) (d : Nat) : State :=
  match (s.disp d).stall with
  | some (.ccwait rd c target _) =>
    if (s.disp d).reached c target ∧ s.timerDue d = false ∧ (s.pt (s.dispPos d).1).paused = none then
      (s.disarm (.ccwait d)).retire d rd Code.done
    else s
  | _ => s

/-- Completion counter `c` of the dispatcher that serves core `lc` rises by one (R107). -/
def State.bumpCcnt (s : State) (p lc c : Nat) : State :=
  let d := p * 4 * s.k + lc / 320
  (s.upDisp d fun x => { x with ccnt := Tbl.set 0 x.ccnt c (Tbl.get 0 x.ccnt c + 1) }).wakeCcwait d

/-- TIMEOUT: an armed timeout that a boundary has found due fires: its CORE_CCWAIT returns TIMEOUT (R50, R108). -/
def timeoutFires (n : Nat) (s : State) : State :=
  match s.timers[n]? with
  | none => s
  | some t =>
    if t.due = false then s
    else match t.kind with
      | .ccwait d =>
        let s := { s with timers := s.timers.eraseIdx n }
        match (s.disp d).stall with
        | some (.ccwait rd _ _ _) => s.retire d rd Code.timeout
        | _ => s

/-- R50. -/
def execTimeout (n : Nat) (s : State) : Res := s.live (timeoutFires n)

/-- Step 2 of a boundary: every timeout that is due fires, the oldest first (R43, R50). -/
def State.fireTimers (s : State) : Nat → State
  | 0 => s
  | fuel + 1 => match s.timers.findIdx? (·.due) with
    | some n => (timeoutFires n s).fireTimers fuel
    | none => s

/-! ### Barriers (R97, R98) -/

/-- Is core `lc` a participant of the context? DEDUCED, log entry 127. -/
def Bar.hasCore (b : Bar) (lc : Nat) : Bool := b.valid && b.parts % 2 == 1 && (b.whole || lc / 1280 == b.die)

/-- Is the dispatcher at position `i` a participant? -/
def Bar.hasDisp (b : Bar) (i : Nat) : Bool := b.valid && b.parts / 2 == 1 && (b.whole || i / 4 == b.die)

/-- Number of participants of a context in a partition of `k` dies. -/
def Bar.size (b : Bar) (k : Nat) : Nat :=
  if b.valid then (if b.whole then k else 1) * ((if b.parts % 2 = 1 then 1280 else 0) + (if b.parts / 2 = 1 then 4 else 0))
  else 0

/-- An arrival of participant `who` (a core, or 8,192 + a dispatcher) for generation `g`: it counts, is held for the
next generation, or is discarded (R98). -/
def Bar.arrive (b : Bar) (who : Nat) (g : W32) (slot : Nat) : Bar :=
  if g = b.gen ∧ who ∉ b.arrived then { b with arrived := who :: b.arrived, slot := Tbl.put b.slot who slot }
  else if g = b.gen + 1 ∧ who ∉ b.next then { b with next := who :: b.next, nextSlot := Tbl.put b.nextSlot who slot }
  else b

/-- The context after its release. -/
def Bar.released (b : Bar) : Bar :=
  { b with gen := b.gen + 1, arrived := b.next, slot := b.nextSlot, next := [], nextSlot := [] }

/-- A waiting CORE_BARRIER returns the released generation. -/
def Disp.release (x : Disp) (ctx : Nat) (g : W32) : Disp :=
  match x.stall with
  | some (.barrier rd c g') => if c = ctx ∧ g' = g then { x.retire rd (BitVec.ofNat 64 (g.toNat * 65536)) with barSent := none } else x
  | _ => x

/-- When every participant has arrived, the context releases them: each core gets the generation at the slot it named,
each waiting dispatcher its result (R97, R135). -/
def State.releaseBar (s : State) (p ctx : Nat) : State :=
  let b := (s.pt p).live.bar ctx
  if b.size s.k = 0 ∨ b.arrived.length < b.size s.k then s
  else
    let cores := b.arrived.reverse.filter (· < 8192)
    let s := cores.foldl (fun s lc => s.post p (16384 + ctx) lc (Tbl.get 0 b.slot lc) (b.gen.setWidth 64)) s
    let paused := (s.pt p).paused.isSome
    s.upJob p fun j =>
      { j.upBar ctx (fun b => b.released) with
        disps := if paused then j.disps else j.disps.map fun e => (e.1, e.2.release ctx b.gen) }

/-- BARRIER_ARRIVAL: the oldest arrival in flight reaches the context (R98). -/
def barrierArrival (p ctx : Nat) (s : State) : State :=
  match takeFirst ctx (s.pt p).live.arrivals with
  | none => s
  | some ((who, g, slot), rest) =>
    let s := s.upJob p fun j => { j.upBar ctx (fun b => b.arrive who g slot) with arrivals := rest }
    (s.releaseBar p ctx).releaseBar p ctx

/-- R98. -/
def execBarrierArrival (p ctx : Nat) (s : State) : Res := s.live (barrierArrival p ctx)

/-- An arrival leaves for a context. -/
def State.sendArrival (s : State) (p ctx who : Nat) (g : W32) (slot : Nat) : State :=
  s.upJob p fun j => { j with arrivals := j.arrivals ++ [(ctx, who, g, slot)] }

/-- CORE_BARRIER: send this dispatcher's arrival, with the generation it keeps, and wait for the release (R98). -/
def coreBarrier (d rd ctx : Nat) (s : State) : State :=
  let p := (s.dispPos d).1
  let i := (s.dispPos d).2
  let b := (s.pt p).live.bar ctx
  if b.hasDisp i = false then s.retire d rd Code.invalidOperand
  else
    let g := Tbl.get 0 (s.disp d).barGen ctx
    let s := s.upDisp d fun x =>
      { x with stall := some (.barrier rd ctx g), barGen := Tbl.set 0 x.barGen ctx (g + 1), barSent := some (ctx, g) }
    s.sendArrival p ctx (8192 + i) g 0

/-- R98. -/
def execCoreBarrier (d rd : Nat) (v : W64) (s : State) : Res := s.onHart d fun s => coreBarrier d rd (bits v.toNat 2 0) s

/-- When issue resumes, the firmware restores the U-mode state and returns to it, and stalled accesses are re-executed: a counter wait tests its counter and arms its timeout
again; a barrier wait whose generation was released meanwhile returns it, without a second arrival (R98, R104). -/
def State.resumeHart (s : State) (d : Nat) : State :=
  let p := (s.dispPos d).1
  let s := s.upDisp d fun x =>
    let x := { x with mip := x.mip &&& ~~~ (1#64 <<< 16) }
    if x.running ∧ x.umode = false then x.mret else x
  match (s.disp d).stall with
  | some (.ccwait rd c target t) =>
    if (s.disp d).reached c target then s.retire d rd Code.done
    else if t = 0 then s else s.arm (.ccwait d) t
  | some (.barrier rd ctx g) =>
    let gen := ((s.pt p).live.bar ctx).gen
    if gen ≠ g ∧ (gen - g).toNat < 2 ^ 31 then s.retire d rd (g.toNat * 65536) else s
  | none => s

/-- At a pre-emption the hart takes local interrupt 16: mip bit 16 is set, a hart that runs control code, with the interrupt enabled in mie, traps into the firmware, its
reservation is lost, and a stalled access is left to be re-executed (R104, R284). -/
def State.interruptHart (s : State) (d : Nat) : State :=
  (s.upDisp d fun x =>
    let x := { x with mip := x.mip ||| (1#64 <<< 16), resv := none }
    if x.running ∧ x.umode ∧ bits x.mie.toNat 16 16 = 1 then x.trap true 16 0 else x).disarm (.ccwait d)

/-! ### Ticket counters (R109 to R111) -/

/-- ticket_faa: EXHAUSTED and OLD, and the counter after (R110). -/
def Ticket.faa (t : Ticket) (n : Nat) : Nat × Ticket :=
  if t.limit.toNat ≤ t.value.toNat then (2 ^ 63 + t.value.toNat % 2 ^ 63, t)
  else (t.value.toNat % 2 ^ 63, { t with value := BitVec.ofNat 64 (Nat.min (t.value.toNat + n) t.limit.toNat) })

/-- Ticket counter `i` of a job. -/
def JobData.ticket (j : JobData) (i : Nat) : Ticket := Tbl.get {} j.tickets i

/-- Does a word of counter `i` read uncorrectable (R281)? -/
def JobData.tktFails (j : JobData) (i : Nat) : Bool := j.tktBad.contains (2 * i) || j.tktBad.contains (2 * i + 1)

/-- Does index `i` name a base die of the partition (R109)? -/
def State.tktOk (s : State) (i : Nat) : Bool := decide (i / 4096 < s.k)

/-- An operation on a ticket word that reads uncorrectable is not performed: the event is raised and a rollback called for (R281, R283,
R434). -/
def State.meetTktBad (s : State) (p i : Nat) : State :=
  (s.raiseM 0x013 (p * s.k + i / 4096) (i % 4096 * 16)).wantRollback p 4

/-- CORE_TKT_FAA on the selected counter. An index outside the partition is an access fault that the firmware reports
as INVALID_OPERAND; a counter that reads uncorrectable ends the part with UNCORRECTABLE and rolls back (R109, R283). -/
def coreTktFaa (d rd n : Nat) (s : State) : State :=
  let p := (s.dispPos d).1
  let i := bits (s.disp d).tktSel.toNat 13 0
  if s.tktOk i = false then s.hartTrap d Cause.storeAccess 0 Code.invalidOperand
  else if (s.pt p).live.tktFails i then (s.meetTktBad p i).hartTrap d Cause.loadAccess 0 Code.uncorrectable
  else
    let r := ((s.pt p).live.ticket i).faa n
    (s.upJob p fun j => { j with tickets := Tbl.put j.tickets i r.2 }).retire d rd r.1

/-- R110. -/
def execCoreTktFaa (d rd : Nat) (v : W64) (s : State) : Res :=
  s.onHart d fun s => coreTktFaa d rd (bits v.toNat 31 0) s

/-! ### ECALL (R102, R348) -/

/-- ECALL traps into the firmware: with a7 = 0 it ends the part with result a0, and any other a7 ends it as a failure (R102, R348;
DESIGN CHOICE, log entry 14). -/
def State.hartEcall (s : State) (d : Nat) (a7 a0 : W64) : State :=
  let s := s.upDisp d fun x => x.trap false (if x.umode then Cause.ecallU else Cause.ecallM) 0
  if a7 = 0 then s.endPart d Code.done a0 else s.endPart d Code.invalidOperand 0

/-- R348. -/
def execEcall (d : Nat) (a7 a0 : W64) (s : State) : Res := s.onHart d fun s => s.hartEcall d a7 a0

end Sys2Proof.Machine
end

