-- ==== Sys2Proof/Machine/Nand.lean ====
section
/-! DEFINITION. The NAND of the store carrier: the log of units in stripes, page images, the burst region, blocks and their wear, the read
ladder, relocation and rebuild (R286 to R297, R301). -/

namespace Sys2Proof.Machine

/-! ### Blocks (R286, R292, R301) -/

/-- Key of the block at place `b` of package `m`. -/
def nandKey (m b : Nat) : Nat := m * 98304 + b

/-- Block places of a package: 6,144 to a die. -/
def State.blkPlaces (s : State) : Nat := (if s.store.variant32 then 16 else 8) * 6144

/-- Pages of a block: in pSLC mode one third of what it holds in TLC mode. -/
def blkPages (pslc : Bool) : Nat := if pslc then 682 else 2048

/-- The block at place `b` of package `m`. -/
def Nand.block (n : Nand) (m b : Nat) : NandBlock := Tbl.get {} n.blocks (nandKey m b)

/-- That block becomes `f` of itself. -/
def Nand.upBlock (n : Nand) (m b : Nat) (f : NandBlock → NandBlock) : Nand :=
  { n with blocks := Tbl.set {} n.blocks (nandKey m b) (f (n.block m b)) }

/-- What the store controller keeps becomes `f` of itself. -/
def State.upNand (s : State) (f : Nand → Nand) : State := { s with store := { s.store with nand := f s.store.nand } }

/-- Packages declared lost (R293). -/
def State.lostPkgs (s : State) : List Nat := (List.range 16).filter fun m => s.fld rStoHealth 0 0 (40 + m) (40 + m) == 1

/-- Is the store writable (R294, R302)? -/
def State.storeWritable (s : State) : Bool :=
  let st := s.fld rStoHealth 0 0 3 0
  st == 1 || st == 2 || st == 3

/-- The average P/E count in TLC-mode cycles: that of the mount, and what has been erased since (R286, R301). -/
def State.avgPe (s : State) : Nat := s.store.avgPe + s.store.nand.thirds / (3 * 16 * s.blkPlaces)

/-- Is the place in use, or a block of it retired? -/
def Nand.taken (n : Nand) (b : Nat) : Bool :=
  (n.used.any fun u => u.1 == b) || n.blocks.any fun e => e.1 % 98304 == b && e.2.retired

/-- The first erased place from `b` on, among `places`. DESIGN CHOICE, log entry 158. -/
def Nand.erased (n : Nand) (places : Nat) : Nat → Nat → Nat
  | 0, b => b % places
  | fuel + 1, b => if n.taken (b % places) then n.erased places fuel (b + 1) else b % places

/-- The next page to write in a mode, taken from the block in use or from an erased one. -/
def Nand.nextPage (n : Nand) (places : Nat) (pslc : Bool) : Nand × (Nat × Nat) :=
  let now := if pslc then n.pslc else n.tlc
  let go : Nand × (Nat × Nat) :=
    if now.2 < blkPages pslc then (n, now)
    else
      let b := n.erased places (n.used.length + n.blocks.length + 1) n.nextBlk
      ({ n with nextBlk := b + 1, used := n.used ++ [(b, pslc)] }, (b, 0))
  let next := (go.2.1, go.2.2 + 1)
  (if pslc then { go.1 with pslc := next } else { go.1 with tlc := next }, go.2)

/-! ### Stripes (R288, R293) -/

/-- Packages that hold a unit of the stripe, in ascending order. -/
def Stripe.pkgs (t : Stripe) : List Nat := (List.range 16).filter fun m => !t.out.contains m

/-- Package of the parity unit of stripe `k`: it rotates from stripe to stripe. DESIGN CHOICE, log entry 158. -/
def Stripe.parity (t : Stripe) (k : Nat) : Nat := t.pkgs.getD (k % t.pkgs.length) 0

/-- Package of data unit `j` of stripe `k`. -/
def Stripe.pkgOf (t : Stripe) (k j : Nat) : Nat := (t.pkgs.filter (· != t.parity k)).getD j 0

/-- Data units of a stripe: 15, and fewer once packages are lost. -/
def Stripe.width (t : Stripe) : Nat := t.pkgs.length - 1

/-- The stripe that is being written. -/
def Nand.openStripe (n : Nand) : Option (Nat × Stripe) := n.stripes.find? fun e => !e.2.closed

/-- Is the stripe complete, its parity programmed? -/
def Nand.closed (n : Nand) (k : Nat) : Bool := ((Tbl.find n.stripes k).map (·.closed)).getD true

/-- Capacity of the burst region in bytes (R286). -/
def State.burstSize (s : State) : Nat := if s.store.variant32 then 512000000000 else 256000000000

/-- Bytes of data that the burst region holds (R287). -/
def Nand.burstUsed (n : Nand) : Nat := (n.stripes.filter fun e => e.2.pslc).length * 245760

/-- Has the burst region room for a page (R287)? -/
def State.burstRoom (s : State) : Bool := decide (s.store.nand.burstUsed + 262144 ≤ s.burstSize)

/-- What the TLC blocks take in a beat: 15 or 30 GB/s (R287). -/
def State.tlcRate (s : State) : Nat := if s.store.variant32 then 122880 else 61440

/-- A data unit is appended to the log: to the open stripe, which closes with its parity when it is full, or to a new one, in the burst
region while that has room (R287, R288). -/
def State.addUnit (s : State) (u : Option (Nat × Nat)) : State × (Nat × Nat) :=
  let n := s.store.nand
  match n.openStripe with
  | some (k, t) =>
    let t' : Stripe := { t with units := t.units ++ [u], closed := t.width ≤ t.units.length + 1 }
    (s.upNand fun n => { n with stripes := Tbl.put n.stripes k t' }, (k, t.units.length))
  | none =>
    let k := n.nextStripe
    let pslc := s.burstRoom
    let r := n.nextPage s.blkPlaces pslc
    let t : Stripe := { blk := r.2.1, row := r.2.2, pslc := pslc, out := s.lostPkgs, units := [u], beat := s.mgmt.beat }
    ({ s with store := { s.store with stripeBeat := s.mgmt.beat,
                                      nand := { r.1 with stripes := Tbl.put r.1.stripes k t, nextStripe := k + 1 } } }, (k, 0))

/-- The open stripe is closed with padding, and its parity programmed (R289). -/
def Nand.padStripe (n : Nand) : Nand :=
  match n.openStripe with
  | some (k, t) =>
    let t' : Stripe := { t with units := t.units ++ List.replicate (t.width - t.units.length) none, closed := true }
    { n with stripes := Tbl.put n.stripes k t' }
  | none => n

/-! ### Page images (R288, R289) -/

/-- Units `pos` on of image `i`, `fuel` of them, are appended to the log. -/
def State.addUnits (s : State) (i : Nat) : Nat → Nat → State × List (Nat × Nat)
  | 0, _ => (s, [])
  | fuel + 1, pos =>
    let r := s.addUnit (some (i, pos))
    let t := r.1.addUnits i fuel (pos + 1)
    (t.1, r.2 :: t.2)

/-- A new image of page `n` of partition `p` is programmed: 16 consecutive data units of the log, and its translation journal record is
sent. The answer is the image's number. -/
def State.putImage (s : State) (p n : Nat) : State × Nat :=
  let i := s.store.nand.nextImg
  let r := s.addUnits i 16 0
  let s := r.1.upNand fun x =>
    { x with imgs := Tbl.put x.imgs i { p := p, n := n, seq := x.nextSeq, units := r.2 }, nextImg := i + 1, nextSeq := x.nextSeq + 16 }
  (s.sendRecord (.cap p n) [], i)

/-- Have an image's units been programmed, with the parity of every stripe they occupy, and its record been acknowledged (R289)? -/
def State.imgAcked (s : State) (i : Nat) : Bool :=
  match Tbl.find s.store.nand.imgs i with
  | some g => (g.units.all fun u => s.store.nand.closed u.1) && !s.store.records.contains (JRec.cap g.p g.n)
  | none => false

/-- Images that job data names. -/
def JobData.namesImg (j : JobData) (i : Nat) : Bool := j.pages.any fun e => e.2.img == i

/-- Images that a cut holds. -/
def CutImg.namesImg (c : CutImg) (i : Nat) : Bool := c.data.namesImg i || c.save.contains i

/-- Is the image a page's home, held by a cut, or on its way to the store (R255)? -/
def State.imgHeld (s : State) (i : Nat) : Bool :=
  (s.store.writes.any fun w => w.img == some i) || (s.store.guests.any fun g => g.img == i || g.old == some i) || s.ptn.any fun e =>
    e.2.live.namesImg i || (e.2.pend.toList ++ e.2.durable.toList ++ e.2.saved.toList ++ e.2.older).any fun c => c.namesImg i

/-! ### Erase, drain and retirement (R286, R287, R292, R297) -/

/-- The block at place `b` of every package that is not lost is erased: a third of a cycle in pSLC mode (R286). -/
def Nand.erase (n : Nand) (lost : List Nat) (b : Nat) (pslc : Bool) : Nand :=
  ((List.range 16).filter fun m => !lost.contains m).foldl (fun n m =>
    { n.upBlock m b fun x => { x with erases := x.erases + 1, step4 := none, thresholds := 0, rewrite := false } with
      thirds := n.thirds + if pslc then 1 else 3 }) n

/-- Images that nothing holds are freed, with relocations of them, stripes that hold no data any more, and blocks that hold no stripe,
which are erased; a command's reads end with it (R255, R297). -/
def State.collect (s : State) : State :=
  let n := s.store.nand
  let imgs := n.imgs.filter fun e => s.imgHeld e.1
  let reloc := n.reloc.filter fun r => (Tbl.find imgs r.img).isSome
  let live := (imgs.flatMap fun e => e.2.units.map (·.1)) ++ reloc.flatMap fun r => r.moves.map fun x => x.2.1
  let stripes := n.stripes.filter fun e => !e.2.closed || live.contains e.1
  let gone := n.used.filter fun u => u.1 != n.tlc.1 && u.1 != n.pslc.1 && !stripes.any fun e => e.2.blk == u.1
  let n := { n with imgs := imgs, reloc := reloc, stripes := stripes, used := n.used.filter fun u => !gone.contains u }
  s.upNand fun _ => gone.foldl (fun n u => n.erase s.lostPkgs u.1 u.2) n

/-- The burst region drains while writes arrive below the TLC rate: a stripe moves to TLC blocks for every stripe's worth of that rate
(R287). -/
def State.drainBurst (s : State) (wrote : Nat) : State :=
  let n := s.store.nand
  match n.stripes.find? fun e => e.2.pslc && e.2.closed with
  | none => s.upNand fun n => { n with drained := 0 }
  | some (k, t) =>
    if s.tlcRate ≤ wrote ∨ s.storeWritable = false then s
    else if n.drained + s.tlcRate < 245760 then s.upNand fun n => { n with drained := n.drained + s.tlcRate }
    else
      let r := n.nextPage s.blkPlaces false
      s.upNand fun _ =>
        { r.1 with stripes := Tbl.put r.1.stripes k { t with blk := r.2.1, row := r.2.2, pslc := false, beat := s.mgmt.beat },
                   drained := n.drained + s.tlcRate - 245760 }

/-- SPARE_MIN: percent of the spare blocks left in the die that has the fewest (R292). -/
def State.spareMin (s : State) : Nat :=
  s.store.spares.foldl (fun m e => if e.2.1 = 0 then m else Nat.min m (e.2.2 * 100 / e.2.1)) 100

/-- The block at place `b` of package `m` is retired: its die has one spare block less, and what was being written there goes to another
block (R292). -/
def State.retireBlock (s : State) (m b : Nat) : State :=
  if 16 ≤ m ∨ s.blkPlaces ≤ b ∨ (s.store.nand.block m b).retired then s
  else
    let s := s.upNand fun n => n.upBlock m b fun x => { x with retired := true }
    let d := m * 16 + b / 6144
    let t := Tbl.get (0, 0) s.store.spares d
    let s := { s with store := { s.store with spares := Tbl.set (0, 0) s.store.spares d (t.1, t.2 - 1) } }
    let s := s.setFld rStoHealth 0 0 63 56 s.spareMin
    let n := s.store.nand
    let n := { n with tlc := if n.tlc.1 = b then (b, 2048) else n.tlc, pslc := if n.pslc.1 = b then (b, 682) else n.pslc }
    match n.openStripe with
    | some (k, t) =>
      if t.blk = b then
        let r := n.nextPage s.blkPlaces t.pslc
        s.upNand fun _ => { r.1 with stripes := Tbl.put r.1.stripes k { t with blk := r.2.1, row := r.2.2 } }
      else s.upNand fun _ => n
    | none => s.upNand fun _ => n

/-! ### The read ladder (R288, R290, R291) -/

/-- A codeword: 4,096 data bytes, 32 metadata bytes and 420 parity bytes (R290). -/
def codeword (data info : Bytes) : Bytes := data ++ info ++ Config.ldpcParity (data ++ info)

/-- Is it one? -/
def isCodeword (c : Bytes) : Bool := c.length == 4548 && c == codeword (c.take 4096) ((c.drop 4096).take 32)

/-- CRC-32C of a unit: over its data, its store page number, its position in the page and its log sequence number (R288). DESIGN CHOICE, log
entry 158. -/
def unitCrc (data : Bytes) (n pos seq : Nat) : W32 := crc32c (data ++ leBytes 8 n ++ leBytes 1 pos ++ leBytes 8 seq)

/-- Does a read decode: four codewords, and the CRC, held in the first four metadata bytes, of the unit that is read; a unit that holds no
page's data is held to the codewords alone (R288, R290)? -/
def decodes (id : Option (Nat × Nat × Nat)) : Decoded → Bool
  | .fails => false
  | .words cws _ =>
    cws.length == 4 && cws.all isCodeword && match id with
      | none => true
      | some (n, pos, seq) =>
        leNat (((cws.headD []).drop 4096).take 4) == (unitCrc (cws.flatMap fun c => c.take 4096) n pos seq).toNat

/-- Errors corrected in the worst codeword. -/
def errorsOf : Decoded → Nat
  | .fails => 0
  | .words _ e => e

/-- The step of the first three that decodes a unit, with the threshold set that did: the block's own thresholds, its seven sets, that which
last succeeded first, and the soft decision; step 0 when none does (R291). -/
def stepOf (r : UnitReads) (id : Option (Nat × Nat × Nat)) (first : Nat) : Nat × Nat :=
  if decodes id r.hard then (1, first)
  else match (first :: (List.range 7).filter (· != first)).find? fun k => decodes id (r.sets.getD k .fails) with
    | some k => (2, k)
    | none => if decodes id r.soft then (3, first) else (0, first)

/-- What data unit `j` of a stripe holds, as its page, position and log sequence number; none for padding and for data that has been freed. -/
def Nand.unitId (n : Nand) (t : Stripe) (j : Nat) : Option (Nat × Nat × Nat) :=
  match t.units.getD j none with
  | some (i, pos) => (Tbl.find n.imgs i).map fun g => (g.n, pos, g.seq + pos)
  | none => none

/-- STO_ERR counts `c` units more in its field at `hi`:`lo`. -/
def State.countStore (s : State) (hi lo c : Nat) : State :=
  s.setFld rStoErr 0 0 hi lo (satAdd (2 ^ (hi + 1 - lo) - 1) (s.fld rStoErr 0 0 hi lo) c)

/-- The other units of stripe `k` that step 4 reads, as their package and their data unit, none for the parity. -/
def Stripe.others (t : Stripe) (k j : Nat) : List (Nat × Option Nat) :=
  (t.pkgs.filter (· != t.pkgOf k j)).map fun m =>
    (m, if m = t.parity k then none else some (((t.pkgs.filter (· != t.parity k)).takeWhile (· != m)).length))

/-- A unit is read through the ladder; the answer is the step that ends it, 5 when none gives the data. RETRIED counts units that go beyond
step 1, REBUILT those that step 4 gives, UNRECOVERED the rest; a second unit of a block that needs step 4 in its P/E cycle retires the block
(R291, R292). DESIGN CHOICE, log entry 158. -/
def State.readUnit (s : State) (u : Nat × Nat) (r : LadderIn) : State × Nat :=
  let n := s.store.nand
  match Tbl.find n.stripes u.1 with
  | none => (s, 1)
  | some t =>
    let m := t.pkgOf u.1 u.2
    let gone := s.lostPkgs.contains m
    let own := if gone then (0, 0) else stepOf r.unit (n.unitId t u.2) (n.block m t.blk).thresholds
    if own.1 = 1 then (s, 1)
    else
      let s := if gone then s else s.countStore 63 32 1
      if own.1 = 2 then (s.upNand fun n => n.upBlock m t.blk fun b => { b with thresholds := own.2 }, 2)
      else if own.1 = 3 then (s, 3)
      else
        let steps := ((t.others u.1 u.2).zip (r.others ++ List.replicate 15 {})).map fun x =>
          if s.store.rebuild.contains x.1.1 || t.dead.contains x.1.1 then 0
          else (stepOf x.2 (match x.1.2 with | some j => n.unitId t j | none => none) (n.block x.1.1 t.blk).thresholds).1
        let s := s.countStore 63 32 (steps.filter (· != 1)).length
        if steps.contains 0 ∨ t.dead.contains m then (s.countStore 15 0 1, 5)
        else
          let s := s.countStore 31 16 1
          if gone then (s, 4)
          else match (n.block m t.blk).step4 with
            | none => (s.upNand fun n => n.upBlock m t.blk fun b => { b with step4 := some u.1 }, 4)
            | some k => (if k = u.1 then s else s.retireBlock m t.blk, 4)

/-! ### Relocation and rebuild (R293 to R297, R301) -/

/-- Does another block of the die of package `m` and place `b` have over 200 erases more (R301)? -/
def Nand.cold (n : Nand) (m b : Nat) : Bool :=
  n.blocks.any fun e => e.1 / 98304 == m && e.1 % 98304 / 6144 == b / 6144 && decide ((n.block m b).erases + 200 < e.2.erases)

/-- Beats in 60 days (R295). -/
def refreshBeats : Nat := 1265625000000

/-- Is a unit's data to be rewritten: its block is retired or marked, it has been held for 60 days, or it is cold in a die whose wear is uneven
(R292, R295, R301)? -/
def State.unitDue (s : State) (u : Nat × Nat) : Bool :=
  match Tbl.find s.store.nand.stripes u.1 with
  | none => false
  | some t =>
    let m := t.pkgOf u.1 u.2
    let b := s.store.nand.block m t.blk
    b.retired || b.rewrite || decide (refreshBeats ≤ s.since t.beat) || s.store.nand.cold m t.blk

/-- Records drain into the journal region: `n` bytes fill units, each stripe closes with its parity when it is full, and takes a page of one
block of every package (R288, R303). -/
def JRegion.append (g : JRegion) (width n : Nat) : JRegion :=
  let f := g.fill + n
  let u := g.units + f / 16384
  let w := Nat.max width 1
  let r := g.row + u / w
  { blk := g.blk + r / blkPages true, row := r % blkPages true, units := u % w, fill := f % 16384, stripes := g.stripes + u / w }

/-- The journal buffer drains (R303). -/
def State.drainRecords (s : State) : State :=
  { s with store := { s.store with buffered := 0, region := s.store.region.append (15 - s.lostPkgs.length) s.store.buffered } }

/-- Images held for other modules that are acknowledged stand, and those they supersede are freed (R289, R452). -/
def State.settleGuests (s : State) : State :=
  { s with store := { s.store with guests := s.store.guests.map fun g => if s.imgAcked g.img then { g with old := none } else g } }

/-- What is left of an image held for another module when power-good falls: the newest that was acknowledged (R304). -/
def State.guestAfterLoss (s : State) (g : Guest) : Option Guest :=
  if s.store.records.contains (JRec.cap g.p g.page) = false then some { g with old := none }
  else g.old.map fun i => { g with img := i, old := none }

/-- A relocation of the units `ps` of image `i` starts: they are written again, with a record of the translation (R297). -/
def State.startReloc (s : State) (i : Nat) (ps : List Nat) : State :=
  let g := Tbl.get {} s.store.nand.imgs i
  let r := ps.foldl (fun (r : State × List (Nat × (Nat × Nat))) pos =>
    let x := r.1.addUnit (some (i, pos))
    (x.1, r.2 ++ [(pos, x.2)])) (s, [])
  let s := r.1.upNand fun n => { n with reloc := n.reloc ++ [{ img := i, moves := r.2 }] }
  s.sendRecord (.cap g.p g.n) []

/-- The translation entry takes a relocation's new copy once that is acknowledged; until then reads use the old one (R297). -/
def State.settleReloc (s : State) : State :=
  s.store.nand.reloc.foldl (fun s r =>
    match Tbl.find s.store.nand.imgs r.img with
    | none => s
    | some g =>
      if (r.moves.all fun x => s.store.nand.closed x.2.1) && !s.store.records.contains (JRec.cap g.p g.n) then
        s.upNand fun n => { n with reloc := n.reloc.erase r,
                                   imgs := Tbl.put n.imgs r.img { g with units := r.moves.foldl (fun l x => l.set x.1 x.2) g.units } }
      else s) s

/-- Wear levelling and retention refresh: in every window of 256 beats one page is relocated, the write slice of R53. -/
def State.relocate (s : State) : State :=
  if s.slices.stoWr ≠ 0 ∨ 4194304 < s.slices.stoRd + 262144 ∨ s.storeWritable = false then s
  else match s.store.nand.imgs.find? fun e => !(s.store.nand.reloc.any fun r => r.img == e.1) && e.2.units.any s.unitDue with
    | none => s
    | some e =>
      let s := s.startReloc e.1 (List.range 16)
      { s with slices := { s.slices with stoRd := s.slices.stoRd + 262144, stoWr := 262144 } }

/-- Valid units, in the order in which the patrol reads them. -/
def Nand.validUnits (n : Nand) : List (Nat × (Nat × Nat)) := n.imgs.flatMap fun e => e.2.units.map fun u => (e.1, u)

/-- A unit of image `i` cannot be read: the live page that it belongs to loses its store image, and a target that holds it is lost (R291,
R442). -/
def State.imageLost (s : State) (i : Nat) : State :=
  match Tbl.find s.store.nand.imgs i with
  | none => s
  | some g =>
    let s := s.raiseAt 0 0x023 g.n g.p Code.uncorrectable s.stamp
    if (s.page g.p g.n).img = i then s.upPage g.p g.n fun x => { x with lost := true }
    else if ((s.pt g.p).durable.map fun c => c.namesImg i).getD false then
      s.upPt g.p fun q => { q with targetLost := true, cutEarly := true }
    else s

/-- The patrol reads its next valid unit within the read slice; a unit that needs step 2 or more, or has more errors than 60% of what the hard
decision corrects, marks its block to be rewritten (R53, R295, R296). -/
def State.patrolStore (s : State) (r : Option LadderIn) : State :=
  let us := s.store.nand.validUnits
  match us[s.store.nand.patrol % us.length]? with
  | none => s
  | some (i, u) =>
    if 4194304 < s.slices.stoRd + 16384 then s
    else
      let s := { s with slices := { s.slices with stoRd := s.slices.stoRd + 16384 } }
      let s := s.upNand fun n => { n with patrol := s.store.nand.patrol % us.length + 1 }
      match r with
      | none => s
      | some r =>
        let t := Tbl.get {} s.store.nand.stripes u.1
        let x := s.readUnit u r
        let s := if 2 ≤ x.2 ∨ 60 * Config.hardCapability < 100 * errorsOf r.unit.hard then
            x.1.upNand fun n => n.upBlock (t.pkgOf u.1 u.2) t.blk fun b => { b with rewrite := true }
          else x.1
        if x.2 = 5 then s.imageLost i else s

/-- Units that a rebuild has still to rewrite: valid units of a lost package, and those whose parity lies there, that their stripe still
gives (R293, R294). DEDUCED, log entry 158. -/
def State.rebuildWork (s : State) : List (Nat × Nat) :=
  let n := s.store.nand
  n.imgs.flatMap fun e => (e.2.units.zip (List.range 16)).filterMap fun x =>
    match Tbl.find n.stripes x.1.1 with
    | none => none
    | some t =>
      let m := t.pkgOf x.1.1 x.1.2
      let here := !s.store.rebuild.contains m
      if (here && !s.store.rebuild.contains (t.parity x.1.1)) || (n.reloc.any fun r => r.img == e.1 && r.moves.any fun y => y.1 == x.2) ||
          (!here && t.pkgs.any fun y => y != m && s.store.rebuild.contains y) then none
      else some (e.1, x.2)

/-- A rebuild rewrites one unit in a beat, 4 GB/s (R293). -/
def State.rebuildStep (s : State) : State :=
  if s.store.rebuild = [] ∨ s.storeWritable = false then s
  else
    let s := match s.rebuildWork with
      | [] => s
      | (i, pos) :: _ => s.startReloc i [pos]
    let left := s.rebuildWork.length
    let all := Nat.max s.store.nand.rebuildAll 1
    s.setFld rStoHealth 0 0 39 32 (Nat.min 99 ((all - left) * 100 / all))

end Sys2Proof.Machine
end

