-- ==== Sys2Proof/Machine/Tiers.lean ====
section
/-! DEFINITION. The tier manager and the store: tier requests, capping, fetches, eviction, the pool and the SLM split,
and the store controller's commands (R233 to R245, R277, R278, R286 to R305). -/

namespace Sys2Proof.Machine

/-! ### The tier request queue (R234 to R236) -/

/-- An aligned 8-byte word of the scratchpad. -/
def JobData.slm64 (j : JobData) (off : Nat) : Nat := j.slm.rdLe off 8

/-- The module writes an aligned 8-byte word of the scratchpad; the word is whole, so it also ends an error. -/
def State.setSlm64 (s : State) (p off v : Nat) : State := (s.slmWrite p (bwrites off (leBytes 8 v))).1

/-- TAIL, HEAD and the entry at HEAD. -/
def Ptn.trqTail (q : Ptn) : Nat := q.live.slm64 q.info.trqBase
/-- See `Ptn.trqTail`. -/
def Ptn.trqHead (q : Ptn) : Nat := q.live.slm64 (q.info.trqBase + 8)
/-- See `Ptn.trqTail`. -/
def Ptn.trqEntry (q : Ptn) : Nat :=
  q.live.slm64 (q.info.trqBase + 64 + 8 * (if q.info.trqEntries = 0 then 0 else q.trqHead % q.info.trqEntries))

/-- ERRORS rises and TIER_REQUEST_ERROR is raised (R235). -/
def State.trqError (s : State) (p d0 d1 : Nat) : State :=
  let off := (s.pt p).info.trqBase + 16
  (s.setSlm64 p off (((s.pt p).live.slm64 off + 1) % 2 ^ 64)).raiseP p 0x114 d0 d1

/-- TAIL has been written as `tail`: one that overruns the queue stops it, and one within it ends that (R235). -/
def State.tailWritten (s : State) (p tail : Nat) : State :=
  let d := sdiff tail (s.pt p).trqHead
  if ((s.pt p).info.trqEntries : Int) < d then
    (s.trqError p tail (s.pt p).trqHead).upPt p fun q => { q with trqStop := true }
  else if 0 ≤ d then s.upPt p fun q => { q with trqStop := false }
  else s

/-- TIER_REQUEST_TAIL_WRITE: software writes TAIL, which the bank detects (R235). -/
def tierRequestTailWrite (p : Nat) (tail : Nat) (s : State) : State :=
  if (s.pt p).job = .noJob then s else (s.setSlm64 p (s.pt p).info.trqBase tail).tailWritten p tail

/-- R235. -/
def execTierRequestTailWrite (p : Nat) (tail : W64) (s : State) : Res := s.live (tierRequestTailWrite p tail.toNat)

/-- Pages of a tier request entry. -/
def entryPages (e : Nat) : List Nat := (List.range (bits e 63 48)).map (· + bits e 47 18)

/-- Is the entry refused whole (R235, R244)? -/
def Ptn.entryBad (q : Ptn) (e : Nat) : Bool :=
  let kind := bits e 3 0
  decide (kind = 0 ∨ 3 < kind) || bits e 17 4 != 0 || bits e 63 48 == 0 ||
    (entryPages e).any (fun n => q.kind n == 0) ||
    (kind == 2 && (entryPages e).any fun n => (q.live.page n).state == 0)

/-- Words of the queue's header and of the entry at HEAD that read uncorrectable. -/
def Ptn.trqBad (q : Ptn) : List Nat :=
  rangeBad 8 q.live.slmBad [(q.info.trqBase, 24),
    (q.info.trqBase + 64 + 8 * (if q.info.trqEntries = 0 then 0 else q.trqHead % q.info.trqEntries), 8)]

/-- Does software have an entry for the tier manager? -/
def Ptn.trqWaits (q : Ptn) : Bool :=
  q.job != .noJob && !q.trqStop && decide (0 < q.info.trqEntries) && decide (0 < sdiff q.trqTail q.trqHead)

/-- The words of a queue with an entry that read uncorrectable are met (R281, R434). -/
def State.trqMeet (s : State) (p : Nat) : State :=
  if (s.pt p).trqWaits then (s.pt p).trqBad.foldl (fun s w => s.meetSlmBad p w) s else s

/-- Is there an entry to consume that can be read, and is the beat's slice of 64 not used up (R235, R238)? -/
def Ptn.trqReady (q : Ptn) : Bool :=
  q.trqWaits && q.trqBad.isEmpty && decide (q.trqTaken < 64)

/-- HEAD advances over an entry, one of the beat's 64 (R235, R238). -/
def State.trqAdvance (s : State) (p : Nat) : State :=
  (s.setSlm64 p ((s.pt p).info.trqBase + 8) (((s.pt p).trqHead + 1) % 2 ^ 64)).upPt p fun q => { q with trqTaken := q.trqTaken + 1 }

/-- The entry at HEAD is consumed as refused. -/
def State.trqRefuse (s : State) (p : Nat) : State :=
  (s.trqError p (s.pt p).trqEntry (s.pt p).trqHead).trqAdvance p

/-- A row of the queue: a refused entry is counted; one of kind `k` acts page by page. -/
def State.trqRow (s : State) (p k : Nat) (f : State → Nat → State) : State :=
  let q := s.pt p
  if s.awake p = false then s
  else if q.trqReady = false then s.trqMeet p
  else if q.entryBad q.trqEntry then s.trqRefuse p
  else if bits q.trqEntry 3 0 = k then ((entryPages q.trqEntry).foldl f s).trqAdvance p
  else s

/-- PREFETCH: STORE pages are queued for the promotion slice (R236). -/
def execPrefetch (p : Nat) (s : State) : Res :=
  s.live fun s => s.trqRow p 1 fun s n => if (s.page p n).state = 2 then s.upPage p n fun g => { g with promo := 1 } else s

/-- The store is asked to write page `n`'s image, in a class of R259. A write of the page that is pending already serves, in the earlier of
the two classes, so that the image is written once (R245). -/
def State.storeWrite (s : State) (p n cls : Nat) : State :=
  if s.store.writes.any fun w => w.p == p && w.n == n && !w.snap then
    s.upWrites p n fun w => some (if w.snap then w else { w with cls := Nat.min w.cls cls })
  else
    let w : SWrite := { p := p, n := n, cls := cls }
    { s with store := { s.store with writes := s.store.writes ++ [w] } }.tellBuddy p "BUDDY_IMAGE" [n]

/-- A page is capped: a page in HBM state has its image written once; the demotion of a page in DEMOTING state is that write; a page in
another state has nothing written (R245). -/
def State.capPage (s : State) (p n : Nat) : State :=
  let g := s.page p n
  if g.capped ∨ g.state = 0 then s
  else
    let s := s.upPage p n fun g =>
      { g with capped := true, capWait := false, touched := true, capWrite := g.state == 1 || g.state == 5 }
    if g.state = 1 ∨ g.state = 5 then s.storeWrite p n 3 else s

/-- CAP takes each page when no instruction holds it pinned for writing, and otherwise waits for that (R244). -/
def State.askCap (s : State) (p n : Nat) : State :=
  let g := s.page p n
  if g.capped then s
  else if g.wpins = 0 then s.capPage p n
  else s.upPage p n fun g => { g with capWait := true }

/-- R236, R244. -/
def execCap (p : Nat) (s : State) : Res := s.live fun s => s.trqRow p 2 fun s n => s.askCap p n

/-- CAP_TAKES_EFFECT: the last write pin of a page whose cap waits has been released (R244). -/
def execCapTakesEffect (p page : Nat) (s : State) : Res :=
  s.live fun s => if (s.page p page).capWait ∧ (s.page p page).wpins = 0 then s.capPage p page else s

/-- DEMOTE: unpinned pages count as aged until next pinned (R236). -/
def execDemote (p : Nat) (s : State) : Res :=
  s.live fun s => s.trqRow p 3 fun s n =>
    if (s.page p n).pins + (s.page p n).opins = 0 then s.upPage p n fun g => { g with demote := true } else s

/-! ### Fetches, moves, eviction (R228, R233, R237, R238, R243) -/

/-- Are commands of the partition dispatched: it is not pre-empted (R54, R298)? -/
def Ptn.dispatches (q : Ptn) : Bool := q.paused.isNone && q.job != .suspending && q.rolling.isNone

/-- Bytes that the store may read in a beat: 192 GB/s for the module, 144 GB/s while a rebuild runs (R238, R293). -/
def State.readRate (s : State) : Nat := if s.store.rebuild = [] then 786432 else 589824

/-- Bytes that the store, and the store link of base die `b`, have still room to read in this beat (R238). -/
def State.readRoom (s : State) (b : Nat) : Nat :=
  Nat.min (262144 - Tbl.get 0 s.store.read b) (s.readRate - s.store.read.foldl (fun n e => n + e.2) 0)

/-- Can every unit of an image still be read, in its package or from its stripe (R293, R294)? -/
def State.imgReadable (s : State) (i : Nat) : Bool :=
  (Tbl.get {} s.store.nand.imgs i).units.all fun u =>
    match Tbl.find s.store.nand.stripes u.1 with
    | none => true
    | some t =>
      let m := t.pkgOf u.1 u.2
      !s.lostPkgs.contains m || (!t.dead.contains m && t.pkgs.all fun y => y == m || !(s.store.rebuild.contains y || t.dead.contains y))

/-- Is the page the demand fetch that comes next, or no demand fetch (R233)? -/
def Ptn.fetchNext (q : Ptn) (n : Nat) : Bool :=
  let fs := q.fetchQ.map (·.2)
  !fs.contains n || (fs.filter fun x => (q.live.page x).state == 4).head? == some n

/-- Does the store serve the fetch of page `n`: it is FETCHING, its image can be read, and the partition is not pre-empted (R54, R233, R294)? -/
def State.fetchable (s : State) (p n : Nat) : Bool :=
  let g := s.page p n
  g.state == 4 && (s.pt p).dispatches && !g.drop && !g.lost && !g.capWrite && s.fld rStoHealth 0 0 3 0 != 5 && s.imgReadable g.img

/-- The store reads up to `m` bytes more of a fetch, over the link of the base die that holds its frame; the answer is what is left of `m`
(R238). -/
def State.readFetch (s : State) (p n m : Nat) : State × Nat :=
  let g := s.page p n
  let b := p * s.k + g.stack / 3
  let x := if s.fetchable p n then Nat.min m (Nat.min (262144 - g.got) (s.readRoom b)) else 0
  if x = 0 then (s, m)
  else
    let t := s.upPage p n fun g => { g with got := g.got + x }
    ({ t with store := { t.store with read := Tbl.upd 0 t.store.read b (· + x) } }, m - x)

/-- Demand fetches of a partition are read in their order, within a budget of bytes (R233). -/
def State.readDemand (s : State) (p budget : Nat) : State × Nat :=
  (s.pt p).fetchQ.foldl (fun r x => r.1.readFetch p x.2 r.2) (s, budget)

/-- The store serves the demand fetches with what the promotion slices of the beat left: the partitions that have some share it by their
compute dies, which are equal, and then take what the others do not use (R233, R238, R298). DESIGN CHOICE, log entry 195. -/
def State.serveReads (s : State) : State :=
  let ps := (List.range s.parts).filter fun p => (s.pt p).fetchQ.any fun x => s.fetchable p x.2 && decide ((s.page p x.2).got < 262144)
  let share := (s.readRate - s.store.read.foldl (fun n e => n + e.2) 0) / Nat.max ps.length 1
  let s := ps.foldl (fun s p => (s.readDemand p share).1) s
  ps.foldl (fun s p => (s.readDemand p s.readRate).1) s

/-- A fetch of a FETCHING page that has been read whole ends: the page is resident and clean; demand fetches end in the order in which their
checks began (R226, R229, R233, R238). -/
def demandFetchDone (p n : Nat) (s : State) : State :=
  let g := s.page p n
  if s.fetchable p n ∧ g.got = 262144 ∧ (s.pt p).fetchNext n then
    let s := (s.upPage p n fun g => { g with state := 3, fetching := false, bursts := 0, got := 0 }).upPt p fun q =>
      { q with fetchQ := q.fetchQ.filter fun x => x.2 != n }
    { s with store := { s.store with ended := Tbl.upd 0 s.store.ended p (· + 1) } }.tally fun t =>
      { t with stoRd := t.stoRd + 262144 }
  else s

/-- R233. -/
def execDemandFetchDone (p page : Nat) (s : State) : Res := s.live (demandFetchDone p page)

/-- RESIDENCY_STALL: a check has waited 4,096 beats (R233). -/
def residencyStall (p lc : Nat) (s : State) : State :=
  match (s.core p lc).check with
  | some b =>
    if b + 4096 < s.mgmt.beat ∧ (s.core p lc).stalled = false then
      (s.raiseP p 0x113 (s.core p lc).checkPage lc).upCore p lc fun c => { c with stalled := true }
    else s
  | none => s

/-- R233. -/
def execResidencyStall (p lc : Nat) (s : State) : Res := s.live (residencyStall p lc)

/-- Step 2 of a boundary for the checks of partition `p` (R43, R233). -/
def State.stallBoundary (s : State) (p : Nat) : State :=
  (s.pt p).live.cores.foldl (fun s (e : Nat × Core) => residencyStall p e.1 s) s

/-- PLACEMENT_MOVE_DONE: a listed page that no unit holds pinned moves to its preferred stack, one page in a beat for each base die; a sector
that the forager cannot read abandons the move (R228, R237, R238, R267). -/
def placementMoveDone (p n : Nat) (s : State) : State :=
  let g := s.page p n
  let pref := n % (3 * s.k)
  if g.move ∧ (s.pt p).dispatches ∧ g.framed ∧ g.pins + g.opins = 0 ∧ g.cow = false ∧ g.drop = false ∧ 0 < s.stackFree p pref ∧
      Tbl.get 0 (s.pt p).moved (pref / 3) = 0 then
    match s.badOf p n with
    | u :: _ => s.meetBad p u
    | [] => (s.takeFrame p n pref fun g => { g with move := false, bursts := 0 }).upPt p fun q => { q with moved := Tbl.put q.moved (pref / 3) 1 }
  else s

/-- R237. -/
def execPlacementMoveDone (p page : Nat) (s : State) : Res := s.live (placementMoveDone p page)

/-- AGE as eviction sees it (R236, R243). -/
def Page.evAge (g : Page) : Nat := if g.demote then 65535 else g.age

/-- Is the page eligible for eviction (R243)? A read-only or failed store takes no write, so only BOTH pages are
(R302). -/
def Page.eligible (g : Page) (minAge : Nat) (writable : Bool) : Bool :=
  (g.state == 3 || (g.state == 1 && writable)) && g.pins + g.opins == 0 && !g.cow && !g.placed && !g.drop &&
    decide (minAge ≤ g.evAge)

/-- Place of page `n` among the partition's pages, region by region: the order in which the scan reads their entries (R226, R238). -/
def entryIndex (n : Nat) : List Region → Nat
  | [] => 0
  | r :: rs => if r.kind ≠ 0 ∧ r.base ≤ n ∧ n < r.base + r.pages then n - r.base else (if r.kind = 0 then 0 else r.pages) + entryIndex n rs

/-- Pages of the partition's regions. -/
def Ptn.entryCount (q : Ptn) : Nat := q.info.regions.foldl (fun n r => n + if r.kind = 0 then 0 else r.pages) 0

/-- The scan's slice of a beat: the next 4,096 entries are read, and what was read of the others grows older by a beat (R238, R243). -/
def State.scanPages (s : State) (p : Nat) : State :=
  let q := s.pt p
  let total := q.entryCount
  let now := fun n => decide ((entryIndex n q.info.regions + total - q.scanAt % total) % total < 4096)
  let read := fun (e : Nat × Page) =>
    if now e.1 then some (e.2.state, e.2.evAge, e.2.capped) else e.2.scan.map fun x => (x.1, satAdd 65535 x.2.1 1, x.2.2)
  (s.upJob p fun j => { j with pages := j.pages.map fun e => (e.1, { e.2 with scan := read e }) }).upPt p fun q =>
    { q with scanAt := if total = 0 then 0 else (q.scanAt + 4096) % total }

/-- Class of a page as the scan read it: capped pages in BOTH state, other pages in BOTH state, pages in HBM state (R243). -/
def scanClass (x : Nat × Nat × Bool) : Nat := if x.1 = 3 then (if x.2.2 then 0 else 1) else 2

/-- Is it eligible as the scan read it (R243)? -/
def scanEligible (minAge : Nat) (x : Nat × Nat × Bool) : Bool := (x.1 == 3 || x.1 == 1) && decide (minAge ≤ x.2.1)

/-- Does page `a` with entry `x` go before `b` with `y` (R243)? -/
def evBefore (a : Nat) (x : Nat × Nat × Bool) (b : Nat) (y : Nat × Nat × Bool) : Bool :=
  decide (scanClass x < scanClass y) || (scanClass x == scanClass y &&
    (decide (y.2.1 < x.2.1) || (x.2.1 == y.2.1 && decide (a < b))))

/-- The page that goes first by what the scan read; one whose entry is no longer eligible is passed over, and so is one that the partition's
held list keeps (R243, R250). -/
def pickEvict (minAge : Nat) (w : Bool) (held : List Nat) : Tbl Page → Option (Nat × (Nat × Nat × Bool)) → Option (Nat × (Nat × Nat × Bool))
  | [], b => b
  | e :: t, b =>
    match e.2.scan with
    | none => pickEvict minAge w held t b
    | some x =>
      if scanEligible minAge x = false ∨ e.2.eligible minAge w = false ∨ held.contains e.1 then pickEvict minAge w held t b
      else match b with
        | none => pickEvict minAge w held t (some (e.1, x))
        | some y => pickEvict minAge w held t (if evBefore e.1 x y.1 y.2 then some (e.1, x) else some y)

/-- Frames that reservations and checks wait for (R243, R247). -/
def Ptn.wanted (q : Ptn) : Nat := q.need + (q.wants.map (·.2)).eraseDups.length

/-- Frames the partition aims to have free: FREE_TGT, and what reservations and checks wait for (R243). -/
def State.freeTarget (s : State) (p : Nat) : Nat := s.fld rMemTierPtn 0 p 31 16 * 64 + (s.pt p).wanted

/-- Frames about to be free: free ones and those of pages being demoted. -/
def State.freeSoon (s : State) (p : Nat) : Nat :=
  s.freeFrames p + (s.pt p).live.pages.foldl (fun n e => if e.2.state = 5 then n + 1 else n) 0

/-- Eviction by age, at most `fuel` pages: BOTH pages drop their frames at once, HBM pages become DEMOTING (R243). -/
def State.evict (s : State) (p : Nat) : Nat → State
  | 0 => s
  | fuel + 1 =>
    if s.freeTarget p ≤ s.freeSoon p then s
    else match pickEvict (s.fld rMemTierPtn 0 p 15 0) s.storeWritable (s.pt p).heldPages (s.pt p).live.pages none with
      | none => s
      | some (n, _) =>
        let s := if (s.page p n).state = 3 then s.upPage p n fun g => { g.unframe 2 with evicted := true }
          else (s.upPage p n fun g => { g with state := 5, touched := true }).storeWrite p n 4
        s.evict p fuel

/-- Classes of the demotions of partition `p`, the oldest `need` of which are in class 1; another has the class of the flush or the cap write
that it also is, else class 4 (R259). DEDUCED, log entry 194. -/
def State.demoteClasses (s : State) (p : Nat) : Nat → List SWrite → List SWrite
  | _, [] => []
  | need, w :: t =>
    if w.p ≠ p ∨ w.snap ∨ (s.page p w.n).state ≠ 5 then w :: s.demoteClasses p need t
    else
      let g := s.page p w.n
      let own := if w.cls = 2 then 2 else if g.cow ∨ g.capWrite then 3 else 4
      { w with cls := if 0 < need then 1 else own } :: s.demoteClasses p (need - 1) t

/-- As many demotions as a waiting check or reservation needs beside the free frames are in class 1 (R259). -/
def State.hastenDemotions (s : State) (p : Nat) : State :=
  { s with store := { s.store with writes := s.demoteClasses p ((s.pt p).wanted - s.freeFrames p) s.store.writes } }

/-- The promotion of base die `d` of partition `p`: a page fetched by no check, that has still to be read (R238). -/
def Ptn.promoting (q : Ptn) (d : Nat) : Option Nat :=
  (q.live.pages.find? fun e => e.2.state == 4 && e.2.stack / 3 == d && decide (e.2.got < 262144) && !q.fetchQ.any fun x => x.2 == e.1).map (·.1)

/-- The promotion slice of base die `d`, 64 KiB: of the promotion under way, else of the next queued STORE page that takes its frame there,
hints before the policy's, and none while a demand fetch waits for a frame (R236 to R238). DESIGN CHOICE, log entry 16. -/
def State.promoteDie (s : State) (p d : Nat) : State :=
  let q := s.pt p
  let pick := fun k => q.live.pages.find? fun e => e.2.state == 2 && e.2.promo == k && (s.place p e.1).map (· / 3) == some d
  match q.promoting d with
  | some n => (s.readFetch p n 65536).1
  | none =>
    if q.wants ≠ [] then s
    else match (pick 1).orElse fun _ => pick 2 with
      | some e => ((s.startFetch p e.1 none).readFetch p e.1 65536).1
      | none => s

/-- Promotions at a boundary, in every base die (R238). -/
def State.promote (s : State) (p : Nat) : State := (List.range s.k).foldl (fun s d => s.promoteDie p d) s

/-- Every page's AGE at the end of a beat: 0 while pinned, else one more; pages never listed count from the open of the
job (R232). DEDUCED, log entry 97. -/
def State.agePages (s : State) (p : Nat) : State :=
  s.upJob p fun j => { j with idle := satAdd 65535 j.idle 1, pages := j.pages.map fun e =>
    (e.1, { e.2 with age := if 0 < e.2.pins + e.2.opins then 0 else satAdd 65535 e.2.age 1 }) }

/-- The tier-migration policy at an epoch boundary (R237). -/
def State.migrate (s : State) (p : Nat) : State :=
  let n := 3 * s.k
  s.upJob p fun j => { j with pages := j.pages.map fun (e : Nat × Page) =>
    let g : Page := e.2
    let hits := (List.range 4).foldl (fun c i => c + bits g.fetched i i) 0
    let promo := if g.state = 2 ∧ g.evicted ∧ 2 ≤ hits ∧ g.promo = 0 then 2 else g.promo
    (e.1, { g with move := g.framed && g.stack != e.1 % n, promo := promo, fetched := g.fetched * 2 % 16 }) }

/-! ### Pool and SLM split (R241, R242, R277, R278) -/

/-- MEM_POOL_PTNp is written (R241, R242). -/
def memPoolPtnWrite (p v : Nat) (s : State) : State :=
  if 4 ≤ p ∨ s.present p = false then s
  else
    let res := fun (c : Nat) (s : State) => s.setFld rMemPoolResult 0 0 15 0 c
    if bits v 63 32 < bits v 31 0 then res Code.invalidOperand s
    else if s.fld rMemPoolSize 0 0 31 0 < (s.wr rMemPoolPtn 0 p v).poolSum p 0 then res Code.resourceHeld s
    else s.logged (0x501010 + 8 * p) 0 (s.rd rMemPoolPtn 0 p) v
      (fun s => res Code.done (s.wr rMemPoolPtn 0 p v)) (res Code.resourceHeld)

/-- R242. -/
def execMemPoolPtnWrite (p : Nat) (v : W64) (s : State) : Res :=
  s.live fun s => memPoolPtnWrite p v.toNat (s.unstage rMemPoolPtn 0 p)

/-- MEM_SLM_SPLIT_PTNp is written (R278). -/
def memSlmSplitWrite (p v : Nat) (sessions : Bool) (s : State) : State :=
  if 4 ≤ p ∨ s.present p = false ∨ s.fld rMemSlmSplitPtn 0 p 15 15 = 1 then s
  else
    let res := fun (c : Nat) (s : State) => s.setFld rMemSlmSplitPtn 0 p 31 16 c
    if bits v 11 8 + bits v 7 4 + bits v 3 0 ≠ 12 then res Code.invalidOperand s
    else if (s.pt p).job ≠ .noJob ∨ sessions then res Code.resourceHeld s
    else s.logged (0x500000 + 8 * p) 0 (s.rd rMemSlmSplitPtn 0 p) (bits v 11 0)
      (fun s => (s.setFld rMemSlmSplitPtn 0 p 15 15 1).upPt p fun q => { q with splitNew := some (bits v 11 0) })
      (res Code.resourceHeld)

/-- SLM_SPLIT_DONE: the regions are re-formed, and the scratchpad and the codec reference store are zeroed (R278). -/
def slmSplitDone (p : Nat) (s : State) : State :=
  match (s.pt p).splitNew with
  | none => s
  | some v =>
    let s := (s.give rMemSlmSplitPtn 0 p (Code.done * 65536 + v)).noteSetting (0x500000 + 8 * p)
    (s.upPt p fun q => { q with splitNew := none, live := { q.live with slm := [], slmBad := [] } }).clearStores p

/-- R278. -/
def execSlmSplitDone (p : Nat) (s : State) : Res := s.live (slmSplitDone p)

/-! ### The store controller (R286 to R305) -/

/-- STORE_STATE is raised when STATE or LOST_PKG changes (R359). -/
def State.setStoreState (s : State) (f : State → State) : State :=
  let old := s.rd rStoHealth 0 0
  let s := f s
  let new := s.rd rStoHealth 0 0
  if bits old 3 0 ≠ bits new 3 0 ∨ bits old 55 40 ≠ bits new 55 40 then s.raiseM 0x022 new 0 else s

/-- Rated writes in bytes (R29). -/
def State.rated (s : State) : Nat := if s.store.variant32 then 58400000000000000 else 29200000000000000

/-- LIFE_USED in units of 0.01% (R301). -/
def State.lifeUsed (s : State) : Nat :=
  Nat.min 65535 (Nat.max (s.store.charged * 10000 / s.rated) (s.avgPe * 10000 / 3000))

/-- The wear threshold that a LIFE_USED has reached, in percent (R301). -/
def wearLevel (life : Nat) : Nat := if 10000 ≤ life then 100 else if 9000 ≤ life then 90 else if 5000 ≤ life then 50 else 0

/-- STORE_WEAR is raised when LIFE_USED reaches 50%, 90% and 100% (R301). -/
def State.noteWear (s : State) : State :=
  let s := (s.setFld rStoWear 0 0 31 16 s.lifeUsed).setFld rStoWear 0 0 15 0 (Nat.min 65535 s.avgPe)
  let level := wearLevel s.lifeUsed
  if s.store.wearSeen < level then
    { s with store := { s.store with wearSeen := level } }.raiseM 0x020 (s.rd rStoWear 0 0) 0
  else s

/-- Bytes are charged to the write credit (R299, R301). -/
def State.chargeWrite (s : State) (n : Nat) : State :=
  { s with store := { s.store with credit := s.store.credit - n, charged := s.store.charged + n } }.noteWear

/-- The store becomes read-only when the average P/E count reaches 3,600, or a die or the journal region has no spare block left (R302). -/
def State.checkReadOnly (s : State) : State :=
  if (3600 ≤ s.avgPe ∨ (s.store.spares.any fun e => e.2.2 == 0) ∨ s.store.journalSpare = 0) ∧ s.storeWritable then
    s.setStoreState fun s => s.setFld rStoHealth 0 0 3 0 4
  else s

/-! ### The service of store writes (R52 to R54, R238, R252, R259, R298) -/

/-- Number from which a write names a page of the save copy. -/
def saveBase : Nat := 2 ^ 40

/-- Is the write part of the cut's flush: a page's snapshot, or a page of the save copy (R252)? -/
def State.isFlush (s : State) (w : SWrite) : Bool := decide (saveBase ≤ w.n) || w.snap || (s.page w.p w.n).cow

/-- Order within a class: in class 3 the save copy, then ascending page number; in the others the order of arrival (R252, R259). -/
def SWrite.rank (w : SWrite) : Nat :=
  if w.cls = 3 then (if saveBase ≤ w.n then w.n - saveBase else saveBase + w.n) else 0

/-- The write of partition `p` that is served next, of class `top` at most: not one whose frame is to be dropped (R259, R267). -/
def State.nextWrite (s : State) (p top : Nat) : Option SWrite :=
  s.store.writes.foldl (fun b w =>
    if w.p ≠ p ∨ w.left = 0 ∨ top < w.cls ∨ (w.snap = false ∧ (s.page p w.n).drop) ∨ (s.mirroring p && s.isFlush w) then b
    else match b with
      | none => some w
      | some x => if w.cls < x.cls ∨ (w.cls = x.cls ∧ w.rank < x.rank) then some w else b) none

/-- A write becomes `f` of itself. -/
def State.upWrite (s : State) (w : SWrite) (f : SWrite → SWrite) : State :=
  { s with store := { s.store with writes := s.store.writes.map fun x => if x = w then f x else x } }

/-- Up to `m` bytes of a write are programmed, and charged to the write credit, whatever becomes of the write (R299). A forager that meets an
uncorrectable sector abandons a demotion, and the page keeps its state (R54, R267). With its last byte the page has its units in the log; an
image of the save copy is the undurable cut's. -/
def State.serveWrite (s : State) (w : SWrite) (m : Nat) : State :=
  match (if w.snap ∨ saveBase ≤ w.n then [] else s.badOf w.p w.n) with
  | u :: _ =>
    let s := if (s.page w.p w.n).state = 5 ∧ (s.page w.p w.n).capWrite = false then
        let t := s.upPage w.p w.n fun g => { g with state := 1 }
        if (s.page w.p w.n).cow then t else { t with store := { t.store with writes := t.store.writes.erase w } }
      else s
    s.meetBad w.p u
  | [] =>
    let s := s.chargeWrite (Nat.min m w.left)
    if m < w.left then s.upWrite w fun x => { x with left := x.left - m }
    else
      let r := s.putImage w.p w.n
      let s := r.1.upWrite w fun x => { x with left := 0, img := some r.2 }
      if saveBase ≤ w.n then s.upPt w.p fun q => { q with pend := q.pend.map fun c => { c with save := c.save ++ [r.2] } } else s

/-- The save copy's next page joins the writes, once the pages on which writers wait are written (R252). -/
def State.queueSave (s : State) (p : Nat) : State :=
  let q := s.pt p
  if q.saveLeft = 0 ∨ q.cutPhase ≠ .flushing ∨ (s.store.writes.any fun w => w.p == p && saveBase ≤ w.n && w.left != 0) then s
  else if s.mirroring p then
    ((List.range q.saveLeft).foldl (fun s i => s.tellBuddy p "BUDDY_IMAGE" [saveBase + 4160 * s.k - q.saveLeft + i]) s).upPt p fun q =>
      { q with saveLeft := 0, flushed := q.flushed + 262144 * q.saveLeft }
  else (s.storeWrite p (saveBase + 4160 * s.k - q.saveLeft) 3).upPt p fun q => { q with saveLeft := q.saveLeft - 1 }

/-- Writes of partition `p`, of class `top` at most, are served within a budget of bytes; the answer is what is left of it. -/
def State.serve (s : State) (p top : Nat) : Nat → Nat → State × Nat
  | 0, budget => (s, budget)
  | fuel + 1, budget =>
    let s := if top < 3 then s else s.queueSave p
    match s.nextWrite p top with
    | none => (s, budget)
    | some w =>
      if budget = 0 then (s, 0)
      else (s.serveWrite w budget).serve p top fuel (budget - Nat.min budget w.left)

/-- Bytes of tier writes that the store takes in a beat: 64 GB/s while the burst region has room, 60 GB/s in a rebuild, else the TLC rate
(R259, R287, R293). -/
def State.writeRate (s : State) : Nat :=
  if s.burstRoom = false then s.tlcRate else if s.store.rebuild = [] then 262144 else 245760

/-- Partitions with a foreground write to serve (R259). -/
def State.hurried (s : State) : List Nat :=
  (List.range s.parts).filter fun p => (s.pt p).dispatches && (s.nextWrite p 2).isSome

/-- A page that a forager has moved in part is abandoned at a pre-emption, and its source stays valid (R54). -/
def State.dropMoves (s : State) (p : Nat) : State :=
  { s with store := { s.store with writes := s.store.writes.map fun w => if w.p = p ∧ w.left ≠ 0 then { w with left := 262144 } else w } }

/-- The store serves the tier's writes for a beat, after the reads: each partition its slice, then what the slices leave, shared among the partitions with
class 1 or 2 writes by their compute dies, which are equal; what is then left drains the burst region (R238, R259, R287, R298). -/
def State.serveStore (s : State) : State :=
  if s.storeWritable = false then s
  else
    let rate := s.writeRate
    let slice := rate * s.k / 4
    let r := (List.range s.parts).foldl (fun (r : State × Nat) p =>
      if (r.1.pt p).dispatches = false then (r.1.dropMoves p, r.2)
      else
        let x := r.1.serve p 4 8 slice
        (x.1, r.2 - (slice - x.2))) (s, rate)
    let ps := r.1.hurried
    let share := r.2 / Nat.max ps.length 1
    let t := ps.foldl (fun (t : State × Nat) p =>
      let x := t.1.serve p 2 8 share
      (x.1, t.2 - (share - x.2))) r
    t.1.drainBurst (rate - t.2)

/-- The open stripe is closed with padding when it is not full two beats after its first unit (R289). -/
def stripeClose (s : State) : State :=
  if s.store.nand.openStripe.isSome ∧ 2 < s.since s.store.stripeBeat then s.upNand Nand.padStripe else s

/-- R289. -/
def execStripeClose (s : State) : Res := s.live stripeClose

/-- A page command of the partition has completed, and its write leaves the list (R54). -/
def State.endWrite (s : State) (w : SWrite) : State :=
  { s with store := { s.store with writes := s.store.writes.erase w, ended := Tbl.upd 0 s.store.ended w.p (· + 1) } }

/-- Pages of the save copy whose images are acknowledged are flushed; the cut record is sent when the flush ends (R252, R289). -/
def State.settleSave (s : State) (p : Nat) : State :=
  (s.store.writes.filter fun w => w.p == p && decide (saveBase ≤ w.n) && w.left == 0).foldl (fun s w =>
    if (w.img.map s.imgAcked).getD false then
      (s.endWrite w).upPt p fun q => { q with flushed := q.flushed + 262144 }
    else s) s

/-- A page's new image becomes its home, and the undurable cut's when it holds the page as it was at the cut (R252, R255). -/
def State.newHome (s : State) (p n i : Nat) (live cut : Bool) : State :=
  let s := if live then s.upPage p n fun g => { g with img := i } else s
  if cut then s.upPt p fun q => { q with pend := q.pend.map fun c => { c with data := c.data.upPage n fun g => { g with img := i } } } else s

/-- Is a page write acknowledged: its units, the parity of their stripes and its record are programmed; a flush that goes to the buddy needs
none of them (R252, R289, R452)? -/
def State.writeDone (s : State) (w : SWrite) : Bool :=
  (s.mirroring w.p && s.isFlush w) || (w.left == 0 && (w.img.map s.imgAcked).getD false)

/-- Uncorrectable sectors that the forager meets in a flush that goes to the buddy: those of the page itself, not of a snapshot or of the save
copy (R267, R452). -/
def State.mirrorBad (s : State) (w : SWrite) : List Nat :=
  if s.mirroring w.p && s.isFlush w && !w.snap && decide (w.n < saveBase) then s.badOf w.p w.n else []

/-- STORE_WRITE_ACK: the image of a page has been programmed with its parity and its record. A demotion frees the
frame, a flush write frees the snapshot and clears CUT_COW, a cap journal write makes the page BOTH (R243, R245, R252,
R258, R289); a flush whose page the forager cannot read is not made (R267). DESIGN CHOICE, log entry 48. -/
def storeWriteAck (p n : Nat) (s : State) : State :=
  match s.store.writes.find? fun w => w.p == p && w.n == n && s.writeDone w with
  | none => s
  | some w =>
    if s.storeWritable = false then s
    else match s.mirrorBad w with
    | u :: _ => s.meetBad p u
    | [] =>
      let g := s.page p n
      let flush := s.isFlush w
      let mirror := flush && s.mirroring p
      let s := (s.endWrite w).newHome p n (w.img.getD 0) (!w.snap) flush
      let s := if w.snap then s.upPage p n fun g => { g with snap := none }
        else if g.state = 5 then s.upPage p n fun g => { g.unframe 2 with cow := false, dirty := false, capWrite := false, evicted := true }
        else s.upPage p n fun g => { g with cow := false, capWrite := false, dirty := false, state := if g.state = 1 then 3 else g.state }
      let s := if flush then s.upPt p fun q => { q with flushed := q.flushed + 262144 }
        else { s with store := { s.store with other := Tbl.set 0 s.store.other p (Tbl.get 0 s.store.other p + 262144) } }
      let s := if mirror then s else s.tally fun t => { t with stoWr := t.stoWr + 262144 }
      s.checkReadOnly

/-- R289. -/
def execStoreWriteAck (p page : Nat) (s : State) : Res := s.live (storeWriteAck p page)

/-- STORE_UNIT_READ: a unit of the page's image is read through the ladder; at step 5 the tier manager, which asked for it, learns that the
image cannot be read (R291, R442). -/
def storeUnitRead (p n unit : Nat) (r : LadderIn) (s : State) : State :=
  let i := (s.page p n).img
  match (Tbl.get {} s.store.nand.imgs i).units[unit]? with
  | none => s
  | some u =>
    let x := s.readUnit u r
    let s := if x.2 = 5 then x.1.imageLost i else x.1
    s.checkReadOnly

/-- R291. -/
def execStoreUnitRead (p page unit : Nat) (r : LadderIn) (s : State) : Res :=
  s.live fun s => if unit < 16 ∧ s.present p ∧ s.store.mounted then storeUnitRead p page unit r s else s

/-- PACKAGE_LOST: parity serves the package's units and a rebuild starts; a fourth loss fails the store and ends the
jobs (R293, R294, R429). -/
def packageLost (n : Nat) (s : State) : State :=
  if 16 ≤ n ∨ s.store.mounted = false ∨ s.fld rStoHealth 0 0 (40 + n) (40 + n) = 1 then s
  else
    let s := s.setStoreState fun s =>
      let s := s.setFld rStoHealth 0 0 (40 + n) (40 + n) 1
      let lost := (List.range 16).foldl (fun c i => c + s.fld rStoHealth 0 0 (40 + i) (40 + i)) 0
      if 4 ≤ lost then s.setFld rStoHealth 0 0 3 0 5
      else
        let s := s.setFld rStoHealth 0 0 39 32 0
        if s.fld rStoHealth 0 0 3 0 = 4 then s else s.setFld rStoHealth 0 0 3 0 2
    let s := { s with store := { s.store with rebuild := s.store.rebuild ++ [n] } }
    let s := (s.upNand Nand.padStripe).upNand fun x => { x with rebuildAll := s.rebuildWork.length }
    if s.fld rStoHealth 0 0 3 0 = 5 then
      (List.range 4).foldl (fun s p => if (s.pt p).job = .noJob then s else s.wantEnd p 7) s
    else s

/-- R293. -/
def execPackageLost (n : Nat) (s : State) : Res := s.live (packageLost n)

/-- Does partition `p` take what the module at `src` mirrors: a module of this hive in a position that it accepts (R451)? -/
def State.takesFrom (s : State) (p src : Nat) : Bool :=
  s.present p && src / 16 == s.rd rLnkAddr 0 0 % 4096 / 16 && bits (s.rd rMemBuddyAcceptPtn 0 p) (src % 16) (src % 16) == 1

/-- What passes between buddies: an image takes a charge of the partition and of the write credit, unless it supersedes one held; it is refused
where the partition does not take it from that module, or cannot be charged or written; a record goes to the journal buffer and is
acknowledged; with the end of the source's job its images and records are freed; its replacement is told what is held (R299, R451
to R453, R455). DESIGN CHOICE, log entry 160. -/
def State.buddyIn (s : State) : BuddyIn → State
  | .image src sp p n =>
    let same := fun (g : Guest) => g.src == src && g.srcPtn == sp && g.page == n && g.p == p
    if s.takesFrom p src = false ∨ s.storeWritable = false ∨ ((s.store.guests.any same) = false ∧ s.canCharge p 1 = false) then
      s.emit (.message "IMAGE_REFUSED" src [sp, p, n])
    else
      let r := s.putImage p n
      let before := (s.store.guests.find? same).bind fun g => if s.imgAcked g.img then some g.img else g.old
      let g : Guest := { src := src, srcPtn := sp, page := n, p := p, img := r.2, old := before }
      ({ r.1 with store := { r.1.store with guests := g :: r.1.store.guests.filter fun x => !same x } }).chargeWrite 262144
  | .record src sp p ws =>
    if s.takesFrom p src = false ∨ s.canLog = false ∨ s.journalRoom = false then s.emit (.message "RECORD_REFUSED" src [sp, p])
    else { s with store := { s.store with
      guestRecs := s.store.guestRecs ++ [(src, sp, p, ws)], buffered := s.store.buffered + recordBytes } }.emit (.message "RECORD_ACK" src [sp, p])
  | .closed src sp p => { s with store := { s.store with
      guests := s.store.guests.filter fun g => !(g.src == src && g.srcPtn == sp && g.p == p)
      guestRecs := s.store.guestRecs.filter fun g => !(g.1 == src && g.2.1 == sp && g.2.2.1 == p) } }
  | .read src sp p =>
    let s := (s.store.guestRecs.filter fun g => g.1 == src && g.2.1 == sp && g.2.2.1 == p).foldl
      (fun s g => s.emit (.message "MIRROR_RECORD" src (sp :: g.2.2.2))) s
    s.emit (.message "MIRROR_IMAGES" src (sp :: (s.store.guests.filter fun g => g.src == src && g.srcPtn == sp && g.p == p).map (·.page)))
  | .acked p => match s.store.mirrorWait.find? fun r => r.mirrored == some p with
    | some r => { s with store := { s.store with mirrorWait := s.store.mirrorWait.erase r } }
    | none => s

/-- What fails in the store during a beat: a block is retired, a spare of the journal region is used, or a die or a channel is dead; a package
is lost with all four channels, or with more than half of its dies (R292, R293, R302). -/
def State.nandEvent (s : State) (e : NandEvent) : State :=
  if s.store.mounted = false then s
  else match e with
    | .programFails m b => (s.retireBlock m b).checkReadOnly
    | .eraseFails m b => (s.retireBlock m b).checkReadOnly
    | .journalBlockFails => { s with store := { s.store with journalSpare := s.store.journalSpare - 1 } }.checkReadOnly
    | .dieFails m d =>
      let n := s.store.nand
      let dead := if n.deadDies.contains (m * 16 + d) then n.deadDies else (m * 16 + d) :: n.deadDies
      let s := s.upNand fun n => { n with deadDies := dead }
      if s.blkPlaces / 6144 < 2 * (dead.filter fun x => x / 16 == m).length then packageLost m s else s
    | .channelFails m c =>
      let n := s.store.nand
      let dead := if n.deadChans.contains (m * 16 + c) then n.deadChans else (m * 16 + c) :: n.deadChans
      let s := s.upNand fun n => { n with deadChans := dead }
      if 4 ≤ (dead.filter fun x => x / 16 == m).length then packageLost m s else s

/-- Units of a stripe in packages that were lost together are lost for good (R294). -/
def Stripe.bury (t : Stripe) (lost : List Nat) : Stripe :=
  let here := t.pkgs.filter lost.contains
  if 2 ≤ here.length then { t with dead := here ++ t.dead } else t

/-- REBUILD_DONE: every unit that can be rebuilt is, and the store again survives the loss of one package; the units that none could be
rebuilt from stay unreadable (R294). -/
def rebuildDone (s : State) : State :=
  if s.store.rebuild = [] ∨ s.fld rStoHealth 0 0 3 0 = 5 ∨ s.rebuildWork ≠ [] ∨ s.store.nand.reloc ≠ [] then s
  else
    let s := s.setStoreState fun s =>
      let s := s.setFld rStoHealth 0 0 39 32 100
      if s.fld rStoHealth 0 0 3 0 = 2 then s.setFld rStoHealth 0 0 3 0 3 else s
    let s := s.upNand fun n => { n with stripes := n.stripes.map fun e => (e.1, e.2.bury s.store.rebuild) }
    { s with store := { s.store with rebuild := [], rebuilt := s.store.rebuilt + 1 } }

/-- R294. -/
def execRebuildDone (s : State) : Res := s.live rebuildDone

/-- State of a hold-up margin in percent (R305). -/
def holdupState (margin : Nat) : Nat := if 200 ≤ margin then 1 else if 120 ≤ margin then 2 else 3

/-- HOLDUP_TEST: the stored energy, in units of 10 mJ, over the 1.4 J needed (R305). A change of state raises HOLDUP;
a state that becomes good ends the level source (R370). -/
def holdupTest (energy : Nat) (s : State) : State :=
  let margin := energy * 100 / 140
  let old := s.fld rStoHoldup 0 0 1 0
  let s := s.wr rStoHoldup 0 0 (Nat.min energy 65535 * 65536 + Nat.min margin 255 * 256 + holdupState margin)
  if old = holdupState margin then s
  else
    let s := s.raiseM 0x021 (s.rd rStoHoldup 0 0) 0
    if holdupState margin = 1 then (List.range 10).foldl (fun s q => s.withdraw q 0x021) s else s

/-- Is a hold-up test due: every 256 epochs, and every epoch while the state is insufficient (R305)? After a mount that failed at that test it
is so too. -/
def State.holdupDue (s : State) : Bool :=
  let st := s.fld rStoHoldup 0 0 1 0
  st != 0 && decide ((if st = 3 then 1 else 256) * 2 ^ 20 ≤ s.since s.store.heldUp)

/-- HOLDUP_TEST: a test that is due is made (R305). -/
def holdupRow (energy : Nat) (s : State) : State :=
  if s.holdupDue then holdupTest energy { s with store := { s.store with heldUp := s.mgmt.beat } } else s

/-- R305. -/
def execHoldupTest (energy : Nat) (s : State) : Res := s.live (holdupRow energy)

/-! ### The wear governor at an epoch boundary (R299, R300) -/

/-- A, the allowance of one epoch in bytes (R299). -/
def State.allowance (s : State) : Nat := s.rated * 4294967296 / 157680000000000000

/-- EFF_INTERVAL of a partition (R300), in exact arithmetic: every term is scaled by 128. -/
def State.effInterval (s : State) (p : Nat) : Nat :=
  let iv := s.fld rMemCutPtn 0 p 7 0
  let f := Tbl.get 0 s.store.lastFlush p
  if f = 0 then (if iv = 0 then 0 else Nat.max iv 1)
  else
    let past := (Tbl.get [] s.store.otherPast p).foldl (· + ·) 0
    let base : Int := (32 * s.allowance * s.k : Nat) - (8 * past : Nat)
    let budget : Int :=
      if ((2 ^ 17 * s.allowance : Nat) : Int) ≤ 2 * s.store.credit then 2 * base
      else if 0 < s.store.credit then base
      else 0
    -- budget is 256 times the spec's budget in bytes
    if budget ≤ 0 then 255 else Nat.min 255 (Nat.max iv (ceilDiv (256 * f) budget.toNat))

/-- The wear governor's work at an epoch boundary (R299, R300). -/
def State.wearGovernor (s : State) : State :=
  let cap : Int := (2 ^ 17 * s.allowance : Nat)
  let c := s.store.credit + s.allowance
  let s := { s with store := { s.store with
    credit := if cap < c then cap else c,
    otherPast := (List.range 4).foldl (fun t p =>
      Tbl.put t p (((Tbl.get 0 s.store.other p) :: Tbl.get [] t p).take 16)) s.store.otherPast,
    other := [] } }
  let s := s.setFld rStoWear 0 0 63 32 (ofSigned 32 (s.store.credit / 1048576))
  (List.range 4).foldl (fun s p => if s.present p then s.setFld rMemCutPtn 0 p 15 8 (s.effInterval p) else s) s

end Sys2Proof.Machine
end

