-- ==== Sys2Proof/Machine/Versions.lean ====
section
/-! DEFINITION. Sequences, page-table versions, edits and walks (R158 to R174). -/

namespace Sys2Proof.Machine

/-- PT_MALFORMED (R176). -/
def Code.ptMalformed : Nat := 0x0204

/-- Scratchpad offset of sequence `n`'s descriptor (R158). -/
def Ptn.seqOff (q : Ptn) (n : Nat) : Nat := q.info.seqBase + 64 * n

/-- Word `w` of sequence `n`'s descriptor. -/
def Ptn.seqWord (q : Ptn) (n w : Nat) : Nat := q.live.slm64 (q.seqOff n + 8 * w)

/-- Sequence `n` of partition `p`. -/
def State.seqOf (s : State) (p n : Nat) : Seq := (s.pt p).live.seqn n

/-- That sequence becomes `f` of itself. -/
def State.upSeq (s : State) (p n : Nat) (f : Seq → Seq) : State := s.upJob p fun j => j.upSeq n f

/-- The module rewrites words 0, 1 and 3 from its own copies (R159, R160). -/
def State.syncSeq (s : State) (p n : Nat) : State :=
  let q := s.seqOf p n
  let off := (s.pt p).seqOff n
  let s := s.setSlm64 p off (q.version.toNat * 2 ^ 32 + q.retired.toNat)
  let s := s.setSlm64 p (off + 8) (match q.root with | some r => r * 4096 + 1 | none => 0)
  s.setSlm64 p (off + 24) (q.result * 2 ^ 32 + q.newBlocks * 65536 + (q.old.length + 1) * 16 +
    (if q.dropped then 4 else 0) + (if q.waiting then 2 else 0) + (if q.edit.isSome then 1 else 0))

/-! ### Blocks (R162 to R165) -/

/-- Entry `i` of the block at address `b` × 4,096. -/
def JobData.ptEntry (j : JobData) (b i : Nat) : Nat := j.dv.rdLe (b * 4096 + 8 * i) 8

/-- The 512 entries of a block. -/
def JobData.ptEntries (j : JobData) (b : Nat) : List Nat := (List.range 512).map (j.ptEntry b)

/-- Block that a valid pointer entry names (R163). -/
def ptChild (e : Nat) : Nat := bits e 47 12

/-- KV page that a valid leaf entry names (R164). -/
def leafPage (e : Nat) : Nat := bits e 47 18

/-- Valid entries of a block. -/
def JobData.validEntries (j : JobData) (b : Nat) : List Nat := (j.ptEntries b).filter fun e => e % 2 == 1

/-- Blocks of a version, with their levels: the root, the directories it points to, their leaves. -/
def JobData.reach (j : JobData) : Option Nat → List (Nat × Nat)
  | none => []
  | some r =>
    let dirs := ((j.validEntries r).map ptChild).eraseDups
    let leaves := (dirs.flatMap fun d => (j.validEntries d).map ptChild).eraseDups
    (r, 0) :: dirs.map (·, 1) ++ leaves.map (·, 2)

/-- Does a block address lie in the partition's range? -/
def Ptn.blockIn (q : Ptn) (b : Nat) : Bool := q.kind (b / 64) != 0

/-- Is the entry of a block of level `l` malformed (R168, R175)? Its address is held to the range when the entry is valid; DESIGN CHOICE, log
entry 149. -/
def Ptn.entryMalformed (q : Ptn) (l e : Nat) : Bool :=
  if l < 2 then bits e 63 48 != 0 || bits e 11 1 != 0 || (e % 2 == 1 && !q.blockIn (ptChild e))
  else bits e 8 1 != 0 || decide (256 < bits e 17 9) || bits e 63 56 == 0xff || bits e 55 48 == 0xff ||
    (e % 2 == 1 && q.kind (leafPage e) == 0)

/-- What validation finds: the new blocks, or a refusal. -/
inductive Found where
  | ok (blocks : List (Nat × Nat))
  | malformed
deriving DecidableEq, Repr

/-- Is the block committed (R168, R172)? -/
def JobData.committed (j : JobData) (b : Nat) : Bool := Tbl.get 0 j.blockRefs b != 0

/-- Visit one block of level `l`: a committed block is not read; a new one is checked and noted once. -/
def Ptn.visit (q : Ptn) (l : Nat) (acc : Found) (b : Nat) : Found :=
  match acc with
  | .malformed => .malformed
  | .ok bs =>
    if q.live.committed b then .ok bs
    else if bs.any (fun x => x.1 == b) then .malformed
    else if (q.live.ptEntries b).any (q.entryMalformed l) then .malformed
    else .ok (bs ++ [(b, l)])

/-- Visit the children of the new blocks of level `l`. -/
def Ptn.visitLevel (q : Ptn) (l : Nat) (acc : Found) : Found :=
  match acc with
  | .malformed => .malformed
  | .ok bs => ((bs.filter fun x => x.2 == l).flatMap fun x => (q.live.validEntries x.1).map ptChild).foldl (q.visit (l + 1)) acc

/-- Validate the version below `root` (R168). -/
def Ptn.validate (q : Ptn) (root : Nat) : Found :=
  if q.blockIn root = false then .malformed
  else q.visitLevel 1 (q.visitLevel 0 (q.visit 0 (.ok []) root))

/-! ### Edits (R167 to R169) -/

/-- A request is taken: REQ is written 0, BUSY is set, DROPPED is cleared. A request for the empty version has nothing
to validate (R167, R168). -/
def State.takeEdit (s : State) (p n : Nat) (w : Nat) : State :=
  let empty := bits w 1 1 == 1 && bits w 47 12 == 0 && bits w 63 48 == 0 && bits w 11 2 == 0
  let s := s.setSlm64 p ((s.pt p).seqOff n + 16) (setBits w 0 0 0)
  (s.upSeq p n fun q =>
    { q with edit := some { word := BitVec.ofNat 64 w, valid := empty }, dropped := false }).syncSeq p n

/-- Word 2 of sequence `n` has been written as `w`: a request is taken, or dropped while an edit is busy (R167). -/
def State.word2Written (s : State) (p n w : Nat) : State :=
  if w % 2 = 0 then s
  else if (s.seqOf p n).edit.isSome then
    let s := s.setSlm64 p ((s.pt p).seqOff n + 16) (setBits w 0 0 0)
    (s.upSeq p n fun q => { q with dropped := true }).syncSeq p n
  else s.takeEdit p n w

/-- SEQ_EDIT_REQUEST: software writes word 2 of a sequence's descriptor, which the bank detects (R167). DEDUCED, log entry 132. -/
def seqEditRequest (p n w : Nat) (s : State) : State :=
  if (s.pt p).job = .noJob ∨ (s.pt p).info.seqEntries ≤ n then s
  else (s.setSlm64 p ((s.pt p).seqOff n + 16) w).word2Written p n w

/-- R167. -/
def execSeqEditRequest (p seq : Nat) (w : W64) (s : State) : Res := s.live (seqEditRequest p seq w.toNat)

/-- A leave that waited for BUSY to clear is requested (R247). -/
def State.leaveNow (s : State) (p n : Nat) : State :=
  if (s.seqOf p n).leave then (s.upSeq p n fun q => { q with leave := false }).takeEdit p n 2 else s

/-- The edit ends as refused: protection is lifted, BUSY is cleared and the current version stands; a leave that waited is requested
(R168, R247). NEW_BLOCKS takes the number given; DESIGN CHOICE, log entry 149. -/
def State.refuseEdit (s : State) (p n result blocks : Nat) : State :=
  ((s.upSeq p n fun q => { q with edit := none, result := result, newBlocks := blocks % 65536 }).syncSeq p n).leaveNow p n

/-- EDIT_VALIDATED: the walk of the new version ends (R168). A request with a non-zero reserved bit, with EMPTY and a NEW_ROOT, or with
a NEW_ROOT outside the range is malformed, with NEW_BLOCKS 0; DESIGN CHOICE, log entry 149. -/
def editValidated (p n : Nat) (s : State) : State :=
  match (s.seqOf p n).edit with
  | none => s
  | some e =>
    if e.valid then s
    else
      let w := e.word.toNat
      if bits w 63 48 ≠ 0 ∨ bits w 11 1 ≠ 0 then s.refuseEdit p n Code.ptMalformed 0
      else match (s.pt p).validate (bits w 47 12) with
        | .malformed => s.refuseEdit p n Code.ptMalformed 0
        | .ok bs =>
          if 4096 < bs.length then s.refuseEdit p n Code.limitExceeded bs.length
          else (s.upSeq p n fun q =>
            { q with edit := some { e with valid := true, blocks := bs }, newBlocks := bs.length }).syncSeq p n

/-- Sequences whose word 2 a write set touches. -/
def Ptn.word2Hit (q : Ptn) (ws : List BWrite) : List Nat :=
  (ws.foldl (fun (t : Tbl Unit) w =>
    let a := w.1 - q.info.seqBase
    if q.info.seqBase ≤ w.1 ∧ a / 64 < q.info.seqEntries ∧ a % 64 / 8 = 2 then Tbl.put t (a / 64) () else t) []).map (·.1)

/-- Does a write set touch TAIL of the tier request queue? -/
def Ptn.tailHit (q : Ptn) (ws : List BWrite) : Bool :=
  decide (0 < q.info.trqEntries) && ws.any fun w => w.1 / 8 == q.info.trqBase / 8

/-- Write detection at the SLM banks, whoever the writer is: word 2 of sequence descriptors, and TAIL of the tier request queue (R167,
R235, R282). -/
def State.detect (s : State) (p : Nat) (ws : List BWrite) : State :=
  if (s.pt p).job = .noJob then s
  else
    let s := ((s.pt p).word2Hit ws).foldl (fun s n => s.word2Written p n ((s.pt p).seqWord n 2)) s
    if (s.pt p).tailHit ws then s.tailWritten p (s.pt p).trqTail else s

/-- An operation of the bank writes an aligned 8-byte word, which the bank detects as it does any other write (R282). -/
def State.bankWrite (s : State) (p off v : Nat) : State := (s.setSlm64 p off v).detect p (bwrites off (leBytes 8 v))

/-- A requester's write to the scratchpad: the bytes are written, and the banks detect the words they watch. The answer is that of
`slmWriteBy`. -/
def State.slmStore (s : State) (p : Nat) (ws : List BWrite) (who : Option Nat) : State × Bool :=
  let r := s.slmWriteBy p ws who
  (r.1.detect p (ws.filter fun w => !(r.1.pt p).live.slmBad.contains (w.1 / 8)), r.2)

/-- R168. -/
def execEditValidated (p seq : Nat) (s : State) : Res := s.live (editValidated p seq)

/-- Add `d` references to a block. -/
def JobData.refBlock (j : JobData) (b : Nat) : JobData :=
  { j with blockRefs := Tbl.set 0 j.blockRefs b (Tbl.get 0 j.blockRefs b + 1) }

/-- Add a reference to a KV page. -/
def JobData.refPage (j : JobData) (n : Nat) : JobData := j.upPage n fun g => { g with refs := g.refs + 1 }

/-- References that a new block's valid entries add (R172). -/
def JobData.refEntries (j : JobData) (b l : Nat) : JobData :=
  (j.validEntries b).foldl (fun j e => if l < 2 then j.refBlock (ptChild e) else j.refPage (leafPage e)) j

/-- A validated edit is committed: the new version becomes current (R169, R172). A leave that waited is requested
then (R247). -/
def State.commitEdit (s : State) (p n : Nat) (e : Edit) : State :=
  let w := e.word.toNat
  let root := if bits w 1 1 = 1 then none else some (bits w 47 12)
  let s := s.upJob p fun j =>
    let j := e.blocks.foldl (fun j b => j.refEntries b.1 b.2) j
    match root with
    | some r => j.refBlock r
    | none => j
  let s := s.upSeq p n fun q =>
    { q with old := q.old ++ [{ num := q.version, root := q.root, walks := q.walks }], version := q.version + 1,
             root := root, walks := 0, edit := none, result := Code.done, waiting := false }
  (s.syncSeq p n).leaveNow p n

/-- Remove a reference from a block. -/
def JobData.unrefBlock (j : JobData) (b : Nat) : JobData :=
  { j with blockRefs := Tbl.set 0 j.blockRefs b (Tbl.get 0 j.blockRefs b - 1) }

/-- A KV page loses a reference; at zero it goes to the held list (R172, R249, R250). -/
def State.unrefPage (s : State) (p n : Nat) : State :=
  let r := (s.page p n).refs
  let s := s.upPage p n fun g => { g with refs := g.refs - 1 }
  if r = 1 then s.upPt p fun q => { q with heldPages := q.heldPages ++ [n] } else s

/-- The oldest superseded version of a sequence retires (R172, R173). -/
def State.retireVersion (s : State) (p n : Nat) (v : Version) (rest : List Version) : State :=
  let q := s.seqOf p n
  let succ := match rest with
    | w :: _ => w.root
    | [] => q.root
  let j := (s.pt p).live
  let keep := (j.reach succ).map (·.1)
  let gone := (j.reach v.root).filter fun b => !keep.contains b.1
  let s := gone.foldl (fun s b =>
    (j.validEntries b.1).foldl (fun s e =>
      if b.2 < 2 then s.upJob p fun j => j.unrefBlock (ptChild e) else s.unrefPage p (leafPage e)) s) s
  let s := match v.root with
    | some r => if succ = some r then s else s.upJob p fun j => j.unrefBlock r
    | none => s
  (s.upSeq p n fun q => { q with old := rest, retired := v.num }).syncSeq p n

/-- Retire versions of a sequence in order while no walk pins the oldest (R173). -/
def State.retireSeq (s : State) (p n : Nat) : List Version → State
  | [] => s
  | v :: rest => if v.walks = 0 then (s.retireVersion p n v rest).retireSeq p n rest else s

/-- Step 3 of a boundary for one sequence's commit (R169). -/
def State.commitSeq (s : State) (p n : Nat) : State :=
  let q := s.seqOf p n
  match q.edit with
  | some e =>
    if e.valid = false then s
    else if 3 ≤ q.old.length then (s.upSeq p n fun q => { q with waiting := true }).syncSeq p n
    else s.commitEdit p n e
  | none => s

/-- Step 3 of a boundary: retirements, then commits in ascending sequence number (R169, R173). -/
def State.versionsBoundary (s : State) (p : Nat) : State :=
  let ns := (s.pt p).live.seqs.map (·.1)
  let s := ns.foldl (fun s n => s.retireSeq p n (s.seqOf p n).old) s
  ns.foldl (fun s n => s.commitSeq p n) s

/-- A leave of sequence `n`: an edit with EMPTY, now or when BUSY clears (R247). -/
def State.leaveSeq (s : State) (p n : Nat) : State :=
  if (s.seqOf p n).edit.isSome then s.upSeq p n fun q => { q with leave := true } else s.takeEdit p n 2

/-! ### Walks (R170) -/

/-- A walk opens and pins the current version. -/
def State.openWalk (s : State) (p n : Nat) : State := s.upSeq p n fun q => { q with walks := q.walks + 1 }

/-- A walk on version `v` closes. -/
def State.closeWalk (s : State) (p n : Nat) (v : W32) : State :=
  s.upSeq p n fun q =>
    if q.version = v then { q with walks := q.walks - 1 }
    else { q with old := q.old.map fun x => if x.num = v then { x with walks := x.walks - 1 } else x }

/-- Root of version `v` of a sequence. -/
def Seq.rootOf (q : Seq) (v : W32) : Option Nat :=
  if q.version = v then q.root else ((q.old.find? fun x => x.num = v).map (·.root)).getD none

/-- Leaf entry of the key at position `pos` of layer `layer` under `root`, with the blocks on its path; none when the
key is absent (R162, R165). -/
def JobData.walk (j : JobData) (root : Option Nat) (lpl layer pos : Nat) : Option (Nat × List Nat) :=
  match root with
  | none => none
  | some r =>
    if lpl * 131072 ≤ pos then none
    else
      let f := layer * lpl + pos / 131072
      let e0 := j.ptEntry r (f / 512)
      if e0 % 2 = 0 then none
      else
        let e1 := j.ptEntry (ptChild e0) (f % 512)
        if e1 % 2 = 0 then none
        else
          let e2 := j.ptEntry (ptChild e1) (pos / 256 % 512)
          if e2 % 2 = 0 then none else some (e2, [r, ptChild e0, ptChild e1])

end Sys2Proof.Machine
end

