-- ==== Sys2Proof/Machine/Cuts.lean ====
section
/-! DEFINITION. Cuts: when one is due, its course, and its durability (R251 to R261); pausing and resuming the
partition's issue (R49, R104). -/

namespace Sys2Proof.Machine

/-- Dispatchers of partition `p`, by D number. -/
def State.dispsOf (s : State) (p : Nat) : List Nat := (List.range (4 * s.k)).map (· + p * 4 * s.k)

/-- Tile issue stops from the boundary that ended beat `b`, and the harts are interrupted (R49, R104). -/
def State.pause (s : State) (p b : Nat) : State :=
  let t := s.upPt p fun q => { q with paused := some b }
  if (s.pt p).paused.isSome then t else (s.dispsOf p).foldl (fun s d => s.interruptHart d) t

/-- Issue resumes, stalled accesses are re-executed, and stopped pictures go on (R54, R104). -/
def State.unpause (s : State) (p : Nat) : State :=
  (s.dispsOf p).foldl (fun s d => s.resumeHart d) (s.upPt p fun q => { q with
    paused := none, live := { q.live with runs := q.live.runs.map fun e => (e.1, { e.2 with stopped := false }) } })

/-- Is no instruction of the partition in flight, and has every post and arrival reached its place (R49, R252)? DESIGN CHOICE, log entry 58. -/
def Ptn.drained (q : Ptn) : Bool :=
  (q.live.cores.all fun e => e.2.comp.isNone && e.2.move.isNone) && q.live.posts.isEmpty && q.live.arrivals.isEmpty

/-- Has every codec engine of the partition stopped and saved its context (R54, R252, R486)? -/
def Ptn.enginesStopped (q : Ptn) : Bool := q.live.runs.all fun e => e.2.stopped || e.2.start.isNone

/-- Has the partition an enabled collective group (R448)? -/
def State.grouped (s : State) (p : Nat) : Bool :=
  (List.range 64).any fun g => s.fld rColGrpShape (p + 1) g 63 63 == 1

/-- Have EFF_INTERVAL epochs passed since the last periodic cut (R251)? -/
def State.intervalOver (s : State) (p : Nat) : Bool :=
  s.fld rMemCutPtn 0 p 7 0 != 0 && s.fld rMemCutPtn 0 p 15 8 != 0 &&
    decide ((s.pt p).cutEpoch + s.fld rMemCutPtn 0 p 15 8 ≤ s.epoch)

/-- Is a periodic cut due at the boundary that begins beat `s.mgmt.beat` (R251)? -/
def State.periodicDue (s : State) (p : Nat) : Bool := s.mgmt.beat % 2 ^ 20 == 0 && s.intervalOver p

/-- Is the previous cut not yet durable (R251)? In a store that takes no write it stays so (R302). -/
def State.cutOpen (s : State) (p : Nat) : Bool :=
  (s.pt p).pend.isSome || (s.pt p).cutPhase != .idle || s.fld rStoHealth 0 0 3 0 == 4

/-- Has the initial cut still to be taken (R251)? -/
def Ptn.initDue (q : Ptn) : Bool := q.cutInit && q.pend.isNone && q.cutPhase == .idle

/-- Is some cut due (R251)? -/
def State.cutDue (s : State) (p : Nat) : Bool :=
  let q := s.pt p
  q.initDue || q.cutEarly || q.cutDefer || q.cutWaits ||
    (match q.cutTake with | some b => decide (b < s.mgmt.beat) | none => false) || s.periodicDue p

/-- Set MEM_CUT_PTNp STATE. -/
def State.setCutPhase (s : State) (p : Nat) (c : CutPhase) : State :=
  (s.upPt p fun q => { q with cutPhase := c }).setFld rMemCutPtn 0 p 23 22
    (match c with | .idle => 0 | .saving => 1 | .flushing => 2)

/-- How far each ring has completed: the SEQ below which every descriptor has (R335). -/
def Ptn.ringProgress (q : Ptn) (acc : Nat → Nat) : Tbl Nat :=
  (List.range 64).foldl (fun t n => Tbl.set 0 t n (match q.ringHead n with
    | some d => d.seq
    | none => acc n)) []

/-- The cut is taken at the boundary that ended beat `b`: issue stops, the harts take their interrupt, CUT_TAKEN is
raised (R252, R261). -/
def State.takeCut (s : State) (p b : Nat) : State :=
  let periodic := s.periodicDue p || (((s.pt p).cutDefer || (s.pt p).cutWaits) && s.intervalOver p)
  let s := (s.pause p b).setCutPhase p .saving
  let s := s.upPt p fun q =>
    { q with cutEarly := false, earlySeen := false, cutTake := none, cutDefer := false, cutWaits := false,
             cutMark := some (b, q.startOrd, q.ringProgress (s.accepted p)),
             cutEpoch := if periodic ∨ q.cutInit then s.epoch else q.cutEpoch }
  s.raiseAt (p + 1) 0x110 b 0 0 b

/-- Has a cut fallen due at this boundary beside those deferred before: the initial cut, a cut that waited, TAKE, a periodic cut, and an early
cut (R251)? -/
def State.newlyDue (s : State) (p : Nat) : Bool :=
  let q := s.pt p
  q.cutDefer == false || (q.cutEarly && !q.earlySeen) ||
    (match q.cutTake with | some b => decide (b < s.mgmt.beat) | none => false) || s.periodicDue p

/-- Each cut that falls due while the previous one is not durable is deferred, with its event (R251, R261). DEDUCED, log entry 99. -/
def State.deferCut (s : State) (p b : Nat) : State :=
  if s.newlyDue p = false then s
  else
    let s := (s.upPt p fun q => { q with cutDefer := true, cutTake := none, earlySeen := q.cutEarly }).setFld rMemCutPtn 0 p 20 20 1
    s.raiseAt (p + 1) 0x112 b 0 0 b

/-- Does a suspension take effect at the boundary that ended beat `b`? It comes before a cut (R43, R352). -/
def Ptn.suspends (q : Ptn) (b : Nat) : Bool :=
  q.job == .running && q.descs.any fun d => d.opcode == 5 && d.start.isSome && !d.done && decide (d.beat ≤ b)

/-- Has a STEP started whose entry point has not (R251)? -/
def Ptn.entering (q : Ptn) : Bool :=
  match q.step with
  | some t => !t.entered
  | none => false

/-- Step 5 of the boundary that ended beat `b`, cuts (R251, R353, R448). A periodic cut that falls due while no cut can be
taken waits. DEDUCED, log entry 100. -/
def State.cutBoundary (s : State) (p b : Nat) : State :=
  let q := s.pt p
  if s.cutDue p = false ∨ q.job = .noJob then s
  else if s.cutOpen p then s.deferCut p b
  else if (q.job ≠ .running ∧ q.cutInit = false) ∨ q.paused.isSome ∨ q.func ≠ .ready ∨ q.entering ∨ q.suspends b then
    if s.periodicDue p then s.upPt p fun q => { q with cutWaits := true } else s
  else if s.grouped p ∧ q.cutInit = false then s.upPt p fun q => { q with cutWaits := true }
  else s.takeCut p b

/-- The image of the partition as it stands, for a cut marked by its beat, the start order reached at it, and how far each ring had completed by
then: a STEP that started after it is no part of it (R335, R340). -/
def State.image (s : State) (p : Nat) (m : Nat × Nat × Tbl Nat) : CutImg :=
  let q := s.pt p
  let early := fun (t : StepSt) => match (q.findDesc t.sq t.seq).bind (·.start) with
    | some o => decide (o < m.2.1)
    | none => true
  { beat := m.1, data := q.live, step := q.step.filter early, ringDone := m.2.2, startOrd := m.2.1,
    openAt := (q.descs.filter fun d => d.start.isSome && !d.done).map fun d => (d.sq, d.seq),
    stepNo := q.stepNo, groups := (List.range 64).filter fun g => s.fld rColGrpShape (p + 1) g 63 63 == 1 }

/-- CUT_SAVE_DONE: the job state has been copied and the codec engines have saved their contexts: dirty pages get
CUT_COW and the save copy's pages are to be flushed, D restarts from 0, and issue resumes, but where a suspension holds it (R252, R352). -/
def cutSaveDone (p : Nat) (s : State) : State :=
  let q := s.pt p
  match q.cutMark with
  | none => s
  | some m =>
    if q.cutPhase ≠ .saving ∨ s.mgmt.beat < m.1 + 2 ∨ q.paused = none ∨ q.drained = false ∨ q.enginesStopped = false then s
    else
      let img := s.image p m
      let dirty := (q.live.pages.filter fun e => e.2.dirty && e.2.state != 0 && q.kind e.1 != 2).map (·.1)
      let s := s.upJob p fun j => { j with pages := j.pages.map fun e =>
        (e.1, { e.2 with touched := false, cow := e.2.cow || dirty.contains e.1 }) }
      let s := dirty.foldl (fun s n => s.storeWrite p n 3) s
      let s := (s.upPt p fun q =>
        { q with pend := some img, cutMark := none, flushed := 0, saveLeft := 4160 * s.k, cutSent := false }).setCutPhase p .flushing
      if q.job = .suspending ∨ q.job = .suspended ∨ q.job = .resuming then s else s.unpause p

/-- R252. -/
def execCutSaveDone (p : Nat) (s : State) : Res := s.live (cutSaveDone p)

/-- Descriptors that no rollback needs any more (R340). -/
def Ptn.forget (q : Ptn) (img : CutImg) : Ptn :=
  { q with descs := q.descs.filter fun d =>
      !(d.done && !img.openAt.contains (d.sq, d.seq) && match d.start with | some o => decide (o < img.startOrd) | none => true) }

/-- Has the flush ended? -/
def Ptn.flushDone (q : Ptn) : Bool := q.saveLeft == 0 && q.live.pages.all fun e => !e.2.cow && e.2.snap.isNone

/-- Has the flush ended with the save copy's last page (R252)? -/
def State.flushOver (s : State) (p : Nat) : Bool :=
  (s.pt p).flushDone && !s.store.writes.any fun w => w.p == p && decide (saveBase ≤ w.n)

/-- When the flush ends, the cut record goes to the journal buffer (R252, R303). -/
def State.sendCut (s : State) (p : Nat) : State :=
  if (s.pt p).cutPhase = .flushing ∧ (s.pt p).cutSent = false ∧ s.flushOver p ∧ s.storeWritable then
    (s.upPt p fun q => { q with cutSent := true }).sendRecord (.cut p) [((s.pt p).pend.map (·.beat)).getD 0]
  else s

/-- Of cuts, the newest first, those from the newest group cut whose STEP number does not exceed `g` on (R449). -/
def cutsFrom (g : Nat) : List CutImg → List CutImg
  | [] => []
  | c :: t => if c.stepNo ≤ g then [c] else c :: cutsFrom g t

/-- Durable cuts that a partition with a collective group keeps beside a newer one, within the two intervals of the cut reserve (R255,
R449). -/
def Ptn.keptCuts (q : Ptn) : List CutImg := (cutsFrom q.groupG (q.durable.toList ++ q.older)).take 2

/-- CUT_DURABLE: the flush has ended and the cut record has been acknowledged: only then does anything act on it, and in a read-only store no
cut becomes durable (R252, R255, R302, R304, R345). -/
def cutDurable (p : Nat) (s : State) : State :=
  let q := s.pt p
  match q.pend with
  | none => s
  | some img =>
    if q.cutPhase ≠ .flushing ∨ q.cutSent = false ∨ s.store.records.contains (.cut p) ∨ s.storeWritable = false then s
    else
      let bytes := q.flushed
      let s := { s with store := { s.store with
        lastFlush := Tbl.set 0 s.store.lastFlush p (if s.mirroring p then 0 else bytes) } }
      let s := s.upPt p fun q =>
        ({ q with pend := none, cutSent := false, durable := some { img with bytes := bytes }, targetLost := false,
                  older := if s.grouped p ∧ q.groupG < img.stepNo then q.keptCuts else [],
                  sqs := q.sqs.map fun (e : Nat × Sq) => (e.1, { e.2 with durable := Tbl.get 0 img.ringDone e.1 }) }).forget img
      let s := (s.setCutPhase p .idle).wr rMemCutDonePtn 0 p img.beat
      let s := (s.raiseP p 0x111 img.beat bytes).tally fun t => { t with cuts := t.cuts + 1 }
      if (s.pt p).cutInit then
        let s := (s.upPt p fun q => { q with cutInit := false, cutEpoch := img.beat / 2 ^ 20 }).setJob p .running
        match (s.pt p).descs.find? fun d => d.opcode == 1 && d.start.isSome && !d.done with
        | some d => s.finish p d Code.done 0 img.beat 0
        | none => s
      else s

/-- R252. -/
def execCutDurable (p : Nat) (s : State) : Res := s.live (cutDurable p)

/-- MEM_CUT_PTNp is written with TAKE: INTERVAL takes its value and a cut is requested for the next boundary (R251,
R261). -/
def memCutWrite (p v : Nat) (s : State) : State :=
  if 4 ≤ p ∨ s.present p = false then s
  else s.logged (0x501080 + 8 * p) 0 (s.rd rMemCutPtn 0 p) (bits v 16 16 * 65536 + bits v 7 0)
    (fun s =>
      let s := s.setFld rMemCutPtn 0 p 7 0 (bits v 7 0)
      if bits v 16 16 = 1 then s.upPt p fun q => { q with cutTake := some s.mgmt.beat } else s)
    id

/-- R251. -/
def execMemCutTake (p : Nat) (v : W64) (s : State) : Res :=
  s.live fun s => memCutWrite p v.toNat (s.unstage rMemCutPtn 0 p)

end Sys2Proof.Machine
end

