-- ==== Sys2Proof/Machine/Groups.lean ====
section
/-! DEFINITION. Collective groups: their shape, formation, waggle rounds and recovery (R403 to R405, R415 to R418, R447 to
R450). -/

namespace Sys2Proof.Machine

/-- R427. -/
def Code.colParam : Nat := 0x0401
/-- R427. -/
def Code.colMismatch : Nat := 0x0402
/-- R427. -/
def Code.keyAbsent : Nat := 0x0404
/-- R427. -/
def Code.groupFailed : Nat := 0x0405

/-! ### Rounds (R416) -/

/-- Members of a waggle round of the member at `a`, in the order in which their values combine: its hive, its row range,
its column range (R416). -/
def Shape.round (h : Shape) (a i : Nat) : List Nat :=
  let c := h.coords a
  match i with
  | 0 => (List.range h.ns).map fun k => h.addrAt c.1 c.2.1 k
  | 1 => (List.range h.nx).map fun k => h.addrAt c.1 k c.2.2
  | _ => (List.range h.ny).map fun k => h.addrAt k c.2.1 c.2.2

/-- The members with which the member at `a` exchanges waggle rounds (R405). -/
def Shape.near (h : Shape) (a : Nat) : List Nat :=
  ((List.range 3).flatMap fun i => h.round a i).filter (· ≠ a)

/-! ### Group state -/

/-- Group `g` of partition `p`. -/
def State.grp (s : State) (p g : Nat) : Grp := Tbl.get {} (s.pt p).col.groups g

/-- The collectives of a partition become `f` of themselves. -/
def State.upCol (s : State) (p : Nat) (f : Col → Col) : State := s.upPt p fun q => { q with col := f q.col }

/-- That group becomes `f` of itself. -/
def State.upGrp (s : State) (p g : Nat) (f : Grp → Grp) : State :=
  s.upCol p fun c => { c with groups := Tbl.put c.groups g (f (Tbl.get {} c.groups g)) }

/-- STATE of the group: 0 DISABLED, 1 FORMING, 2 READY, 3 FAILED. -/
def State.grpState (s : State) (p g : Nat) : Nat := s.fld rColGrpStatus (p + 1) g 1 0

/-- TAG of the group. -/
def State.grpTag (s : State) (p g : Nat) : Nat := s.fld rColGrpShape (p + 1) g 15 0

/-- The recovery group: the lowest-numbered enabled one (R447). -/
def State.recovery (s : State) (p : Nat) : Option Nat := (List.range 64).find? fun g => s.grpOn p g

/-- Set STATE; a change raises GROUP_STATE (R405). A rollback across the group is over when the recovery group is READY again (R450). -/
def State.setGrp (s : State) (p g st : Nat) : State :=
  if s.grpState p g = st then s
  else
    let s := s.setFld rColGrpStatus (p + 1) g 1 0 st
    let s := s.raiseP p 0x130 g (s.rd rColGrpStatus (p + 1) g)
    if st = 2 ∧ s.recovery p = some g then s.upCol p fun c => { c with target := 0 } else s

/-- GROUP_HELLO goes to every near member, with the rollback target (R405, R450). -/
def State.sendHello (s : State) (p g target : Nat) : State :=
  (s.grpShape p g).near s.addr |>.foldl (fun s a =>
    match s.routeIn (s.grpShape p g) a with
    | some (n, _) => s.sendMgmtTo n a Msg.groupHello
        [p, g, s.grpTag p g, bits (s.rd rColGrpShape (p + 1) g) 47 16, s.keyId p, target]
    | none => s) s

/-- The group becomes READY once every near member's hello has come (R405). -/
def State.checkReady (s : State) (p g : Nat) : State :=
  if s.grpState p g = 1 ∧ ((s.grpShape p g).near s.addr).all fun a => (s.grp p g).heard.any fun x => x.1 == a then
    s.setGrp p g 2
  else s

/-- A hello that names an enabled group by its TAG: it fails the group when its shape or key_id differs, else the member
is heard (R405). -/
def State.matchHello (s : State) (p g : Nat) (h : Hello) : State :=
  if h.shape.toNat ≠ bits (s.rd rColGrpShape (p + 1) g) 47 16 ∨ h.keyId.toNat ≠ s.keyId p then
    if s.grpState p g = 1 ∨ s.grpState p g = 2 then s.setGrp p g 3 else s
  else
    let a := h.src.toNat
    (s.upGrp p g fun x =>
      { x with heard := (a, h.sptn, h.group) :: x.heard.filter fun y => y.1 ≠ a }).checkReady p g

/-- The group begins to form: it sends its hellos and takes those that came before (R405). -/
def State.formGroup (s : State) (p g target : Nat) : State :=
  let s := s.upGrp p g fun _ => { since := s.mgmt.beat }
  let s := (s.setGrp p g 1).sendHello p g target
  let tag := s.grpTag p g
  let mine := (s.pt p).col.hellos.filter fun h => h.tag.toNat == tag
  let s := s.upCol p fun c => { c with hellos := c.hellos.filter fun h => h.tag.toNat != tag }
  (mine.foldl (fun s h => s.matchHello p g h) s).checkReady p g

/-- GROUP_HELLO arrives. A target other than 0 makes this member roll back to the same cut and tell the group in turn
(R450). -/
def groupHello (h : Hello) (s : State) : State :=
  let p := h.dptn
  if s.present p = false then s
  else match (List.range 64).find? fun g => s.grpOn p g && s.grpTag p g == h.tag.toNat with
    | none => s.upCol p fun c => { c with hellos := c.hellos ++ [h] }
    | some g =>
      if h.target ≠ 0 ∧ s.recovery p = some g ∧ (s.pt p).col.target ≠ h.target ∧ h.keyId.toNat = s.keyId p then
        let s := (s.upCol p fun c => { c with target := h.target, hellos := c.hellos ++ [h] }).wantRollback p 7
        s.upPt p fun q => { q with groupG := h.target }
      else s.matchHello p g h

/-- R405, R450. -/
def execGroupHello (h : Hello) (s : State) : Res := s.live (groupHello h)

/-- GROUP_FORMING_TIMEOUT: GROUP_STATE is raised once for a group still FORMING after two epochs (R405). -/
def groupFormingTimeout (p g : Nat) (s : State) : State :=
  if s.grpState p g = 1 ∧ (s.grp p g).warned = false ∧ 2 ^ 21 < s.since (s.grp p g).since then
    (s.upGrp p g fun x => { x with warned := true }).raiseP p 0x130 g (s.rd rColGrpStatus (p + 1) g)
  else s

/-- R405. -/
def execGroupFormingTimeout (p g : Nat) (s : State) : Res := s.live (groupFormingTimeout p g)

/-- Step 2 of a boundary for the groups of partition `p` (R43, R405). -/
def State.groupTimeouts (s : State) (p : Nat) : State :=
  (s.pt p).col.groups.foldl (fun s (e : Nat × Grp) => groupFormingTimeout p e.1 s) s

/-- Is a communication queue enabled on the group? -/
def State.grpUsed (s : State) (p g : Nat) : Bool :=
  (List.range 64).any fun q => s.fld rColCqCfg (p + 1) q 63 63 == 1 && s.fld rColCqCfg (p + 1) q 53 48 == g

/-- RESULT of the group's last write of EN. -/
def State.grpResult (s : State) (p g st : Nat) : State := s.setFld rColGrpStatus (p + 1) g 63 48 st

/-- COL_GRPg_SHAPE is written (R404). While the group is enabled only EN may change. -/
def colGrpWrite (p g v : Nat) (s : State) : State :=
  if s.present p = false ∨ s.tdiOpen (p + 1) = false then s
  else if s.grpOn p g then
    if bits v 63 63 = 1 then s.grpResult p g Code.done
    else if s.grpUsed p g then s.grpResult p g Code.resourceHeld
    else
      let s := (s.setFld rColGrpShape (p + 1) g 63 63 0).setGrp p g 0
      ((s.upGrp p g fun _ => {}).setFld rColGrpStatus (p + 1) g 47 20 0).grpResult p g Code.done
  else
    let s := s.setFld rColGrpShape (p + 1) g 47 0 v
    if bits v 63 63 = 0 then s.grpResult p g Code.done
    else
      let h := shapeOf v
      let q := s.pt p
      let tag := bits v 15 0
      if h.mask = 0 ∨ h.has s.addr = false then s.grpResult p g Code.invalidOperand
      else if q.job = .noJob ∨ q.job = .opening ∨ q.info.keyId = 0 then s.grpResult p g Code.keyAbsent
      else if (List.range 64).any fun x => x != g && s.grpOn p x && s.grpTag p x == tag then s.grpResult p g Code.resourceHeld
      else
        let s := (s.setFld rColGrpShape (p + 1) g 63 63 1).grpResult p g Code.done
        let s := (s.setFld rColGrpStatus (p + 1) g 47 35 h.size).setFld rColGrpStatus (p + 1) g 31 20 (h.rank s.addr)
        s.formGroup p g 0

/-- R404. -/
def execColGrpEnWrite (p g : Nat) (v : W64) (s : State) : Res :=
  s.live fun s => colGrpWrite p g v.toNat (s.unstage rColGrpShape (p + 1) g)

/-! ### Packets of a group (R376, R401) -/

/-- The partition and group number of a member: what its hello said, or for one that sends none the member's own (R405;
DEDUCED, log entry 39). -/
def State.peerOf (s : State) (p g a : Nat) : Nat × Nat :=
  match (s.grp p g).heard.find? fun y => y.1 == a with
  | some y => y.2
  | none => (p, g)

/-- Hand a packet of group `g` to the port of its route; false when there is none (R389, R401). `mk` builds the header
from the DL bit. -/
def State.sendVia (s : State) (p g dst vc : Nat) (mk : Nat → Slot) (data : List Slot) : State × Bool :=
  match s.routeIn (s.grpShape p g) dst with
  | none => (s, false)
  | some (n, dl) =>
    let x : TxPkt := { vc := vc, cls := if dl ∧ 2 ≤ vc then 1 else 0, part := p, key := p, slots := mk (if dl then 1 else 0) :: data }
    (s.upPort n fun q => { q with queue := q.queue ++ [x] }, true)

/-! ### Waggle rounds (R415 to R417) -/

/-- Combine two lane values by FUNC (R415). -/
def wagCombine (func : Nat) (a b : W64) : W64 :=
  let f := fun (op : Fv → Fv → Fv) =>
    BitVec.ofNat 64 (binFp64.encode 64 false .even (op (binFp64.decode 64 a.toNat) (binFp64.decode 64 b.toNat)))
  match func with
  | 1 => a + b
  | 2 => if b.slt a then b else a
  | 3 => if a.slt b then b else a
  | 4 => f Fv.addX
  | 5 => f Fv.minOf
  | 6 => f Fv.maxOf
  | _ => a

/-- A lane of a floating-point result: a NaN is the canonical quiet NaN, also where no other value was combined with it (R415). -/
def wagQuiet (func : Nat) (a : W64) : W64 :=
  if 4 ≤ func ∧ (binFp64.decode 64 a.toNat).isNan then 0x7FF8000000000000#64 else a

/-- Combine the members' lanes in order. -/
def wagFold (func : Nat) : List (List W64) → List W64
  | [] => []
  | a :: t => t.foldl (fun x y => (x.zip y).map fun z => wagCombine func z.1 z.2) a

/-- The messages of the present round go to the other members, a barrier's without data, the module's own marked in a reserved bit (R416, R417,
R448; DESIGN CHOICE, log entry 189); false when one has no route. -/
def State.wagSend (s : State) (p g : Nat) (w : Wag) : State × Bool :=
  (((s.grpShape p g).round s.addr w.round).filter (· ≠ s.addr)).foldl (fun (r : State × Bool) a =>
    let peer := r.1.peerOf p g a
    let per := w.gen % 2 ^ 32 + w.round * 2 ^ 32 + w.func * 2 ^ 34 + (w.lanes.length - 1) * 2 ^ 42 + (if w.own then 2 ^ 45 else 0)
    let data := if w.func = 0 then [] else dataSlots 4 (w.lanes.flatMap fun l => leBytes 8 l.toNat)
    let mk := fun dl => headerSlot 3 data.length 0 dl 0 a peer.1 peer.2 r.1.addr p 0 0 0 per
    let x := r.1.sendVia p g a 0 mk data
    (x.1, r.2 && x.2)) (s, true)

/-- What a dissemination comes to. -/
structure WagEnd where
  s : State
  w : Wag
  held : List WagMsg
  /-- COL_MISMATCH or ROUTE_LOST. -/
  bad : Option Nat := none

/-- Go through the rounds as far as the messages held allow (R416, R417). -/
def State.wagRun : Nat → State → Nat → Nat → Wag → List WagMsg → WagEnd
  | 0, s, _, _, w, held => { s := s, w := w, held := held }
  | fuel + 1, s, p, g, w, held =>
    if 3 ≤ w.round then { s := s, w := w, held := held }
    else
      let ms := (s.grpShape p g).round s.addr w.round
      let next := fun (s : State) (lanes : List W64) (held : List WagMsg) =>
        let w' : Wag := { w with round := w.round + 1, lanes := lanes }
        if 3 ≤ w'.round ∨ ((s.grpShape p g).round s.addr w'.round).length ≤ 1 then State.wagRun fuel s p g w' held
        else
          let r := s.wagSend p g w'
          if r.2 then State.wagRun fuel r.1 p g w' held else { s := r.1, w := w', held := held, bad := some Code.routeLost }
      if ms.length ≤ 1 then next s w.lanes held
      else
        let here := held.filter fun m => m.gen == w.gen && m.round == w.round
        if here.any fun m => m.func != w.func || m.lanes.length != w.lanes.length then
          { s := s, w := w, held := held, bad := some Code.colMismatch }
        else if ms.all fun a => a == s.addr || here.any fun m => m.src.toNat == a then
          let vals := ms.map fun a => if a = s.addr then w.lanes
            else ((here.find? fun m => m.src.toNat == a).map (·.lanes)).getD []
          next s (wagFold w.func vals) (held.filter fun m => !(m.gen == w.gen && m.round == w.round))
        else { s := s, w := w, held := held }

/-- A dissemination begins: the messages of its first round go out and the rounds run. -/
def State.wagStart (s : State) (p g : Nat) (w : Wag) (held : List WagMsg) : WagEnd :=
  if ((s.grpShape p g).round s.addr 0).length ≤ 1 then s.wagRun 4 p g w held
  else
    let r := s.wagSend p g w
    if r.2 then r.1.wagRun 4 p g w held else { s := r.1, w := w, held := held, bad := some Code.routeLost }

/-! ### The module's own waggles (R448) -/

/-- STEP number of the newest durable group cut. -/
def Ptn.newestCut (q : Ptn) : Nat := (q.durable.map (·.stepNo)).getD 0

/-- What the member's own waggles come to: the first says whether a group cut is due and after which STEP, the second
gives G (R448). -/
def WagEnd.own (e : WagEnd) (p g : Nat) : State :=
  let s := e.s
  if e.bad.isSome then s.upCol p fun c => { c with own := none, ownHeld := e.held }
  else if e.w.round < 3 then s.upCol p fun c => { c with own := some e.w, ownHeld := e.held }
  else if e.w.func = 3 then
    let s := s.upCol p fun c =>
      { c with cutAfter := if e.w.lanes.getD 0 0 = 1 then some (e.w.lanes.getD 1 0).toNat else c.cutAfter,
               ownGen := c.ownGen + 1, ownHeld := e.held }
    let r := s.wagStart p g { own := true, gen := (s.pt p).col.ownGen, func := 2, lanes := [BitVec.ofNat 64 (s.pt p).newestCut] } e.held
    if r.bad.isSome ∨ r.w.round < 3 then r.s.upCol p fun c => { c with own := if r.bad.isSome then none else some r.w, ownHeld := r.held }
    else (r.s.upCol p fun c => { c with own := none, ownHeld := r.held, ownGen := c.ownGen + 1 }).upPt p fun q =>
      { q with groupG := (r.w.lanes.getD 0 0).toNat }
  else (s.upCol p fun c => { c with own := none, ownHeld := e.held, ownGen := c.ownGen + 1 }).upPt p fun q =>
    { q with groupG := (e.w.lanes.getD 0 0).toNat }

/-- Step 6 of an epoch boundary: the recovery group's module waggles begin (R448). -/
def State.ownWaggles (s : State) (p : Nat) : State :=
  match s.recovery p with
  | none => s
  | some g =>
    if s.grpState p g ≠ 2 ∨ (s.pt p).col.own.isSome ∨ (s.pt p).job ≠ .running then s
    else
      let due : W64 := if s.cutDue p then 1 else 0
      let c := (s.pt p).col
      (s.wagStart p g { own := true, gen := c.ownGen, func := 3, lanes := [due, BitVec.ofNat 64 (s.pt p).stepNo] } c.ownHeld).own p g

/-- Every communication queue has DONE = TAIL (R448). -/
def State.queuesDrained (s : State) (p : Nat) : Bool :=
  (List.range 64).all fun q =>
    if s.fld rColCqCfg (p + 1) q 63 63 = 1 then
      let off := s.fld rColCqCfg (p + 1) q 31 0
      (s.pt p).live.slm.rdLe off 8 == (s.pt p).live.slm.rdLe (off + 16) 8
    else true

/-- When the buddy is reachable again, STATE returns to mirroring at the next cut, and that cut flushes every uncapped
page (R453). -/
def State.buddyBack (s : State) (p : Nat) : State :=
  if s.fld rMemBuddyPtn 0 p 2 1 = 2 ∧ (s.route (s.fld rMemBuddyPtn 0 p 47 36) 0 noSpan noSpan none false).isSome then
    (s.setFld rMemBuddyPtn 0 p 2 1 1).upJob p fun j => { j with pages := j.pages.map fun e =>
      (e.1, if e.2.capped ∨ e.2.state = 0 ∨ e.2.state = 6 then e.2 else { e.2 with dirty := true }) }
  else s

/-- GROUP_CUT: at a boundary, the cut is taken once STEP s* has completed and every queue is drained; while one is not, it is deferred,
with one event in an epoch. A cut waits while the previous group cut is newer than G (R448). -/
def groupCut (p : Nat) (s : State) : State :=
  let q := s.pt p
  match q.col.cutAfter with
  | none => s
  | some n =>
    if q.col.judged = s.mgmt.beat ∨ q.job ≠ .running ∨ q.paused.isSome ∨ q.func ≠ .ready ∨ q.step.isSome ∨ q.stepNo < n then s
    else if s.cutOpen p ∨ q.groupG < q.newestCut ∨ s.queuesDrained p = false then
      if q.cutDeferEpoch = some s.epoch then s
      else
        let s := (s.upPt p fun q => { q with cutDeferEpoch := some s.epoch, cutDefer := true }).setFld rMemCutPtn 0 p 20 20 1
        s.raiseAt (p + 1) 0x112 s.lastBeat 0 0 s.lastBeat
    else
      let s := s.upCol p fun c => { c with cutAfter := none }
      ((s.upPt p fun q => { q with cutEpoch := s.epoch }).buddyBack p).takeCut p s.lastBeat

/-- R448. -/
def execGroupCut (p : Nat) (s : State) : Res := s.live (groupCut p)

/-! ### The end of a job and rollback (R356, R404, R414, R450) -/

/-- Collective groups and communication queues of the partition are disabled, and its keys erased (R356, R393, R404). -/
def State.colClose (s : State) (p : Nat) : State :=
  let s := (List.range 64).foldl (fun s g =>
    let s := if s.grpOn p g then ((s.setFld rColGrpShape (p + 1) g 63 63 0).setGrp p g 0).setFld rColGrpStatus (p + 1) g 47 20 0 else s
    (s.setFld rColCqCfg (p + 1) g 63 63 0).setFld rColCqStatus (p + 1) g 1 0 0) s
  (s.upCol p fun _ => {}).retireKeys p

/-- Pins of the operations that are pending. -/
def Col.pins (c : Col) : List Nat := c.ops.flatMap fun o => if o.done then [] else o.pins

/-- At a rollback the partition's pending operations and trigger counters are discarded and every group is FAILED; then
those that were enabled at the cut form again, the recovery group's hello naming the target (R414, R450). -/
def State.colRollback (s : State) (p : Nat) (img : CutImg) : State :=
  let s := s.upCol p fun c =>
    { c with trig := [], ops := [], taken := 0, own := none, ownHeld := [], cutAfter := none, target := img.stepNo }
  let on := (List.range 64).filter fun g => s.grpOn p g
  let first := s.recovery p
  let s := on.foldl (fun s g => s.setGrp p g 3) s
  (on.filter img.groups.contains).foldl (fun s g => s.formGroup p g (if first = some g then img.stepNo else 0)) s

end Sys2Proof.Machine
end

