-- ==== Sys2Proof/Machine/Release.lean ====
section
/-! DEFINITION. What ends with a job: collective groups and queues, codec sessions, pages, keys (R224, R356, R393,
R404, R469). -/

namespace Sys2Proof.Machine

/-- The little-endian value of `n` bytes at offset `o` of the session block (R470). -/
def CdcSes.fld (c : CdcSes) (o n : Nat) : Nat := leNat ((c.block.drop o).take n)

/-- ENGINE of the session block. -/
def CdcSes.engine (c : CdcSes) : Nat := c.fld 2 1

/-- The CE number of engine `e` of partition `p` (R22, R465). -/
def State.ceOf (s : State) (p e : Nat) : Nat := p * 2 * s.k + e

/-- That engine's own record. -/
def State.eng (s : State) (p e : Nat) : CdcEng := Tbl.get {} s.engines (s.ceOf p e)

/-- Codec sessions of the partition are closed (R356, R469). -/
def State.codecClose (s : State) (p : Nat) : State := s.upJob p fun j => { j with codec := [], runs := [] }

/-- At a rollback codec sessions return to their contexts in the cut: a picture in progress at the cut goes on once its
pages are pinned again, and a session of a FAILED engine is FAILED (R487, R488). -/
def State.codecRollback (s : State) (p : Nat) : State :=
  s.upJob p fun j =>
    { j with runs := j.runs.map fun e => (e.1, { e.2 with start := none, stopped := false }),
             codec := j.codec.map fun e => (e.1, if (s.eng p e.2.engine).failed ∧ e.2.state = 1 then { e.2 with state := 2 } else e.2) }

/-- Every page and cut image of the job is released, with the save area; its store writes are discarded and
its store key is destroyed (R224, R356, R509). -/
def State.releasePages (s : State) (p : Nat) : State :=
  let s := s.upPt p fun q =>
    { q with live := {}, info := {}, pend := none, durable := none, older := [], saved := none, used := 0, step := none,
             heldPages := [], paused := none, checks := [], cutInit := false, cutEarly := false, cutDefer := false, cutWaits := false,
             cutTake := none, trqStop := false, need := 0, wants := [], fetchQ := [], unitQ := [], began := [], earlySeen := false, saveLeft := 0, cutSent := false, scanAt := 0,
             stepNo := 0, targetLost := false, resumeRoll := none,
             susp := none, resume := none }
  let s := { s with sec := { s.sec with storeKeys := Tbl.del s.sec.storeKeys p },
                    store := { s.store with writes := s.store.writes.filter fun w => w.p != p },
                    timers := s.timers.filter fun t => match t.kind with
                      | .ccwait d => decide ((s.dispPos d).1 ≠ p) }
  s.setCutPhase p .idle

/-- The job of the partition is released, in the order of R356, and its buddy is told (R452). -/
def State.releaseJob (s : State) (p : Nat) : State :=
  ((((s.colClose p).codecClose p).releasePages p).tellBuddy p "BUDDY_CLOSED" []).endLevel (p + 1) 0x113

end Sys2Proof.Machine
end

