-- ==== Sys2Proof/Machine/Jobs.lean ====
section
/-! DEFINITION. The descriptors of a job other than JOB_OPEN and CODEC: STEP and its manifest, EGRESS and INGRESS,
suspension, resumption, closing and aborting (R246 to R250, R340 to R342, R346 to R357). -/

namespace Sys2Proof.Machine

/-! ### STEP (R246 to R250, R346 to R348) -/

/-- Manifest entry fields (R346). -/
def manRole (e : W64 × W64) : Nat := bits e.1.toNat 17 16
/-- See `manRole`. -/
def manSeq (e : W64 × W64) : Nat := bits e.1.toNat 15 0
/-- See `manRole`. -/
def manCount (e : W64 × W64) : Nat := bits e.2.toNat 48 32
/-- See `manRole`. -/
def manSpadOff (e : W64 × W64) : Nat := bits e.2.toNat 31 0

/-- A manifest as entries of two words. -/
def manEntries : List W64 → List (W64 × W64)
  | a :: b :: t => (a, b) :: manEntries t
  | _ => []

/-- STEP starts: the checks of R346 and R347 that end it at once, then the manifest is read. STEPs start in the order
in which they became ready, one at a time (R336). DEDUCED, log entry 104. -/
def stepStart (p : Nat) (d : ADesc) (manifest : Option (List W64)) (s : State) : State :=
  let q := s.pt p
  let first := q.descs.all fun e => e.done || e.ready == 0 || e.start.isSome || decide (d.ready ≤ e.ready)
  if q.job = .running ∧ (q.step.isSome ∨ first = false ∨ d.ready = 0) then s
  else s.withJob p d fun s =>
    let entry := bits (d.w 2) 15 0
    let count := bits (d.w 5) 12 0
    let spad := bits (d.w 5) 63 32
    if q.info.entries.length ≤ entry ∨ s.scratchSize p < spad + 16 * count then
      s.finish p d Code.invalidDescriptor 0 0 0
    else match (if count = 0 then some [] else manifest) with
      | none => s.finish p d Code.aborted 5 0 0
      | some ws =>
        if ws.length ≠ 2 * count then s
        else s.upPt p fun q => { q with step := some {
          sq := d.sq, seq := d.seq, start := s.mgmt.beat, entry := entry, arg := BitVec.ofNat 64 (d.w 3),
          manAddr := d.w 4, manSpad := spad, count := count, manifest := ws } }

/-- R346. -/
def execStep (p n : Nat) (manifest : Option (List W64)) (s : State) : Res :=
  s.live fun s => s.startRow p n 2 (fun _ => true) fun d s => stepStart p d manifest s

/-- Pages of an entry's reservation list, from the scratchpad (R246). -/
def Ptn.resvWords (q : Ptn) (e : W64 × W64) : List Nat :=
  (List.range (manCount e)).map fun i => q.live.slm64 (manSpadOff e + 8 * i)

/-- Does the list hold a repeat? -/
def hasRepeat : List Nat → Bool
  | [] => false
  | a :: t => t.contains a || hasRepeat t

/-- What an entry of the manifest comes to at the opening: a status, or none while its reservation waits; the pages
that earlier entries named, and the sequences that earlier entries named by role (R246, R347). -/
structure ManAcc where
  out : List (Option Nat) := []
  pages : List Nat := []
  joins : List Nat := []
  leaves : List Nat := []
deriving DecidableEq, Repr

/-- One entry (R246, R347). -/
def Ptn.manEntry (q : Ptn) (scratch : Nat) (a : ManAcc) (e : W64 × W64) : ManAcc :=
  let role := manRole e
  let n := manSeq e
  let words := q.resvWords e
  -- the sequence stands in this entry, whatever becomes of it (R347)
  let b : ManAcc := if role = 3 then { a with leaves := n :: a.leaves } else if role = 0 then a else { a with joins := n :: a.joins }
  let bad := { b with out := a.out ++ [some Code.invalidOperand] }
  if role = 0 ∨ bits e.1.toNat 63 48 ≠ 0 ∨ bits e.1.toNat 31 18 ≠ 0 ∨ bits e.2.toNat 63 49 ≠ 0 ∨
      q.info.seqEntries ≤ n ∨ 65536 < manCount e then bad
  else if role = 3 then
    if manCount e ≠ 0 ∨ a.leaves.contains n then bad
    else { b with out := a.out ++ [some Code.done] }
  else if a.joins.contains n then bad
  else if manCount e = 0 then { b with out := a.out ++ [some Code.done] }
  else if manSpadOff e % 8 ≠ 0 ∨ scratch < manSpadOff e + 8 * manCount e then bad
  else
    let pages := words.map fun w => bits w 47 18
    if words.any (fun w => bits w 63 48 != 0 || bits w 17 0 != 0) ∨ pages.any (fun n => q.kind n != 3) ∨
        pages.any (fun n => (q.live.page n).state != 0) ∨ hasRepeat pages ∨ pages.any (fun n => a.pages.contains n) then bad
    else { b with out := a.out ++ [none], pages := pages ++ a.pages }

/-- What an entry comes to when its outcome at the first opening is journaled as `old`: it keeps that, and a reservation that was granted
waits for frames again. One granted then that no longer passes the checks is left; DESIGN CHOICE, log entry 186 (R341). -/
def keptOutcome (old : Option Nat) (out : Option Nat) : Option Nat :=
  match old with
  | none => out
  | some c => if c = Code.done ∧ out = none then none else some c

/-- Held pages return: their charges to the pool, their frames to the free frames (R250). -/
def State.returnHeld (s : State) (p : Nat) : State :=
  let ns := (s.pt p).heldPages
  let s := ns.foldl (fun s n =>
    let g := s.page p n
    let was := g.state
    let s := s.upJob p fun j => { (j.upPage n fun g =>
      { region := g.region, snap := if g.cow then some g.stack else g.snap }) with dv := zeroPage j.dv n }
    let s := s.upWrites p n fun w => if w.snap ∨ g.cow then some { w with snap := true } else none
    if was = 0 then s else s.uncharge p 1) s
  s.upPt p fun q => { q with heldPages := [] }

/-- The manifest, with the final status of each entry, is copied to the scratchpad (R346). -/
def State.copyManifest (s : State) (p : Nat) (t : StepSt) : State :=
  let es := (manEntries t.manifest).zip t.statuses
  let bytes := es.flatMap fun e => leBytes 8 (setBits e.1.1.toNat 47 32 e.2) ++ leBytes 8 e.1.2.toNat
  (s.slmStore p (bwrites t.manSpad bytes) none).1

/-- The entry point starts on every dispatcher of the partition (R348). -/
def State.enterStep (s : State) (p : Nat) : State :=
  match (s.pt p).step with
  | none => s
  | some t =>
    let off := (s.pt p).info.entries.getD t.entry 0
    let s := (s.dispsOf p).foldl (fun s d => s.upDisp d fun x =>
      { x with pc := BitVec.ofNat 64 (0x10000 + off), running := true, ended := none, umode := true, stall := none,
               x := Tbl.set 0 (Tbl.set 0 (Tbl.set 0 x.x 10 t.arg) 11 (BitVec.ofNat 64 t.manSpad)) 12 (BitVec.ofNat 64 t.count) }) s
    s.upPt p fun q =>
      { (q.upDesc t.sq t.seq fun d => { d with outcomes := some (d.outcomes.getD t.statuses) }) with
        step := some { t with entered := true } }

/-- The reservation lists of a manifest are read, and their uncorrectable words met (R246, R281). -/
def State.readLists (s : State) (p : Nat) (es : List (W64 × W64)) : State :=
  es.foldl (fun s e => if manRole e = 1 ∨ manRole e = 2 then s.slmMeet p (manSpadOff e) (8 * manCount e) else s) s

/-- STEP_OPEN: beat O. Held pages return; leaves are requested; entries are checked; the frames that reservations need
are asked for, for which eviction starts; with no reservation list in the manifest it is copied, and the entry point starts in beat O + 1
(R247, R250, R341, R346). DESIGN CHOICE, log entry 47. -/
def stepOpen (p : Nat) (s : State) : State :=
  match (s.pt p).step with
  | none => s
  | some t =>
    if t.opened.isSome ∨ s.mgmt.beat ≤ t.start ∨ (s.pt p).job ≠ .running ∨ (s.pt p).paused.isSome ∨
        (s.pt p).col.cutAfter.any (· ≤ (s.pt p).stepNo) then s
    else
      let es := manEntries t.manifest
      let s := (s.returnHeld p).readLists p es
      let a := es.foldl ((s.pt p).manEntry (s.scratchSize p)) {}
      let old := ((s.pt p).findDesc t.sq t.seq).bind fun d => d.outcomes
      let outs := (a.out.zip (List.range es.length)).map fun x => keptOutcome (old.bind fun l => l[x.2]?) x.1
      let s := (es.zip (a.out.zip outs)).foldl (fun s e =>
        if manRole e.1 = 3 ∧ e.2.1 = some Code.done ∧ e.2.2 = some Code.done then s.leaveSeq p (manSeq e.1) else s) s
      let t := { t with opened := some s.mgmt.beat, resv := es.any fun e => manCount e != 0,
                        statuses := outs.map fun o => o.getD 0xffff }
      let s := s.upPt p fun q =>
        { q with need := (es.zip outs).foldl (fun n e => if e.2.isNone then n + manCount e.1 else n) 0, stepNo := q.stepNo + 1,
                 col := if s.grouped p then { q.col with trig := [] } else q.col,
                 step := some t }
      if t.resv then s else s.copyManifest p t

/-- R247. -/
def execStepOpen (p : Nat) (s : State) : Res := s.live (stepOpen p)

/-- A page is granted: a zeroed frame, HBM state, not evicted during the step (R248). -/
def State.grantPage (s : State) (p n : Nat) : State :=
  match s.place p n with
  | none => s
  | some i =>
    let r := ((s.pt p).region n).map (·.1)
    (s.takeFrame p n i fun g =>
      { g.soil with age := 0, placed := true, region := r.getD 0, capped := false, evicted := false, fetched := 0 }).upJob p
      fun j => { j with dv := zeroPage j.dv n }

/-- The step's entry point starts in beat O + 1 when no reservation list delays it: at the boundary that ends beat O or, while the partition is
paused, at a later one (R247). -/
def State.enterDue (s : State) (p : Nat) : State :=
  match (s.pt p).step with
  | none => s
  | some t =>
    if t.opened.isNone ∨ t.resv ∨ t.entered ∨ (s.pt p).paused.isSome ∨ (s.pt p).job ≠ .running then s else s.enterStep p

/-- The frames free at the boundary that ends beat O + 4, from which the reservations are made (R247). -/
def State.noteFrames (s : State) (p : Nat) : State :=
  let n := s.freeFrames p
  s.upPt p fun q => { q with step := q.step.map fun t =>
    if t.resv && !t.entered && t.frames.isNone && (t.opened.map fun o => decide (5 ≤ s.since o)).getD false then { t with frames := some n } else t }

/-- The reservations, in manifest order, from `room` frames: each granted whole or refused whole (R247, R248). An entry journaled as granted
waits for frames, so the whole opening waits (R341): none. -/
def State.reserve (s : State) (p room : Nat) (old : Option (List Nat)) : Nat → List ((W64 × W64) × Nat) → Option (State × List Nat)
  | _, [] => some (s, [])
  | i, (e, st) :: rest =>
    if st ≠ 0xffff then (s.reserve p room old (i + 1) rest).map fun r => (r.1, st :: r.2)
    else
      let pages := ((s.pt p).resvWords e).map fun w => bits w 47 18
      let before := old.map fun l => l.getD i Code.done
      if before = some Code.deferred then (s.reserve p room old (i + 1) rest).map fun r => (r.1, Code.deferred :: r.2)
      else if s.canCharge p pages.length ∧ pages.length ≤ room ∧ pages.length ≤ s.freeFrames p then
        ((pages.foldl (fun s n => s.grantPage p n) (s.charge p pages.length)).reserve p (room - pages.length) old (i + 1) rest).map
          fun r => (r.1, Code.done :: r.2)
      else if before.isSome then none
      else (s.reserve p room old (i + 1) rest).map fun r => (r.1, Code.deferred :: r.2)

/-- RESERVATION: beat O + 5. Reservations are made, the manifest is copied and the entry point starts (R247, R248, R346). -/
def reservation (p : Nat) (s : State) : State :=
  match (s.pt p).step with
  | none => s
  | some t =>
    match t.opened with
    | none => s
    | some o =>
      if t.resv = false ∨ t.entered ∨ s.since o < 5 ∨ (s.pt p).paused.isSome ∨ (s.pt p).job ≠ .running then s
      else
        let old := (((s.pt p).findDesc t.sq t.seq).bind fun d => d.outcomes)
        match s.reserve p (t.frames.getD (s.freeFrames p)) old 0 ((manEntries t.manifest).zip t.statuses) with
        | none => s
        | some (s, sts) =>
          ((s.upPt p fun q => { q with need := 0, step := some { t with statuses := sts } }).copyManifest p { t with statuses := sts }).enterStep p

/-- R247. -/
def execReservation (p : Nat) (s : State) : Res := s.live (reservation p)

/-! ### EGRESS and INGRESS (R350, R351) -/

/-- The checks of the whole span before any byte moves (R350). -/
def State.copyCheck (s : State) (p va len : Nat) (egress : Bool) : Nat :=
  let q := s.pt p
  let ns := pagesOfRange va len
  if q.inRange [(va, len)] = false ∨ (egress ∧ ns.any fun n => q.kind n == 2) then Code.invalidOperand
  else if egress ∧ ns.any (fun n => q.pageBound n) then Code.boundPageEgress
  else if egress = false ∧ ns.any (fun n => (q.live.page n).capped || q.kind n == 2) then Code.readOnlyPage
  else if ns.any (fun n => (q.live.page n).state == 0) then Code.unbackedPage
  else Code.done

/-- The part of a span that lies in its first page. -/
def firstPart (va len : Nat) : Nat := Nat.min len (262144 - va % 262144)

/-- What a copy meets at its next page. -/
inductive CopyStep where
  | wait
  | full
  | refuse (code : Nat)
  | bad (sector : Nat)
  | go (bytes : Nat)
deriving DecidableEq, Repr

/-- The next page of a copy: it is pinned as a MOVE would pin it, and its bytes go up to the first uncorrectable sector that the copy cannot
pass, which pauses the copy there (R351). -/
def State.copyNext (s : State) (p who va len : Nat) (egress : Bool) : CopyStep :=
  let n := pageOf va
  match s.residOf p n (!egress) with
  | .refuse c => .refuse c
  | .wait => .wait
  | .pin =>
    if s.unitMay p who [n] = false then .full
    else
      let met := if egress then s.dvBadIn p [(va, firstPart va len)]
        else (s.page p n).bad.filter fun u => touchesUnit 64 u (bwrites va (List.replicate (firstPart va len) 0#8)) &&
          !(decide (va ≤ u * 64) && decide (u * 64 + 64 ≤ va + firstPart va len))
      match met with
      | [] => .go (firstPart va len)
      | u :: t =>
        let u := t.foldl Nat.min u
        if va < u * 64 then .go (u * 64 - va) else .bad u

/-- Move a copy on, page by page, at most `fuel` pages; `src` is what an INGRESS writes. It answers the state, the offset reached, whether a
write was dropped (R174), and the status when the copy has ended. -/
def State.copyRun (s : State) (p who va len off : Nat) (host : Nat) (src : Option Bytes) : Nat → State × Nat × Bool × Option Nat
  | 0 => (s, off, false, none)
  | fuel + 1 =>
    if len ≤ off then (s, off, false, some Code.done)
    else
      let a := va + off
      let n := pageOf a
      match s.copyNext p who a (len - off) src.isNone with
      | .wait => (s.askPages p who (if src.isNone then [n] else []) (if src.isNone then [] else [n]), off, false, none)
      | .full => (s.unitWait p who, off, false, none)
      | .refuse c => (s, off, false, some c)
      | .bad u => (s.meetBad p u, off, false, none)
      | .go m =>
        match src with
        | none =>
          let s := s.pinUnits p who [n] []
          let s := (s.emit (.hostWrite (p + 1) (host + off) (s.dvRead p a m))).unpinUnit p n false
          s.copyRun p who va len (off + m) host src fuel
        | some bs =>
          let r := (s.pinUnits p who [] [n]).dvWrite p (bwrites a ((bs.drop off).take m))
          let t := (r.1.unpinUnit p n true).copyRun p who va len (off + m) host src fuel
          (t.1, t.2.1, r.2.1 || t.2.2.1, t.2.2.2)

/-- How far a copy at `off` of `len` bytes may go: in a pre-emption to its next 4 KiB boundary (R351). DEDUCED, log entry 187. -/
def Ptn.copyEnd (q : Ptn) (va off len : Nat) : Nat :=
  if q.paused.isNone then len else Nat.min len (off + (4096 - (va + off) % 4096) % 4096)

/-- A copy starts or continues: a row on a started copy whose page has come back continues it; a copy that met an uncorrectable sector ends
REPLAYED, and one with a dropped write PT_WRITE_VIOLATION (R174, R351). -/
def State.copyGo (s : State) (p : Nat) (d : ADesc) (va host : Nat) (src : Option Bytes) (len : Nat) : State :=
  let who := unitOfRing d.sq
  let stop := (s.pt p).copyEnd va d.offset len
  let r := s.copyRun p who va stop d.offset host src (2 * (len / 262144) + 4)
  let hit := d.hit || (r.2.2.2.isNone && (r.1.page p (pageOf (va + r.2.1))).drop)
  let dropped := d.dropped || r.2.2.1
  let s := r.1.upPt p fun q => q.upDesc d.sq d.seq fun x => { x with offset := r.2.1, hit := hit, dropped := dropped }
  match (if r.2.2.2 = some Code.done ∧ stop < len then none else r.2.2.2) with
  | some c =>
    (s.stopWaiting p who).finish p d (if c ≠ Code.done then c else if dropped then Code.ptWriteViolation else if hit then Code.replayed else c) 0 len 0
  | none => s

/-- A descriptor row that may also continue a copy in progress. -/
def State.copyRow (s : State) (p n op : Nat) (f : ADesc → State → State) : State :=
  match (s.pt p).ringHead n with
  | some d =>
    if d.start.isSome ∧ d.opcode = op then
      if (s.pt p).job = .running ∧ (s.pt p).paused = none ∧ s.startsOpen p then f d s else s
    else s.startRow p n op (fun _ => true) fun d s => s.withJob p d fun s => f d s
  | none => s

/-- EGRESS (R350, R351). It moves nothing while the function may not write host memory (R321). -/
def execEgress (p n : Nat) (s : State) : Res :=
  s.live fun s => s.copyRow p n 3 fun d s =>
    let c := if d.start.isSome then Code.done else s.copyCheck p (d.w 2) (bits (d.w 4) 31 0) true
    if c = Code.done then (if s.busMaster (p + 1) then s.copyGo p d (d.w 2) (d.w 3) none (bits (d.w 4) 31 0) else s)
    else s.finish p d c 0 (bits (d.w 4) 31 0) 0

/-- INGRESS; `src` is what the host's memory gives, none on a read error (R350, R351). -/
def execIngress (p n : Nat) (src : Option Bytes) (s : State) : Res :=
  s.live fun s => s.copyRow p n 4 fun d s =>
    let len := bits (d.w 4) 31 0
    let c := if d.start.isSome then Code.done else s.copyCheck p (d.w 3) len false
    if c ≠ Code.done then s.finish p d c 0 len 0
    else match src with
      | none => s.finish p d Code.aborted 5 len 0
      | some bs => if bs.length = len then s.copyGo p d (d.w 3) 0 (some bs) len else s

/-! ### Suspension and resumption (R352 to R354) -/

/-- JOB_SUSPEND starts; it acts at the next boundary. -/
def execJobSuspend (p n : Nat) (s : State) : Res :=
  s.live fun s => s.startRow p n 5 (fun _ => true) fun d s => s.started p d

/-- The started descriptor of an opcode that has waited for a boundary. -/
def State.control (s : State) (p op : Nat) : Option ADesc :=
  (s.pt p).descs.find? fun d => d.opcode == op && d.start.isSome && !d.done && decide (d.beat < s.mgmt.beat)

/-- SUSPENSION_EFFECT: JOB_SUSPEND acts on the state it finds (R352). -/
def suspensionEffect (p : Nat) (s : State) : State :=
  match s.control p 5 with
  | none => s
  | some d =>
    if (s.pt p).rolling.isSome ∨ (s.pt p).susp.isSome then s
    else match (s.pt p).job with
      | .suspended => s.finish p d Code.done 0 0 0
      | .noJob => s.finish p d Code.aborted 4 0 0
      | .running =>
        let s := (s.setJob p .suspending).pause p s.lastBeat
        s.upPt p fun q => { q with susp := some (d.sq, d.seq, s.lastBeat) }
      | _ => s

/-- R352. -/
def execSuspensionEffect (p : Nat) (s : State) : Res := s.live (suspensionEffect p)

/-- SUSPEND_SAVE_DONE: the job state is in the save copy and the codec engines have stopped (R352). -/
def suspendSaveDone (p : Nat) (s : State) : State :=
  match (s.pt p).susp with
  | none => s
  | some (sq, seq, b) =>
    if s.mgmt.beat < b + 2 ∨ (s.pt p).drained = false ∨ (s.pt p).enginesStopped = false then s
    else
      let img := s.image p (b, (s.pt p).startOrd, (s.pt p).ringProgress (s.accepted p))
      let s := (s.upPt p fun q => { q with susp := none, saved := some img }).setJob p .suspended
      match (s.pt p).findDesc sq seq with
      | some d => s.finish p d Code.done 0 0 0
      | none => s

/-- R352. -/
def execSuspendSaveDone (p : Nat) (s : State) : Res := s.live (suspendSaveDone p)

/-- JOB_RESUME starts; it acts at the next boundary. -/
def execJobResume (p n : Nat) (s : State) : Res :=
  s.live fun s => s.startRow p n 6 (fun _ => true) fun d s => s.started p d

/-- RESUMPTION_EFFECT: JOB_RESUME acts on the state it finds (R354). -/
def resumptionEffect (p : Nat) (s : State) : State :=
  match s.control p 6 with
  | none => s
  | some d =>
    if (s.pt p).rolling.isSome ∨ (s.pt p).resume.isSome then s
    else match (s.pt p).job with
      | .running => s.finish p d Code.done 0 0 0
      | .noJob => s.finish p d Code.aborted 4 0 0
      | .suspended => (s.upPt p fun q => { q with resume := some (d.sq, d.seq, s.lastBeat) }).setJob p .resuming
      | _ => s

/-- R354. -/
def execResumptionEffect (p : Nat) (s : State) : Res := s.live (resumptionEffect p)

/-- JOB_CLOSE without ABORT starts with its implied FENCE when the job is RUNNING or NO_JOB, and releases the job
(R342, R356). -/
def jobClose (p : Nat) (d : ADesc) (s : State) : State :=
  match (s.pt p).job with
  | .noJob => (s.started p d).finish p d Code.done 0 0 0
  | .running =>
    let s := ((s.started p d).setJob p .closing).releaseJob p
    (s.finish p d Code.done 0 0 0).setJob p .noJob
  | _ => s

/-- R356. -/
def execJobClose (p n : Nat) (s : State) : Res :=
  s.live fun s => s.startRow p n 7 (fun d => d.func == 0) fun d s => jobClose p d s

/-- JOB_CLOSE with ABORT starts at its acceptance, whatever precedes it on its control ring (R336, R357). -/
def jobCloseAbort (p n : Nat) (s : State) : State :=
  if s.ctrlRing p n = false ∨ s.startsOpen p = false ∨ (s.pt p).abort.isSome then s
  else match (s.pt p).descs.find? fun d => d.sq == n && !d.done && d.start.isNone && d.opcode == 7 && d.wellFormed true with
    | some d => (s.started p d).upPt p fun q => { q with abort := some (d.sq, d.seq, s.mgmt.beat) }
    | none => s

/-- R357. -/
def execJobCloseAbort (p n : Nat) (s : State) : Res := s.live (jobCloseAbort p n)

/-- Every accepted descriptor that `keep` does not spare and that has no completion yet is completed ABORTED; one that is run again and whose
completion is journaled already gets no second (R340, R357). -/
def State.discardAll (s : State) (p cause : Nat) (keep : ADesc → Bool) : State :=
  ((s.pt p).descs.filter fun d => !d.done && !keep d).foldl (fun s d => s.complete p d Code.aborted cause 0 0) s

/-- ABORT_EFFECT: at the boundary, every accepted descriptor without a completion is ABORTED, but for the abort itself
and what follows it on its ring; the job is released and the abort completes (R357). -/
def abortEffect (p : Nat) (s : State) : State :=
  match (s.pt p).abort with
  | none => s
  | some (sq, seq, b) =>
    if s.since b = 0 then s
    else
      let s := s.discardAll p 1 fun d => d.sq == sq && decide (seq ≤ d.seq)
      let s := (s.releaseJob p).upPt p fun q => { q with abort := none, rollReq := none, endCause := none }
      let s := s.setJob p .noJob
      match (s.pt p).findDesc sq seq with
      | some d => s.finish p d Code.done 0 0 0
      | none => s

/-- R357. -/
def execAbortEffect (p : Nat) (s : State) : Res := s.live (abortEffect p)

/-- The module itself ends a job: every accepted descriptor is ABORTED with the cause and the job is released (R116,
R429). -/
def State.endJob (s : State) (p cause : Nat) : State :=
  let s := s.discardAll p cause fun _ => false
  let s := (s.releaseJob p).upPt p fun q => { q with abort := none, rollReq := none, endCause := none }
  s.setJob p .noJob

end Sys2Proof.Machine
end

