-- ==== Sys2Proof/Machine/Recovery.lean ====
section
/-! DEFINITION. Faults, replay and recovery: page restore, rollback, remaps, failed dies, the buddy (R112 to R117,
R155, R156, R429 to R461). -/

namespace Sys2Proof.Machine

/-! ### Undoing an open (R344, R444) -/

/-- The open is undone: everything set up is released and JOB_OPEN completes with the status given (R344). -/
def State.undoOpen (s : State) (p status cause : Nat) : State :=
  let s := (s.releaseJob p).setJob p .noJob
  match (s.pt p).descs.find? fun d => d.opcode == 1 && d.start.isSome && !d.done with
  | some d => s.finish p d status cause 0 0
  | none => s

/-! ### Rollback (R443 to R446) -/

/-- Page `n` at a rollback: `c` is the page at the target cut, `chg` says that it has changed since (R444). A WEIGHTS
page is not held by the cut and stays as it is (R253). -/
def rollPage (kind : Nat) (chg : Bool) (c g : Page) : Page :=
  if kind = 2 then g
  else
    let base : Page := { g with refs := c.refs, pins := 0, wpins := 0, opins := 0, placed := false, demote := false,
                                capped := c.capped, capWait := false, capWrite := false, cow := false, snap := none,
                                touched := false, region := c.region, img := c.img, promo := 0, scan := none }
    if c.state = 0 then { region := g.region }
    else if c.state = 6 then { base.unframe 6 with dirty := false }
    else if g.state = 0 then { base.unframe 2 with dirty := false }
    else if chg then { base.unframe 2 with dirty := false }
    else base

/-- The pages after a rollback to `img`: a page has changed since the target cut if it was dirtied, capped or written
to the store in the present interval or in that of a later cut (R444). -/
def Ptn.rollPages (q : Ptn) (img : CutImg) : Tbl Page :=
  let later := fun n => match q.pend with
    | some c => (c.data.page n).touched
    | none => false
  let keys := (q.live.pages ++ img.data.pages).foldl (fun (t : Tbl Unit) e => Tbl.put t e.1 ()) []
  keys.map fun e =>
    let g := q.live.page e.1
    let c := img.data.page e.1
    (e.1, rollPage (q.kind e.1) (g.touched || g.drop || later e.1 || g.state == 4 && g.bad != []) c g)

/-- Charges after a rollback: a page backed since the cut returns its charge, a page released since is charged again
without a test (R444). -/
def Ptn.rollUsed (q : Ptn) (img : CutImg) : Nat :=
  let backed := (q.live.pages.filter fun e => e.2.state != 0 && (img.data.page e.1).state == 0).length
  let gone := (img.data.pages.filter fun e => e.2.state != 0 && (q.live.page e.1).state == 0).length
  q.used - backed + gone

/-- Entries of a core's instructions in flight, in the order of their issue. -/
def Core.flying (c : Core) : List QEntry :=
  match c.comp, c.move with
  | some a, some b => if a.q.ord < b.q.ord then [a.q, b.q] else [b.q, a.q]
  | some a, none => [a.q]
  | none, some b => [b.q]
  | none, none => []

/-- Entries in the order of their issue. -/
def byIssue : List QEntry → List QEntry
  | [] => []
  | e :: t => (byIssue t).filter (fun x => decide (x.ord < e.ord)) ++ e :: (byIssue t).filter fun x => !decide (x.ord < e.ord)

/-- An entry to be re-executed (R432). -/
def QEntry.again (e : QEntry) : QEntry := { e with reexec := true }

/-- What a core re-executes, in the order of issue: the replay buffer of its open work tile, and of `es` (in the order of their issue) the
instructions that are outside it (R114, R155, R156, R431, R432). -/
def Core.reissued (c : Core) (es : List QEntry) : List QEntry :=
  let out := es.filter fun e => !(c.replay.any fun x => x.ord == e.ord)
  let before := fun (e : QEntry) => match c.replay with
    | x :: _ => decide (e.ord < x.ord)
    | [] => true
  out.filter before ++ c.replay ++ out.filter fun e => !before e

/-- The check of the head of the queue is undone. -/
def Core.uncheck (c : Core) : Core :=
  { c with check := none, admitted := false, checkWalk := none, checkGeom := none, stalled := false, pinR := [], pinW := [] }

/-- The queue from which a core goes on after a remap: what it re-executes, then what had not issued (R114, R155, R156). -/
def Core.replayed (c : Core) : Core :=
  { c.uncheck with queue := (c.reissued (byIssue (c.redo ++ c.flying))).map QEntry.again ++ c.queue, replay := [], claim := none,
                   comp := none, move := none, held := false, repair := none, redo := [] }

/-- The queue from which a core goes on after a repair in place: the replay buffer of its open work tile and the failed instructions that
are outside it; an instruction in flight completes (R430, R431). -/
def Core.replayHere (c : Core) : Core :=
  { c.uncheck with queue := (c.reissued (byIssue c.redo)).map QEntry.again ++ c.queue, replay := [], claim := none,
                   held := false, repair := none, redo := [] }

/-- A core as it is restored: in flight nothing, errors ended, and what was to be re-executed back in its queue. -/
def Core.restored (c : Core) : Core :=
  let c := if c.redo = [] then c else c.replayHere
  { c with bad := [], comp := none, move := none, check := none, admitted := false, checkWalk := none, checkGeom := none, pinR := [],
           pinW := [], stalled := false, failed := none,
           held := false, repair := none, copying := false }

/-- Descriptor `d` after a rollback to `img` (R340): one that started after the cut is run again, unless its opcode and
completion say otherwise; one in progress at the cut goes on from the cut. DEDUCED, log entry 50. -/
def ADesc.rolled (img : CutImg) (d : ADesc) (readyOrd : Nat) : ADesc :=
  let redo := d.opcode == 2 || d.opcode == 4 || d.opcode == 0x30
  match d.start with
  | none => d
  | some o =>
    if o < img.startOrd then
      if img.openAt.contains (d.sq, d.seq) then
        if d.done then (if redo then { d with done := false, mode := 2, offset := 0, hit := false, dropped := false } else d)
        else { d with offset := 0, hit := false, dropped := false }
      else d
    else if d.done ∧ redo = false then d
    else { d with start := none, again := some o, done := false, offset := 0, hit := false, dropped := false,
                  mode := if d.done ∨ d.mode = 2 then 2 else 1,
                  ready := if d.opcode = 2 then readyOrd + 1 + o else 0 }

/-- The score accumulators keep what was added after the cut (R193): the bytes of each as they are. DESIGN CHOICE, log entry 175. -/
def JobData.keepAccs (j : JobData) (m : Memory) : Memory := j.accs.foldl (fun m a => m.wrN a (j.dv.rdN a 4)) m

/-- The partition's state returns to the cut `img` (R444). -/
def State.restoreImage (s : State) (p : Nat) (img : CutImg) : State :=
  let s := s.upPt p fun q =>
    { q with
      used := q.rollUsed img
      live := { img.data with
        pages := q.rollPages img
        dv := q.live.keepAccs img.data.dv
        accs := q.live.accs
        idle := q.live.idle
        cores := img.data.cores.map fun e => (e.1, e.2.restored)
        disps := img.data.disps.map fun e => (e.1, { e.2 with stopped := false })
        seqs := img.data.seqs.map fun e =>
          (e.1, { e.2 with walks := 0, old := e.2.old.map fun v => { v with walks := 0 } })
        slmBad := [], tktBad := [] }
      pend := none, heldPages := [], checks := [], step := img.step, stepNo := img.stepNo, need := 0, trqStop := false,
      wants := [], fetchQ := [], unitQ := [], began := [], saveLeft := 0, cutSent := false, cutTake := none, cutEarly := false,
      descs := q.descs.map fun d => d.rolled img q.readyOrd, readyOrd := q.readyOrd + 1 + q.startOrd }
  let s := { s with
    store := { s.store with writes := s.store.writes.filter fun w => w.p != p },
    timers := s.timers.filter fun t => match t.kind with
      | .ccwait d => decide ((s.dispPos d).1 ≠ p) }
  (((s.setCutPhase p .idle).colRollback p img).codecRollback p).endLevel (p + 1) 0x113

/-- The target of a rollback: the last durable cut, or in a group the newest group cut that every member holds (R444,
R450). -/
def State.rollTarget (s : State) (p : Nat) : Option CutImg :=
  let q := s.pt p
  if q.targetLost then none
  else if s.grouped p then (q.durable.toList ++ q.older).find? fun c => decide (c.stepNo ≤ q.groupG)
  else q.durable

/-- LAST_CAUSE and ROLLBACKS (R461). -/
def State.countRollback (s : State) (p cause : Nat) : State :=
  (s.countFault p 48 1).setFld rMgtFaultPtn 0 p 7 0 cause

/-- A rollback takes effect at the boundary that ended beat `b` (R444, R355). -/
def State.rollNow (s : State) (p cause b : Nat) : State :=
  let q := s.pt p
  if q.job = .suspending then
    -- a reset that the host or MGT_RESET calls for runs its course beside the suspension
    let s := if cause = 0x0b ∨ cause = 9 then s.upPt p fun q =>
        { q with rolling := some b, func := .resetting, resetKind := if cause = 0x0b then 0 else 3 }
      else s
    match s.rollTarget p with
    | none => s.endJob p 6
    | some img =>
      let s := s.upPt p fun q => { q with susp := none, rollReq := none, saved := some img, resumeRoll := some cause }
      let s := s.setJob p .suspended
      match q.susp with
      | some (sq, seq, _) => match (s.pt p).findDesc sq seq with
        | some d => s.finish p d Code.replayed 0 0 0
        | none => s
      | none => s
  else
    let s := (s.countRollback p cause).upPt p fun q =>
      { q with rollReq := none, rolling := some b, func := .resetting, resetKind := if cause = 0x0b then 0 else 3 }
    if q.job = .noJob then s
    else
      let s := s.pause p b
      if q.job = .opening then s.undoOpen p Code.aborted 6
      else match s.rollTarget p with
        | none => s.endJob p 6
        | some img =>
          let s := s.restoreImage p img
          if q.job = .suspended then s.upPt p fun q => { q with saved := some img, resumeRoll := none }
          else (s.upPt p fun q => { q with resume := none, saved := none }).setJob p .running

/-- ROLLBACK: a rollback called for in an earlier beat takes effect (R444). One called for while another is in progress
restarts it (R446). DESIGN CHOICE, log entry 51. -/
def rollback (p : Nat) (s : State) : State :=
  match (s.pt p).rollReq with
  | none => s
  | some (cause, b) =>
    if s.since b = 0 ∨ s.present p = false ∨ s.shapeBusy then s
    else s.rollNow p (if (s.pt p).rolling.isSome then 0x0d else cause) s.lastBeat

/-- R444. -/
def execRollback (p : Nat) (s : State) : Res := s.live (rollback p)

/-- The job state of R253 returns from the save copy of a suspended job: cores, dispatchers, barriers, the scratchpad with its ticket counters, and
what was on its way (R354). Pages, and the sequences' versions with them, have stayed in the tiers. -/
def State.restoreSaved (s : State) (p : Nat) (img : CutImg) : State :=
  s.upPt p fun q => { q with step := img.step, live := { q.live with
    cores := img.data.cores.map fun e => (e.1, e.2.restored)
    disps := img.data.disps, bars := img.data.bars, slm := img.data.slm, slmBad := [], tickets := img.data.tickets, tktBad := []
    posts := img.data.posts, arrivals := img.data.arrivals } }

/-- RESUME_RESTORE_DONE: the save copy is restored, the job is RUNNING and the paused STEP continues; a job whose saved
state is a cut rolls back to it (R354, R355). -/
def resumeRestoreDone (p : Nat) (s : State) : State :=
  match (s.pt p).resume with
  | none => s
  | some (sq, seq, b) =>
    if s.mgmt.beat ≤ b + 1 then s
    else
      let s := match (s.pt p).findDesc sq seq with
        | some d => s.finish p d Code.done 0 0 0
        | none => s
      let s := match (s.pt p).resumeRoll, (s.pt p).saved with
        | some c, some img => (s.countRollback p c).restoreImage p img
        | none, some img => s.restoreSaved p img
        | _, none => s
      let s := (s.upPt p fun q => { q with resume := none, resumeRoll := none, saved := none }).setJob p .running
      (s.unpause p).refreshReady p

/-- R354. -/
def execResumeRestoreDone (p : Nat) (s : State) : Res := s.live (resumeRestoreDone p)

/-! ### Page restore (R439 to R442) -/

/-- The undurable cut is abandoned: CUT_COW is cleared, its flush ends, the previous cut stands and an early cut follows; what changed since
that cut has changed since it still (R439, R444). -/
def State.abandonCut (s : State) (p : Nat) : State :=
  let kept := s.store.writes.filter fun w => w.p != p || (decide (w.n < saveBase) && !w.snap && (!(s.page p w.n).cow || (s.page p w.n).capWrite))
  let s := s.upPt p fun q =>
    let old := fun n => match q.pend with
      | some c => (c.data.page n).touched
      | none => false
    { q with pend := none, cutEarly := true, saveLeft := 0, cutSent := false, live := { q.live with
        pages := q.live.pages.map fun e => (e.1, { e.2 with cow := false, snap := none, touched := e.2.touched || e.2.cow || old e.1 }) } }
  { s with store := { s.store with writes := kept } }.setCutPhase p .idle

/-- A page restore is counted (R461). -/
def State.countRestore (s : State) (p : Nat) : State := s.countFault p 32 1

/-- PAGE_RESTORE: the tier manager acts on a frame that has read uncorrectable, at the boundary after it did (R439,
R441). -/
def pageRestore (p n : Nat) (s : State) : State :=
  let g := s.page p n
  if g.drop = false ∨ g.acted ∨ s.mgmt.beat ≤ g.dropAt then s
  else if g.state = 3 then s.upPage p n fun g => { g with acted := true }
  else if g.state = 4 then
    match s.place p n with
    | some i => (s.takeFrame p n i fun g => { g with bad := [], drop := false, acted := false }).countRestore p
    | none => s
  else if g.state = 1 ∨ g.state = 5 then (s.upPage p n fun g => { g with acted := true }).wantRollback p 1
  else s.upPage p n fun g => { g with drop := false, acted := false }

/-- R439. -/
def execPageRestore (p page : Nat) (s : State) : Res := s.live (pageRestore p page)

/-- FRAME_DROP: no unit holds the page pinned, the frame is dropped, and the store image is the restore (R439, R440). -/
def frameDrop (p n : Nat) (s : State) : State :=
  let g := s.page p n
  if g.acted ∧ g.state = 3 ∧ g.pins + g.opins = 0 then (s.upPage p n fun g => g.unframe 2).countRestore p else s

/-- R439. -/
def execFrameDrop (p page : Nat) (s : State) : Res := s.live (frameDrop p page)

/-- STORE_IMAGE_LOST: a page's store image cannot be read (R442). -/
def storeImageLost (p n : Nat) (s : State) : State :=
  let g := s.page p n
  let q := s.pt p
  if g.lost = false then s
  else
    let s := s.upPage p n fun g => { g with lost := false }
    let cut := match q.durable with
      | some c => c.data.page n
      | none => {}
    if g.state = 3 ∧ g.drop = false then s.upPage p n fun g => { g with state := 1, dirty := true, touched := true }
    else if s.mirroring p then s
    else if g.touched ∧ g.framed ∧ cut.state ≠ 0 then s.upPt p fun q => { q with targetLost := true, cutEarly := true }
    else s.wantEnd p 6

/-- R442. -/
def execStoreImageLost (p page : Nat) (s : State) : Res := s.live (storeImageLost p page)

/-! ### Core faults and remaps (R112 to R117, R155, R156, R430 to R438) -/

/-- Logical core `lc` is declared failed or late, with its class (R435, R437). -/
def State.failCore (s : State) (p lc cls : Nat) : State :=
  if (s.core p lc).failed.isSome then s
  else (s.upCore p lc fun c => { c with failed := some cls }).raiseM 0x031 ((s.phys p lc).getD 0) cls

/-- TILE_WATCHDOG: an instruction has not completed by the end of the second beat after its issue: at step 2 of the
boundary its core is declared late (R436, R437). DESIGN CHOICE, log entry 36. -/
def tileWatchdog (p lc : Nat) (move : Bool) (s : State) : State :=
  match (if move then (s.core p lc).move else (s.core p lc).comp) with
  | some f => if f.beat + 2 < s.mgmt.beat then s.failCore p lc 1 else s
  | none => s

/-- R436. -/
def execTileWatchdog (p lc : Nat) (move : Bool) (s : State) : Res := s.live (tileWatchdog p lc move)

/-- Mesh hops between the clusters of two cores of a die. -/
def hops (a b : Nat) : Nat :=
  let x := clusterAt a
  let y := clusterAt b
  (x.1 - y.1) + (y.1 - x.1) + ((x.2 - y.2) + (y.2 - x.2))

/-- Physical cores of group `j` of die `die`, in ascending order (R112). -/
def groupCores (die j : Nat) : List Nat :=
  (List.range 7).flatMap fun r => (List.range 3).flatMap fun c => (List.range 16).map fun i =>
    die * 2048 + (r * 12 + j * 3 + c) * 16 + i

/-- Spare cores of a group: neither retired nor mapped (R112, R113). -/
def State.spares (s : State) (die j : Nat) : List Nat :=
  (groupCores die j).filter fun ph => !s.cmap.retired.contains ph && !(s.cmap.map.any fun e => e.2 == ph + 1)

/-- The nearest spare, the lowest identifier among equals (R114). -/
def nearest (old : Nat) : List Nat → Option Nat → Option Nat
  | [], b => b
  | x :: t, none => nearest old t (some x)
  | x :: t, some b => nearest old t (if hops old x < hops old b then some x else some b)

/-- MGT_SPARE_CDn follows the map (R117); a count beyond its field reads as the largest value. DESIGN CHOICE, log entry 170. -/
def State.syncSpares (s : State) (die : Nat) : State :=
  (List.range 4).foldl (fun s j =>
    let un := ((List.range 320).filter fun i => Tbl.get 0 s.cmap.map (die * 1280 + j * 320 + i) == 0).length
    let ret := ((groupCores die j).filter fun ph => s.cmap.retired.contains ph).length
    s.setFld rMgtSpareCd 0 die (16 * j + 15) (16 * j)
      (Nat.min un 31 * 2048 + Nat.min ret 63 * 32 + Nat.min (s.spares die j).length 16)) s

/-- The pins and the walk of an instruction in flight are released (R144, R170, R231). -/
def State.dropFlight (s : State) (p : Nat) (f : Flight) : State :=
  let s := s.unpinTile p f.pages f.writes
  match f.walk with
  | some (n, v) => s.closeWalk p n v
  | none => s

/-- What the check of a core's head holds is released: its pins, the walk that it opened, and its place among the checks that wait
(R171, R231). -/
def State.dropHead (s : State) (p lc : Nat) : State :=
  let c := s.core p lc
  let s := ((s.unpinTile p c.pinR c.pinW).upPt p fun q => { q with checks := q.checks.filter (· ≠ lc) }).stopWaiting p lc
  match c.checkWalk with
  | some (n, v) => s.closeWalk p n v
  | none => s

/-- The instructions in flight on a core, and what its head holds, end with the core (R171). -/
def State.dropFlights (s : State) (p lc : Nat) : State :=
  let c := s.core p lc
  (c.comp.toList ++ c.move.toList).foldl (fun s f => s.dropFlight p f) (s.dropHead p lc)

/-- Word of claim record `i`. -/
def Ptn.claimRec (q : Ptn) (i : Nat) : Nat := q.live.slm64 (8 * i)

/-- A remap of logical core `lc`, or the loss of the core when its group has no spare (R114 to R116, R155, R438). The
result says whether the job is to end. -/
def State.remap (s : State) (p lc : Nat) : State :=
  let g := s.gcore p lc
  match s.phys p lc with
  | none => s
  | some old =>
    let die := g / 1280
    let c := s.core p lc
    match nearest old (s.spares die (g % 1280 / 320)) none with
    | none =>
      let s := { s with cmap := { retired := old :: s.cmap.retired, map := Tbl.del s.cmap.map g } }
      ((s.syncSpares die).upCore p lc fun c => { c with failed := none }).wantEnd p 3
    | some sp =>
      let s := { s with cmap := { retired := old :: s.cmap.retired, map := Tbl.put s.cmap.map g (sp + 1) } }
      let s := (s.endStall p lc).dropFlights p lc
      let s := (s.syncSpares die).raiseM 0x030 (old * 65536 + sp) (p * 2 ^ 48 + lc)
      let s := s.tally fun t => { t with remaps := t.remaps + 1 }
      let s := match c.claim with
        | some k => s.slmMeet p (8 * k.idx) 8
        | none => s
      let r := match c.claim with
        | some k => (s.pt p).claimRec k.idx
        | none => 0
      let mine := c.claim.isSome && bits r 28 16 == old && (bits r 1 0 == 1 || bits r 1 0 == 2)
      if mine ∧ bits r 1 0 = 1 ∧ bits r 2 2 = 1 then (s.upCore p lc fun c => { c with failed := none }).wantRollback p 3
      else if mine ∧ 3 ≤ bits r 39 36 then (s.upCore p lc fun c => { c with failed := none }).wantRollback p 6
      else
        let s := match c.claim with
          | some k => if mine then s.bankWrite p (8 * k.idx) (setBits (setBits r 28 16 sp) 39 36 (Nat.min 15 (bits r 39 36 + 1))) else s
          | none => s
        let seed := (s.pt p).info.seed
        let s := s.upCore p lc fun c =>
          { c.replayed with failed := none, copying := true, mem := if c.bad = [] then c.mem else [], bad := [], check := none, admitted := false,
                            stalled := false, rng := seedOf seed lc }
        let s := s.countFault p 16 1
        if c.bad = [] then s else s.wantRollback p 2

/-- Order failed cores by physical identifier (R115). -/
def insertBy (f : Nat → Nat) (x : Nat) : List Nat → List Nat
  | [] => [x]
  | y :: t => if f x < f y then x :: y :: t else y :: insertBy f x t

/-- Cores of the partition that are declared failed or late, in ascending physical identifier (R115). -/
def State.failedCores (s : State) (p : Nat) : List Nat :=
  (((s.pt p).live.cores.filter fun e => e.2.failed.isSome).map (·.1)).foldl
    (fun l x => insertBy (fun lc => (s.phys p lc).getD 0) x l) []

/-- Repairs that a boundary makes in place: the core goes on with its replay (R430, R431). -/
def State.repairInPlace (s : State) (p : Nat) : State :=
  ((s.pt p).live.cores.filter fun e => e.2.held && e.2.failed.isNone && e.2.repair.isSome).foldl (fun s e =>
    ((s.dropHead p e.1).upCore p e.1 Core.replayHere).countFault p 16 1) s

/-- Steps 2 and 5 of a boundary for cores: watchdogs that fall, then remaps and repairs (R43, R430, R436, R437). -/
def State.remapBoundary (s : State) (p : Nat) : State :=
  let s := (s.failedCores p).foldl (fun s lc => s.remap p lc) s
  s.repairInPlace p

/-- Watchdogs that fall at the end of beat `b` (R436). -/
def State.watchdogBoundary (s : State) (p b : Nat) : State :=
  ((s.pt p).live.cores.filter fun e =>
      (match e.2.comp with | some f => decide (f.beat + 2 ≤ b) | none => false) ||
      (match e.2.move with | some f => decide (f.beat + 2 ≤ b) | none => false)).foldl
    (fun s e => s.failCore p e.1 1) s

/-- REMAP_COPY_DONE: the copy ends and the spare begins to issue (R114). -/
def execRemapCopyDone (p lc : Nat) (s : State) : Res :=
  s.live fun s => if (s.core p lc).copying then s.upCore p lc fun c => { c with copying := false } else s

/-! ### Dies, regulators and dispatchers (R434, R456) -/

/-- DIE_FAILED: the partition's tile issue stops; without a buddy's images its job ends (R434). DEDUCED, log entry 54. -/
def dieFailed (die : Nat) (s : State) : State :=
  if 4 ≤ die ∨ s.mgmt.deadDies.contains die then s
  else
    let s := { s with mgmt := { s.mgmt with deadDies := die :: s.mgmt.deadDies } }
    let p := die / s.k
    if (s.pt p).job = .noJob then s
    else if s.mirroring p then s.pause p s.mgmt.beat
    else (s.pause p s.mgmt.beat).wantEnd p 6

/-- R434. -/
def execDieFailed (die : Nat) (s : State) : Res := s.live (dieFailed die)

/-- Failed phases of a die. -/
def State.failedPhases (s : State) (die : Nat) : Nat := (s.mgmt.phases.filter fun x => x / 64 == die).length

/-- REGULATOR_PHASE_FAILED: the phase is taken offline; a 25th declares the die failed (R456). -/
def regulatorPhaseFailed (die ph : Nat) (s : State) : State :=
  if 4 ≤ die ∨ 64 ≤ ph ∨ s.mgmt.phases.contains (die * 64 + ph) then s
  else
    let s := { s with mgmt := { s.mgmt with phases := (die * 64 + ph) :: s.mgmt.phases } }
    if 25 ≤ s.failedPhases die then dieFailed die s else s

/-- R456. -/
def execRegulatorPhaseFailed (die phase : Nat) (s : State) : Res := s.live (regulatorPhaseFailed die phase)

/-- DISPATCHER_FAULT: tile issue of the partition stops and it rolls back (R434). -/
def execDispatcherFault (d : Nat) (_k : DispFault) (s : State) : Res :=
  s.live fun s =>
    let p := (s.dispPos d).1
    if 16 ≤ d ∨ s.present p = false ∨ (s.pt p).job = .noJob then s
    else (s.upDisp d fun x => { x with stopped := true }).wantRollback p 5

end Sys2Proof.Machine
end

