-- ==== Sys2Proof/Machine/Operands.lean ====
section
/-! DEFINITION. The tile descriptor and its operand forms: header fields, slots, spaces, footprints, elements and the
checks that hold for every opcode (R120 to R129, R136, R138, R140 to R142). -/

namespace Sys2Proof.Machine

/-! ### The header (R121) -/

/-- A tile descriptor as a number. -/
abbrev TDesc := Nat

namespace TDesc
/-- OPCODE. -/
def op (w : TDesc) : Nat := bits w 7 0
/-- SAT. -/
def sat (w : TDesc) : Bool := bits w 8 8 == 1
/-- RND. -/
def rnd (w : TDesc) : Nat := bits w 10 9
/-- CK. -/
def ck (w : TDesc) : Bool := bits w 11 11 == 1
/-- CK_TOL. -/
def tol (w : TDesc) : Nat := bits w 14 12
/-- ACC. -/
def acc (w : TDesc) : Bool := bits w 15 15 == 1
/-- DIM0 to DIM2. -/
def dim (w : TDesc) (i : Nat) : Nat := bits w (31 + 16 * i) (16 + 16 * i)
/-- VAL0 to VAL2. -/
def val (w : TDesc) (i : Nat) : Nat := bits w (79 + 16 * i) (64 + 16 * i)
/-- TAG. -/
def tag (w : TDesc) : Nat := bits w 119 112
/-- FUNC. -/
def func (w : TDesc) : Nat := bits w 127 120
/-- WAIT_SLOT. -/
def waitSlot (w : TDesc) : Nat := bits w 131 128
/-- WAIT_EN. -/
def waitEn (w : TDesc) : Bool := bits w 132 132 == 1
/-- POST_EN. -/
def postEn (w : TDesc) : Bool := bits w 133 133 == 1
/-- POST_SLOT. -/
def postSlot (w : TDesc) : Nat := bits w 137 134
/-- POST_LCORE. -/
def postCore (w : TDesc) : Nat := bits w 150 138
/-- CCNT_EN. -/
def ccntEn (w : TDesc) : Bool := bits w 151 151 == 1
/-- CCNT. -/
def ccnt (w : TDesc) : Nat := bits w 157 152
/-- CLAIM_OP: 0 none, 1 TAKE, 2 GUARD, 3 TAKE_GUARD. -/
def claimOp (w : TDesc) : Nat := bits w 159 158
/-- CLAIM_IDX. -/
def claimIdx (w : TDesc) : Nat := bits w 187 160
/-- Slot `s` (R120). -/
def slot (w : TDesc) (s : Nat) : Nat := bits w (192 + 80 * s + 79) (192 + 80 * s)
/-- SPACE of slot `s`. -/
def space (w : TDesc) (s : Nat) : Nat := bits (w.slot s) 49 48
/-- FMT of slot `s`. -/
def fmt (w : TDesc) (s : Nat) : Nat := bits (w.slot s) 54 50
end TDesc

/-- Opcode, as a row of the table. -/
inductive VecFn where
  | convert | add | sub | mul | fma | max | min | addS | mulS | addRow | mulRow | rowSum | rowMax
  | iadd | iand | ior | ixor | imax | imin
deriving DecidableEq, Repr

/-- The instructions: an opcode with its FUNC where that names an operation. -/
inductive TileOp where
  | matmul | vec (f : VecFn) | sfu (f : SfuFn) | rmsnorm | rmsSumsq | rmsApply | convDense | convDepthwise | poolGavg
  | attnFwd | attnBwd | attnMerge | tableLoad | tableSwap | tableLookup | move | commit (add : Bool) | tktFaa | barrier
  | kvPrune
deriving DecidableEq, Repr

/-- VEC function of a FUNC (R131). -/
def vecFn : Nat → Option VecFn
  | 0x00 => some .convert | 0x01 => some .add | 0x02 => some .sub | 0x03 => some .mul | 0x04 => some .fma
  | 0x05 => some .max | 0x06 => some .min | 0x07 => some .addS | 0x08 => some .mulS | 0x09 => some .addRow
  | 0x0A => some .mulRow | 0x10 => some .rowSum | 0x11 => some .rowMax | 0x20 => some .iadd | 0x21 => some .iand
  | 0x22 => some .ior | 0x23 => some .ixor | 0x24 => some .imax | 0x25 => some .imin | _ => none

/-- SFU function of a FUNC (R208). -/
def sfuFn : Nat → Option SfuFn
  | 0x00 => some .exp | 0x01 => some .exp2 | 0x02 => some .ln | 0x03 => some .log2 | 0x04 => some .sigmoid
  | 0x05 => some .tanh | 0x06 => some .erf | 0x07 => some .softplus | 0x08 => some .sqrt | 0x09 => some .rsqrt
  | 0x0A => some .recip | 0x10 => some .silu | 0x11 => some .gelu | 0x12 => some .sin | 0x13 => some .cos | _ => none

/-- The instruction that a descriptor's OPCODE and FUNC name; none for an unknown one (R122, R129). -/
def TDesc.tileOp (w : TDesc) : Option TileOp :=
  let f := w.func
  let lim := fun (ok : Bool) (o : TileOp) => if ok then some o else none
  match w.op with
  | 0x01 => lim (f == 0) .matmul
  | 0x02 => (vecFn f).map .vec
  | 0x03 => (sfuFn f).map .sfu
  | 0x04 => lim (f == 0) .rmsnorm
  | 0x05 => lim (decide (f < 2)) .rmsSumsq
  | 0x06 => lim (f == 0) .rmsApply
  | 0x07 => if f = 0 then some .convDense else lim (f == 1) .convDepthwise
  | 0x08 => lim (decide (f < 3)) .poolGavg
  | 0x09 => lim (decide (f < 8)) .attnFwd
  | 0x0A => lim (decide (f < 4)) .attnBwd
  | 0x0B => lim (f == 0) .attnMerge
  | 0x0C => lim (decide (f < 2)) .tableLoad
  | 0x0D => lim (decide (f < 2)) .tableSwap
  | 0x0E => lim (f == 0) .tableLookup
  | 0x20 => lim (f == 0) .move
  | 0x21 => if f = 0 then some (.commit false) else lim (f == 1) (.commit true)
  | 0x22 => lim (f == 0) .tktFaa
  | 0x23 => lim (decide (f < 16)) .barrier
  | 0x24 => lim (f == 0) .kvPrune
  | _ => none

/-- Move class (R129). -/
def TileOp.isMove : TileOp → Bool
  | .move | .commit _ | .tktFaa | .barrier | .kvPrune => true
  | _ => false

/-- Opcodes that convert nothing (R72). -/
def TileOp.noConv : TileOp → Bool
  | .move | .tktFaa | .barrier | .kvPrune | .tableLoad | .tableSwap => true
  | _ => false

/-! ### Operands (R123 to R128) -/

/-- A used operand slot, resolved: the core is the one whose memory a core-memory operand names. -/
structure Opnd where
  fmt : Fmt
  space : Nat
  core : Nat := 0
  remote : Bool := false
  addr : Nat
  stride : Nat
  scaleAddr : Nat := 0
  scaleStride : Nat := 0
deriving DecidableEq, Repr

/-- Operand in slot `s` of an instruction of core `lc`, with the scale array of an MX operand outside core memory taken
from slot `s + 1` (R124, R128). None when the slot is unused or its format is reserved. -/
def TDesc.opnd (w : TDesc) (lc s : Nat) : Option Opnd :=
  let v := w.slot s
  let a := bits v 47 0
  match w.space s, fmtOf (bits v 54 50) with
  | 0, _ => none
  | _, none => none
  | 1, some f => some { fmt := f, space := 1, core := if bits a 19 19 = 1 then bits a 32 20 else lc, remote := bits a 19 19 == 1,
                        addr := bits a 18 0, stride := bits v 74 56, scaleAddr := bits a 46 34 * 64,
                        scaleStride := bits v 79 75 * 32 }
  | sp, some f =>
    let u := w.slot (s + 1)
    some { fmt := f, space := sp, addr := a, stride := bits v 79 56,
           scaleAddr := if f.isMx then bits u 47 0 else 0, scaleStride := if f.isMx then bits u 79 56 else 0 }

/-- The parameter block that slot 3 names: its address, where it lies in the issuing core's own memory, as every block must (R177, R195,
R212). None where it lies nowhere else either, since step 2 of R136 then refuses the slot. -/
def TDesc.block (w : TDesc) (lc : Nat) : Option Nat :=
  (w.opnd lc 3).bind fun o => if o.space = 1 ∧ o.remote = false then some o.addr else none

/-- Bytes that `n` elements of a row take. -/
def Fmt.rowBytes (f : Fmt) (n : Nat) : Nat := (n * f.bits + 7) / 8

/-- Ranges of a footprint: the valid elements of each valid row, and their scale bytes (R138). -/
def Opnd.ranges (o : Opnd) (rows cols : Nat) : List (Nat × Nat) :=
  if cols = 0 then [] else
    ((List.range rows).map fun r => (o.addr + r * o.stride, o.fmt.rowBytes cols)) ++
      (if o.fmt.isMx then (List.range rows).map fun r => (o.scaleAddr + r * o.scaleStride, ceilDiv cols 32) else [])

/-! ### Reading (R138, R142, R143) -/

/-- A byte of an operand space of partition `q`: core memory of `lc`, scratchpad, or device virtual. -/
def JobData.byteAt (j : JobData) (space lc a : Nat) : Byte :=
  match space with
  | 1 => (j.core lc).mem.rd a
  | 2 => j.slm.rd a
  | _ => j.dv.rd a

/-- `n` bytes of an operand space. -/
def JobData.bytesAt (j : JobData) (space lc a n : Nat) : Bytes := (List.range n).map fun i => j.byteAt space lc (a + i)

/-- Element code at bit `c × bits` of a row (R63). -/
def Opnd.codeAt (j : JobData) (o : Opnd) (r c : Nat) : Nat :=
  let b := c * o.fmt.bits
  let a := o.addr + r * o.stride + b / 8
  leNat (j.bytesAt o.space o.core a ((b % 8 + o.fmt.bits + 7) / 8)) / 2 ^ (b % 8) % 2 ^ o.fmt.bits

/-- Scale code of the block of element (r, c). -/
def Opnd.scaleAt (j : JobData) (o : Opnd) (r c : Nat) : Nat :=
  (j.byteAt o.space o.core (o.scaleAddr + r * o.scaleStride + c / 32)).toNat

/-- Value of element (r, c), block scale included. -/
def Opnd.elem (j : JobData) (o : Opnd) (r c : Nat) : Fv :=
  o.fmt.decode (o.codeAt j r c) (if o.fmt.isMx then o.scaleAt j r c else 127)

/-- Value of element (r, c) without its block scale. -/
def Opnd.bare (j : JobData) (o : Opnd) (r c : Nat) : Fv := o.fmt.decode (o.codeAt j r c) 127

/-- The first `n` elements of row `r`, as the vector unit reads them: INT32 rounded to FP32 (R69, R131). An MX element beyond FP32's range
keeps its exact value; DESIGN CHOICE, log entry 152. -/
def Opnd.row (j : JobData) (o : Opnd) (r n : Nat) : List Fv :=
  (List.range n).map fun c => let v := o.elem j r c; if o.fmt.code = 0x0D then v.r32 else v

/-- What an instruction meets among its inputs that reads uncorrectable (R86, R267, R281, R429). -/
inductive BadSrc where
  | core (lc : Nat)
  | slm (word : Nat)
  | dv (sector : Nat)
deriving DecidableEq, Repr

/-- Uncorrectable words or sectors that ranges of a space touch. -/
def State.badIn (s : State) (p space lc : Nat) (rs : List (Nat × Nat)) : List BadSrc :=
  match space with
  | 1 => if rangeBad 8 (s.core p lc).bad rs = [] then [] else [.core lc]
  | 2 => (rangeBad 8 (s.pt p).live.slmBad rs).map .slm
  | _ => (s.dvBadIn p rs).map .dv

/-- The fault is reported and its repair set going (R267, R281, R437). -/
def State.meet (s : State) (p : Nat) : BadSrc → State
  | .core lc => s.failCore p lc 3
  | .slm w => s.meetSlmBad p w
  | .dv u => s.meetBad p u

/-! ### Writing (R140, R142) -/

/-- Element codes of a row as byte writes at `a`: bits beyond the last element keep their contents (R140). -/
def rowWrites (j : JobData) (space lc a bw : Nat) (codes : List Nat) : List BWrite :=
  let n := codes.length * bw
  let v := codes.foldr (fun c t => c % 2 ^ bw + 2 ^ bw * t) 0
  let full := bwrites a (leBytes (n / 8) v)
  if n % 8 = 0 then full
  else
    let k := n % 8
    let old := (j.byteAt space lc (a + n / 8)).toNat
    full ++ [(a + n / 8, BitVec.ofNat 8 (old / 2 ^ k * 2 ^ k + v / 2 ^ (n / 8 * 8) % 2 ^ k), false)]

/-- Rows of codes, with their scale codes, as byte writes of an operand (R140, R141). -/
def Opnd.writes (j : JobData) (o : Opnd) (rows : List (List Nat × List Nat)) : List BWrite :=
  (rows.zip (List.range rows.length)).flatMap fun x =>
    rowWrites j o.space o.core (o.addr + x.2 * o.stride) o.fmt.bits x.1.1 ++
      rowWrites j o.space o.core (o.scaleAddr + x.2 * o.scaleStride) 8 x.1.2

/-- Store byte writes in a space. Answers the state, whether a write into a protected block was dropped, and whether a
partial write met an uncorrectable unit, with that fault reported (R142, R174). -/
def State.storeIn (s : State) (p space lc : Nat) (ws : List BWrite) : State × Bool × Bool :=
  match space with
  | 1 => let r := s.coreWrite p lc ws; (if r.2 then r.1.failCore p lc 3 else r.1, false, r.2)
  | 2 => let r := s.slmStore p ws none; (r.1, false, r.2)
  | _ => s.dvWrite p ws

/-- The status that a store leaves (R142, R174). -/
def storeStatus (r : State × Bool × Bool) : Nat :=
  if r.2.2 then Code.uncorrectable else if r.2.1 then Code.ptWriteViolation else Code.done

/-! ### Uses of slots and the checks of R136 -/

/-- How an instruction uses a slot: accepted formats and spaces, reading and writing, the shape and the valid part. -/
structure Use where
  slot : Nat
  fmts : List Nat
  spaces : List Nat := [1]
  rd : Bool := true
  wr : Bool := false
  rows : Nat
  cols : Nat
  vr : Nat
  vc : Nat
  remote : Bool := false
  optional : Bool := false
  /-- Required alignment of ADDR and row stride; 0 for the element size. -/
  align : Nat := 64
deriving DecidableEq, Repr

/-- Matrix-operand formats (R69). -/
def fmtMatrix : List Nat := [0x02, 0x03, 0x04, 0x05, 0x06, 0x07, 0x08, 0x09, 0x0A, 0x0B, 0x0C]
/-- Formats that the vector unit reads, INT32 for a floating-point operation included (R69, R131). -/
def fmtVector : List Nat := 0x01 :: 0x0D :: fmtMatrix
/-- FP32. -/
def fmtF32 : List Nat := [0x01]
/-- BYTES. -/
def fmtBytes : List Nat := [0x00]

/-- Alignment of a use at an operand (R125). -/
def Use.alignOf (u : Use) (o : Opnd) : Nat :=
  if u.align = 0 then (if o.space = 1 then 1 else Nat.max 1 (o.fmt.bits / 8)) else u.align

/-- Do written rows of `n` bytes at this stride overlap, or repeat (R126)? DEDUCED, log entry 62. -/
def rowsClash (stride n rows : Nat) : Bool := stride == 0 || (decide (1 < rows) && decide (stride < n))

/-- Do ranges lie inside the space (R125, R136)? -/
def State.inSpace (s : State) (p space : Nat) (rs : List (Nat × Nat)) : Bool :=
  match space with
  | 1 => rs.all fun r => decide (r.1 + r.2 ≤ 524288)
  | 2 => rs.all fun r => decide (r.1 + r.2 ≤ s.scratchSize p)
  | _ => (s.pt p).inRange rs

/-- Is an operand acceptable at step 2 of R136? -/
def State.opndOk (s : State) (p : Nat) (u : Use) (o : Opnd) : Bool :=
  let al := u.alignOf o
  let nb := ceilDiv u.cols 32
  u.fmts.contains o.fmt.code && u.spaces.contains o.space &&
  (!(o.space == 1 && o.remote) || (u.remote && s.mapped p o.core)) &&
  (o.space != 2 || (decide (o.addr < 2 ^ 31) && decide (o.scaleAddr < 2 ^ 31))) &&
  o.addr % al == 0 && o.stride % al == 0 &&
  !(u.wr && rowsClash o.stride (o.fmt.rowBytes u.vc) u.vr) &&
  (!o.fmt.isMx ||
    (!(o.space == 1 && decide (o.scaleStride < nb) && (u.wr || o.scaleStride != 0)) &&
     !(u.wr && rowsClash o.scaleStride (ceilDiv u.vc 32) u.vr))) &&
  s.inSpace p o.space (o.ranges u.vr u.vc)

/-- Reserved bits of a slot (R123, R124). -/
def TDesc.slotBad (w : TDesc) (s : Nat) : Bool :=
  let v := w.slot s
  if w.space s = 0 then v != 0
  else bits v 55 55 != 0 || (w.space s == 1 && (bits v 47 47 != 0 || bits v 33 33 != 0))

/-- Slots that a list of uses names, with the scale slots of MX operands outside core memory (R123, R128). -/
def TDesc.slotUse (w : TDesc) (us : List Use) (s : Nat) : Bool × Bool :=
  let own := us.find? fun u => u.slot == s
  let scale := us.any fun u => u.slot + 1 == s && w.space u.slot != 0 && w.space u.slot != 1 &&
    (match fmtOf (w.fmt u.slot) with | some f => f.isMx | none => false)
  match own with
  | some u => (true, !u.optional)
  | none => (scale, scale)

/-- The checks of step 1 of R136 that hold for every opcode: reserved fields, RND, CLAIM_OP, ACC and CK, dimensions that
the opcode leaves at 0, and the use of slots. DESIGN CHOICE, log entry 55. DEDUCED, log entry 63. -/
def TDesc.headerOk (w : TDesc) (o : TileOp) (us : List Use) (inWork : Bool) (zeroDims : List Nat) : Bool :=
  let mat := match o with | .matmul | .convDense | .convDepthwise => true | _ => false
  let ckOk := match o with | .matmul | .convDense | .attnFwd | .attnBwd => true | _ => false
  let noWork := match o with | .tktFaa | .barrier | .tableLoad | .tableSwap => true | _ => false
  let commit := match o with | .commit _ => true | _ => false
  bits w 191 188 == 0 && w.rnd != 3 && !(o.noConv && w.rnd != 0) && !(w.claimOp == 0 && w.claimIdx != 0) &&
  !(decide (2 ≤ w.claimOp) && !commit) && !(w.acc && !mat) && !(w.ck && !ckOk) && !(inWork && noWork) &&
  (zeroDims.all fun i => w.dim i == 0 && w.val i == 0) &&
  ((List.range 4).all fun i => !w.slotBad i && (let u := w.slotUse us i
    !(w.space i != 0 && !u.1) && !(w.space i == 0 && u.2)))

/-- Is RND allowed for a result format (R72)? DEDUCED, log entry 59. -/
def rndOk (rnd : Nat) (f : Fmt) : Bool :=
  match rnd with
  | 0 => true
  | 1 => [0x04, 0x05, 0x06, 0x07, 0x0A].contains f.code
  | _ => f.code == 0x0B || f.code == 0x0D

/-- Step 2 of R136: every used slot, RND against the written format, the scale arrays' FMT, and POST_LCORE. -/
def State.operandsOk (s : State) (p lc : Nat) (w : TDesc) (us : List Use) : Bool :=
  (us.all fun u =>
    if w.space u.slot = 0 then true
    else match w.opnd lc u.slot with
      | none => false
      | some o =>
        s.opndOk p u o &&
        !(o.fmt.isMx && o.space != 1 && (w.space (u.slot + 1) != o.space || w.fmt (u.slot + 1) != 0x0E)) &&
        !(u.wr && !rndOk w.rnd o.fmt)) &&
  !(w.postEn && !s.mapped p w.postCore)

/-- Step 3 of R136 that holds for every opcode: valid extents, the blocks of MX operands, the pages of R231. -/
def State.limitsOk (s : State) (p lc : Nat) (w : TDesc) (us : List Use) : Bool :=
  ((List.range 3).all fun i => decide (w.val i ≤ w.dim i)) &&
  (us.all fun u => match w.opnd lc u.slot with
    | some o => !(o.fmt.isMx && u.cols % 32 != 0)
    | none => true) &&
  decide ((pagesOf (us.flatMap fun u => match w.opnd lc u.slot with
    | some o => if o.space = 3 then o.ranges u.vr u.vc else []
    | none => [])).length ≤ 256) && s.present p

/-- Operand ranges of an instruction: (space, core, ranges, written). -/
def TDesc.spans (w : TDesc) (lc : Nat) (us : List Use) : List (Nat × Nat × List (Nat × Nat) × Bool × Bool) :=
  us.filterMap fun u => (w.opnd lc u.slot).map fun o => (o.space, o.core, o.ranges u.vr u.vc, u.rd, u.wr)

/-- RND of a descriptor as a rounding. -/
def TDesc.rndMode (w : TDesc) : RndMode :=
  match w.rnd with
  | 1 => .stochastic
  | 2 => .trunc
  | _ => .even

end Sys2Proof.Machine
end

