-- ==== Sys2Proof/Machine/Tile.lean ====
section
/-! DEFINITION. Issue and completion of tile instructions: the head of a core's queue is checked, waits, takes its claim,
executes and completes (R90, R92, R136, R143 to R156, R229 to R231, R430 to R433). -/

namespace Sys2Proof.Machine

/-- What an instruction is, once its descriptor is read: the checks of R136 that are its own, the operands it names,
further inputs and outputs in the issuing core's own memory, the walk it opens, and its effect. -/
structure TileSpec where
  uses : List Use := []
  zeroDims : List Nat := []
  header : Bool := true
  operands : Bool := true
  limits : Bool := true
  /-- Further ranges of the core's own memory that it reads and writes. -/
  reads : List (Nat × Nat) := []
  writes : List (Nat × Nat) := []
  /-- The sequence whose walk it opens, and the status with which the walk's checks end (R170, R180). -/
  walk : Option Nat := none
  opened : State → Option Nat → Nat := fun _ _ => Code.done
  /-- Pages that its walk reads and writes, from the root of the version pinned. -/
  pagesR : State → Option Nat → List Nat := fun _ _ => []
  pagesW : State → Option Nat → List Nat := fun _ _ => []
  /-- Sectors that its walk meets as uncorrectable. -/
  bad : State → Option Nat → List BadSrc := fun _ _ => []
  /-- What it streams into buffers of its core before any checksum is compared (R181). -/
  stream : Option Nat → State → State := fun _ s => s
  /-- Its effect, given the queue entry, the mailbox word and the root pinned: the state, the status, and TKT_FAA's
  result. -/
  run : QEntry → W64 → Option Nat → State → State × Nat × Option W64

/-- Can the core issue at all: the partition runs, its issue is not stopped, and the core awaits no repair (R48, R49,
R57, R104, R114, R430, R434)? A core of a die gated at the last boundary issues what it gets within the beat. DESIGN CHOICE, log entry 169. -/
def State.canIssue (s : State) (p lc : Nat) : Bool :=
  let q := s.pt p
  let c := s.core p lc
  let die := p * s.k + lc / 1280
  q.func == .ready && q.job == .running && q.paused.isNone && s.mapped p lc && !c.held && !c.copying &&
  c.failed.isNone && !(q.live.disps.any fun e => e.2.stopped) && !s.mgmt.deadDies.contains die &&
  !s.mgmt.idleDies.contains die

/-- The claim whose work tile is still open to instructions: its GUARD has not issued (R152). -/
def Core.openWork (c : Core) : Option Claim := c.claim.filter fun k => !k.guarded

/-- Is the instruction within a work tile (R152)? -/
def Core.inWork (c : Core) (w : TDesc) : Bool := c.openWork.isSome || w.claimOp == 1 || w.claimOp == 3

/-- Does the instruction find 128 instructions of its work tile before it (R152)? -/
def Core.fullWork (c : Core) (w : TDesc) : Bool :=
  match c.openWork with
  | some k => decide (128 ≤ k.count) && w.claimOp != 1 && w.claimOp != 3
  | none => false

/-- The checks of R136, in order. -/
def State.checkTile (s : State) (p lc : Nat) (w : TDesc) (o : TileOp) (t : TileSpec) : Nat :=
  let c := s.core p lc
  if w.headerOk o t.uses (c.inWork w) t.zeroDims = false ∨ t.header = false then Code.invalidDescriptor
  else if s.operandsOk p lc w t.uses = false ∨ t.operands = false ∨
      (w.claimOp ≠ 0 ∧ s.scratchSize p < 8 * w.claimIdx + 8) then Code.invalidOperand
  else if s.limitsOk p lc w t.uses = false ∨ t.limits = false ∨
      c.fullWork w then Code.limitExceeded
  else Code.done

/-- An instruction of the open work tile is counted (R152). -/
def Core.countWork (c : Core) : Core :=
  { c with claim := c.claim.map fun k => if k.guarded then k else { k with count := k.count + 1 } }

/-- An issued instruction of the open work tile enters the replay buffer; its GUARD ends the work tile (R152, R155). -/
def Core.noteIssue (c : Core) (e : QEntry) (w : TDesc) : Core :=
  match c.openWork with
  | some k =>
    { c with replay := c.replay ++ [e], claim := some { k with guarded := decide (2 ≤ w.claimOp) && k.idx == w.claimIdx } }
  | none => c

/-- The head leaves the queue. -/
def Core.popHead (c : Core) : Core := { c.uncheck with queue := c.queue.drop 1 }

/-- Does the open claim end when entry `e` completes: is it the GUARD of its work tile, issued as that or refused (R152)? -/
def Core.ends (c : Core) (e : QEntry) : Bool :=
  let w : TDesc := e.desc.toNat
  w.op == 0x21 && decide (2 ≤ w.claimOp) && (match c.claim with
    | some k => k.idx == w.claimIdx && ((c.replay.any fun x => x.ord == e.ord) || (w.claimOp == 2 && !k.guarded))
    | none => false)

/-- An instruction completes with a status, in the order of R145: the counter, the post, the repair it waits for or its
part in the step's status. Its writes are acknowledged and its claim closed before. TILE_ERROR goes to the dispatchers
alone, whose firmware shows it as the step's status (R360). DEDUCED, log entry 53. -/
def State.completeTile (s : State) (p lc : Nat) (e : QEntry) (status : Nat) (word : Option W64) : State :=
  let w : TDesc := e.desc.toNat
  let ok := okTile status
  let form := match word with
    | some x => if ok then x else BitVec.ofNat 64 (status * 65536 + w.tag)
    | none => BitVec.ofNat 64 (status * 65536 + w.tag)
  let s := if ok && w.ccntEn && !e.delivered then s.bumpCcnt p lc w.ccnt else s
  let s := if w.postEn && !e.delivered && s.mapped p w.postCore then s.post p lc w.postCore w.postSlot form else s
  let s := s.upCore p lc fun c =>
    let note := fun (x : QEntry) => if x.ord = e.ord ∧ ok then { x with delivered := true } else x
    { c with replay := c.replay.map note, queue := c.queue.map fun x => if x.reexec then note x else x }
  let s := if (s.core p lc).ends e then s.upCore p lc fun c => { c with claim := none, replay := [] } else s
  let s :=
    if status = Code.uncorrectable ∨ status = Code.checksumMismatch then
      let s := if status = Code.checksumMismatch then s.failCore p lc 2 else s
      s.upCore p lc fun c => { c with held := true, repair := some status, redo := c.redo ++ [e] }
    else if ok then (if status = Code.replayed then s.noteReplay p else s)
    else s.noteFail p { beat := s.mgmt.beat, isDisp := 0, num := lc, status := status, tag := w.tag, opcode := w.op }
  s.checkStep p

/-- The head completes without executing: its pins and its walk are released (R136, R154, R180, R229). -/
def State.retireHead (s : State) (p lc : Nat) (e : QEntry) (status : Nat) : State :=
  let e := { e with ord := (s.core p lc).issued }
  ((s.dropHead p lc).upCore p lc fun c => c.popHead.countWork).completeTile p lc e status none

/-- The head completes without executing after SKIP or STALE of its work tile: it has issued, and goes into the replay buffer (R154,
R155). It neither waits for nor consumes its mailbox count; DESIGN CHOICE, log entry 150. -/
def State.skipHead (s : State) (p lc : Nat) (e : QEntry) (status : Nat) : State :=
  let e := { e with ord := (s.core p lc).issued }
  ((s.dropHead p lc).upCore p lc fun c =>
    ({ c.popHead.countWork with issued := c.issued + 1 }).noteIssue e e.desc.toNat).completeTile p lc e status none

/-! ### Claims (R151 to R154) -/

/-- What a claim operation answers. -/
inductive ClaimAns where
  | proceed | write | skip | stale | state | bad
deriving DecidableEq, Repr

/-- claim_take (R153). A claim operation ends the reservations that harts hold on the record's unit, whatever it answers (R284). -/
def State.claimTake (s : State) (p i pcore : Nat) : State × ClaimAns :=
  if i ∈ (s.pt p).live.slmBad then (s.meetSlmBad p i, .bad)
  else
    let s := s.slmOperate p (8 * i) none
    let r := (s.pt p).claimRec i
    match bits r 1 0 with
    | 0 => (s.bankWrite p (8 * i) (setBits (setBits r 28 16 pcore) 1 0 1), .proceed)
    | 3 => (s, .state)
    | n => if bits r 28 16 ≠ pcore then (s, .stale) else (s, if n = 1 then .proceed else .skip)

/-- claim_guard_open, as its pseudocode has it: a record TAKEN by this core lets the GUARD write, whichever work tile is open (R153; the
table of R137 says CLAIM_STATE for a claim that this work tile does not hold; DESIGN CHOICE, log entry 151). -/
def State.claimOpen (s : State) (p i pcore : Nat) (adding : Bool) : State × ClaimAns :=
  if i ∈ (s.pt p).live.slmBad then (s.meetSlmBad p i, .bad)
  else
    let s := s.slmOperate p (8 * i) none
    let r := (s.pt p).claimRec i
    let mine := bits r 28 16 == pcore
    match bits r 1 0 with
    | 1 => if mine then (if adding then s.bankWrite p (8 * i) (setBits r 2 2 1) else s, .write) else (s, .stale)
    | 2 => (s, if mine then .skip else .stale)
    | _ => (s, .state)

/-- claim_guard_close (R153). DEDUCED, log entry 56. -/
def State.claimClose (s : State) (p i pcore : Nat) : State :=
  let s := s.slmOperate p (8 * i) none
  let r := (s.pt p).claimRec i
  if bits r 1 0 = 1 ∧ bits r 28 16 = pcore then s.bankWrite p (8 * i) (setBits (setBits r 1 0 2) 2 2 0) else s

/-- The claim operations of an issue: TAKE, then GUARD; the open claim is set by a TAKE (R153, R154). The answer is none
when the instruction executes, else the status it completes with. A GUARD sets OPEN here, before the source is read. DESIGN CHOICE, log
entry 172. -/
def State.claimOps (s : State) (p lc : Nat) (w : TDesc) (adding : Bool) : State × Option Nat :=
  let pc := (s.phys p lc).getD 0
  let i := w.claimIdx
  let ans := fun (a : ClaimAns) => match a with
    | .proceed => none
    | .write => none
    | .skip => some Code.replayed
    | .stale => some Code.staleClaim
    | .state => some Code.claimState
    | .bad => some Code.uncorrectable
  let t := if w.claimOp = 1 ∨ w.claimOp = 3 then
      let r := s.claimTake p i pc
      match r.2 with
      | .state => (r.1, some Code.claimState)
      | .bad => (r.1, some Code.uncorrectable)
      | a => (r.1.upCore p lc fun c => { c with claim := some { idx := i, count := 1, doom := ans a }, replay := [] }, ans a)
    else (s.upCore p lc Core.countWork, none)
  match t.2 with
  | some _ => t
  | none => if 2 ≤ w.claimOp then let r := t.1.claimOpen p i pc adding; (r.1, ans r.2) else t

/-! ### The residency check (R229 to R233) -/

/-- Device-virtual pages of an instruction: read and written, its walk's included. -/
def TileSpec.pages (t : TileSpec) (s : State) (lc : Nat) (w : TDesc) (root : Option Nat) : List Nat × List Nat :=
  let dv := (w.spans lc t.uses).filter fun x => x.1 == 3
  let wr := pagesOf ((dv.filter fun x => x.2.2.2.2).flatMap fun x => x.2.2.1)
  let rd := pagesOf ((dv.filter fun x => !x.2.2.2.2).flatMap fun x => x.2.2.1)
  let wr := wr ++ (t.pagesW s root).filter fun n => !wr.contains n
  ((rd ++ (t.pagesR s root).filter fun n => !rd.contains n).filter fun n => !wr.contains n, wr)

/-- What the check of the head comes to. -/
inductive CheckEnd where
  | wait (s : State)
  | refuse (s : State) (code : Nat)
  | ready (s : State)

/-- Pages that are not yet pinned and can be are pinned. -/
def State.pinReady (s : State) (p lc : Nat) (rd wr : List Nat) : State :=
  let s := rd.foldl (fun s n =>
    if (s.core p lc).pinR.contains n ∨ s.residOf p n false ≠ .pin then s
    else (s.pinTile p [n] []).upCore p lc fun c => { c with pinR := n :: c.pinR }) s
  wr.foldl (fun s n =>
    if (s.core p lc).pinW.contains n ∨ s.residOf p n true ≠ .pin then s
    else (s.pinTile p [] [n]).upCore p lc fun c => { c with pinW := n :: c.pinW }) s

/-- The residency check of the head (R229, R231, R233). Refusals go before waiting; a check waits for admission in the
order in which it reached it. -/
def State.checkPages (s : State) (p lc : Nat) (rd wr : List Nat) : CheckEnd :=
  let c := s.core p lc
  let restR := rd.filter fun n => !c.pinR.contains n
  let restW := wr.filter fun n => !c.pinW.contains n
  match s.residAll p restR restW with
  | .refuse code => .refuse ((s.upPt p fun q => { q with checks := q.checks.filter (· ≠ lc) }).stopWaiting p lc) code
  | _ =>
    let s := if c.check.isSome then s else (s.beginCheck p lc).upCore p lc fun c => { c with check := some s.mgmt.beat }
    let q := s.pt p
    let first := q.checks.isEmpty || q.checks.head? == some lc
    if c.admitted = false ∧ (rd ++ wr ≠ []) ∧ (s.admits p (rd ++ wr) = false ∨ first = false) then
      let s := s.upCore p lc fun c => { c with checkPage := (rd ++ wr).headD 0 }
      .wait (if q.checks.contains lc then s else s.upPt p fun q => { q with checks := q.checks ++ [lc] })
    else
      let s := (s.upPt p fun q => { q with checks := q.checks.filter (· ≠ lc) }).upCore p lc fun c => { c with admitted := true }
      let s := s.pinReady p lc rd wr
      let waitR := rd.filter fun n => !(s.core p lc).pinR.contains n
      let waitW := wr.filter fun n => !(s.core p lc).pinW.contains n
      if waitR = [] ∧ waitW = [] then .ready (s.stopWaiting p lc)
      else .wait ((s.askPages p lc waitR waitW).upCore p lc fun c => { c with checkPage := (waitR ++ waitW).headD 0 })

/-! ### Issue (R90, R92, R143) -/

/-- Do two lists of ranges meet? -/
def rangesMeet (a b : List (Nat × Nat)) : Bool :=
  a.any fun x => b.any fun y => decide (x.1 < y.1 + y.2) && decide (y.1 < x.1 + x.2)

/-- Ranges of the issuing core's own memory that an instruction reads, and writes (R90). -/
def TileSpec.own (t : TileSpec) (lc : Nat) (w : TDesc) : List (Nat × Nat) × List (Nat × Nat) :=
  let own := (w.spans lc t.uses).filter fun x => x.1 == 1 && x.2.1 == lc
  ((own.filter fun x => x.2.2.2.1).flatMap (fun x => x.2.2.1) ++ t.reads,
   (own.filter fun x => x.2.2.2.2).flatMap (fun x => x.2.2.1) ++ t.writes)

/-- Is the unit free, and do no ranges conflict with an instruction in flight (R90)? -/
def Core.unitFree (c : Core) (mv : Bool) (rw : List (Nat × Nat) × List (Nat × Nat)) : Bool :=
  (if mv then c.move.isNone else c.comp.isNone) &&
  (c.comp.toList ++ c.move.toList).all fun f =>
    !(rangesMeet rw.2 f.rd || rangesMeet rw.2 f.wr || rangesMeet rw.1 f.wr)

/-- Every input that reads uncorrectable (R143). -/
def State.badInputs (s : State) (p lc : Nat) (w : TDesc) (t : TileSpec) (root : Option Nat) : List BadSrc :=
  ((w.spans lc t.uses).filter fun x => x.2.2.2.1).flatMap (fun x => s.badIn p x.1 x.2.1 x.2.2.1) ++
    s.badIn p 1 lc t.reads ++ t.bad s root

/-- The instruction executes: its inputs are read and checked, and its writes are made. `ck` counts the attempts whose
checksum a fault breaks (R143, R147, R150). DESIGN CHOICE, log entry 52. -/
def State.runTile (s : State) (p lc : Nat) (w : TDesc) (t : TileSpec) (root : Option Nat) (e : QEntry) (word : W64) (ck : Nat) :
    State × Nat × Option W64 :=
  match s.badInputs p lc w t root with
  | b :: bs => ((b :: bs).foldl (fun s b => s.meet p b) s, Code.uncorrectable, none)
  | [] =>
    if w.ck ∧ 2 ≤ ck then (t.stream root s, Code.checksumMismatch, none)
    else
      let r := t.run e word root s
      if r.2.1 = Code.done ∧ w.ck ∧ ck = 1 then (r.1, Code.replayed, r.2.2) else r

/-- How far the head of a queue comes. -/
inductive TileGo where
  /-- It does not execute: the state in which it waits, or in which it has completed without executing. -/
  | over (s : State)
  /-- It executes: the state of its issue, its entry with the word and order it takes, and the core as its check left it. -/
  | runs (s : State) (e : QEntry) (c : Core)

/-- The head issues: it consumes its mailbox count and makes its claim operations, and then executes; an instruction that its
claim stops completes at once (R90, R92, R152 to R154). -/
def State.issueTile (s : State) (p lc : Nat) (e : QEntry) (o : TileOp) : TileGo :=
  let w : TDesc := e.desc.toNat
  let c := s.core p lc
  let take := e.word.isNone && w.waitEn
  let word := match e.word with
    | some x => x
    | none => Tbl.get 0 c.mboxWord w.waitSlot
  let e := { e with word := if w.waitEn then some word else none, ord := c.issued }
  let s := if take then s.upCore p lc fun c =>
      { c with mboxCount := Tbl.set 0 c.mboxCount w.waitSlot (Tbl.get 0 c.mboxCount w.waitSlot - 1) } else s
  let s := s.upCore p lc fun c => { c.popHead with issued := c.issued + 1 }
  let free := fun (s : State) =>
    let s := s.unpinTile p c.pinR c.pinW
    match c.checkWalk with
    | some (n, v) => s.closeWalk p n v
    | none => s
  if (w.claimOp = 1 ∨ w.claimOp = 3) ∧ c.claim.isSome then .over ((free s).completeTile p lc e Code.claimOpen none)
  else
    let cl := s.claimOps p lc w (o == .commit true)
    match cl.2 with
    | some st => .over (((free cl.1).upCore p lc fun c => c.noteIssue e w).completeTile p lc e st none)
    | none => .runs (cl.1.upCore p lc fun c => c.noteIssue e w) e c

/-- The head of core `lc`'s queue, if it is an instruction of this row, goes as far as it can. A descriptor that names no
instruction is refused by whatever row is given. -/
def State.tileGo (s : State) (p lc : Nat) (o : TileOp) (spec : State → TDesc → TileSpec) : TileGo :=
  match (s.core p lc).queue with
  | [] => .over s
  | e :: _ =>
    let w : TDesc := e.desc.toNat
    if s.canIssue p lc = false then .over s
    else match w.tileOp with
      | none => .over (s.retireHead p lc e Code.invalidDescriptor)
      | some o' =>
        if o' ≠ o then .over s
        else
          let t := spec s w
          let st := s.checkTile p lc w o t
          let c := s.core p lc
          let doom := if w.claimOp = 1 ∨ w.claimOp = 3 then none else c.claim.bind fun k => k.doom
          if st ≠ Code.done then .over (s.retireHead p lc e st)
          else match doom with
            | some d => .over (s.skipHead p lc e d)
            | none =>
              -- the walk opens when the checks at issue have passed (R170)
              let s := match t.walk, c.checkWalk with
                | some n, none =>
                  if n < (s.pt p).info.seqEntries then
                    (s.openWalk p n).upCore p lc fun c =>
                      { c with checkWalk := some (n, (s.seqOf p n).version),
                               checkGeom := some ((s.pt p).seqWord n 4, (s.pt p).seqWord n 5) }
                  else s
                | _, _ => s
              let c := s.core p lc
              let root := c.checkWalk.bind fun x => (s.seqOf p x.1).rootOf x.2
              let op := if t.walk.isSome then t.opened s root else Code.done
              if op ≠ Code.done then .over (s.retireHead p lc e op)
              else
                let pg := t.pages s lc w root
                match s.checkPages p lc pg.1 pg.2 with
                | .refuse s code => .over (s.retireHead p lc e code)
                | .wait s => .over s
                | .ready s =>
                  if c.unitFree o.isMove (t.own lc w) = false then .over s
                  else if w.waitEn ∧ e.word = none ∧ Tbl.get 0 c.mboxCount w.waitSlot = 0 then .over s
                  else s.issueTile p lc e o

/-- The root that the instruction's walk has pinned, if it opened one (R170). -/
def State.walkRoot (s : State) (p : Nat) (c : Core) : Option Nat :=
  c.checkWalk.bind fun x => (s.seqOf p x.1).rootOf x.2

/-- The instruction is in flight until its writes are acknowledged: with the status that its execution gave (REPLAYED for a
re-execution that is done), its result word, what it pins and the ranges it uses (R90, R145, R155, R156). A GUARD that wrote closes the
claim, the one that lost writes to protected blocks, too (R152, R154, R174); one that met an uncorrectable value is re-executed first. -/
def State.fly (s : State) (p lc : Nat) (o : TileOp) (rw : List (Nat × Nat) × List (Nat × Nat)) (e : QEntry) (c : Core)
    (status : Nat) (word : Option W64) : State :=
  let w : TDesc := e.desc.toNat
  let st := if status = Code.done ∧ e.reexec then Code.replayed else status
  let gen := if o = .barrier then some (e.gen.getD (Tbl.get 0 c.barGen (w.dim 0))) else none
  let f : Flight :=
    { q := { e with faa := (if o = .tktFaa then word else none), gen := gen }, status := st, word := word, beat := s.mgmt.beat,
      pages := c.pinR, writes := c.pinW, walk := c.checkWalk, closes := decide (2 ≤ w.claimOp) && (okTile st || st == Code.ptWriteViolation), rd := rw.1, wr := rw.2 }
  s.upCore p lc fun c => if o.isMove then { c with move := some f } else { c with comp := some f }

/-- A tile row: the head goes as far as it can, and executes when nothing holds it. -/
def State.tileRow (s : State) (p lc : Nat) (o : TileOp) (ck : Nat) (spec : State → TDesc → TileSpec) : State :=
  match s.tileGo p lc o spec with
  | .over s => s
  | .runs s1 e c =>
    let w : TDesc := e.desc.toNat
    let t := spec s w
    let r := s1.runTile p lc w t (s1.walkRoot p c) e (e.word.getD 0) ck
    r.1.fly p lc o (t.own lc w) e c r.2.1 r.2.2

/-- TILE_COMPLETE: the writes of an instruction in flight are acknowledged; the claim closes, then it completes (R145). A
core that has been declared late is fenced at the boundary and completes nothing more (R51, R114). -/
def tileComplete (p lc : Nat) (mv : Bool) (s : State) : State :=
  let c := s.core p lc
  match (if mv then c.move else c.comp) with
  | none => s
  | some f =>
    if c.failed = some 1 then s
    else
      let w : TDesc := f.q.desc.toNat
      let s := s.upCore p lc fun c => if mv then { c with move := none } else { c with comp := none }
      let s := s.unpinTile p f.pages f.writes
      let s := match f.walk with
        | some (n, v) => s.closeWalk p n v
        | none => s
      let s := if f.closes then s.claimClose p w.claimIdx ((s.phys p lc).getD 0) else s
      -- a TABLE_SWAP takes effect at its completion (R218)
      let s := if w.tileOp = some .tableSwap then s.upCore p lc fun c => { c with bank := w.func % 2 } else s
      s.completeTile p lc f.q f.status f.word

/-- R145. -/
def execTileComplete (p lc : Nat) (move : Bool) (s : State) : Res := s.live (tileComplete p lc move)

/-! ### Results -/

/-- Rows of FP32 values are converted to the format of an operand and written there, under RND and the saturation given; stochastic
rounding advances the core's generator (R72, R74, R140, R141). Answers the status. -/
def State.writeRowsAs (s : State) (sat : Bool) (p lc : Nat) (w : TDesc) (o : Opnd) (rows : List (List Fv)) : State × Nat :=
  let j := (s.pt p).live
  let cv := convRows o.fmt sat w.rndMode rows { state := (j.core lc).rng }
  let s := if w.rndMode = .stochastic then s.upCore p lc fun c => { c with rng := cv.2.state } else s
  let r := s.storeIn p o.space o.core (o.writes j cv.1)
  (r.1, storeStatus r)

/-- Results that are converted, under SAT (R75). -/
def State.writeRows (s : State) (p lc : Nat) (w : TDesc) (o : Opnd) (rows : List (List Fv)) : State × Nat :=
  s.writeRowsAs w.sat p lc w o rows

/-- FP32 accumulators and running values, which never saturate (R79). -/
def State.writeAcc (s : State) (p lc : Nat) (w : TDesc) (o : Opnd) (rows : List (List Fv)) : State × Nat :=
  s.writeRowsAs false p lc w o rows

/-- Does the parameter block of `n` bytes that slot 3 names hold a word that reads uncorrectable? Nothing is judged by its bytes then, and
the instruction ends UNCORRECTABLE (R86, R143). -/
def State.blockBad (s : State) (p lc : Nat) (w : TDesc) (n : Nat) : Bool :=
  match w.block lc with
  | some a => !(rangeBad 8 (s.core p lc).bad [(a, n)]).isEmpty
  | none => false

/-- Rows of element codes are written to an operand. -/
def State.writeCodes (s : State) (p : Nat) (o : Opnd) (rows : List (List Nat)) : State × Nat :=
  let r := s.storeIn p o.space o.core (o.writes (s.pt p).live (rows.map fun x => (x, [])))
  (r.1, storeStatus r)

/-- An effect that needs an operand its slot does not give has none. -/
def onOpnd (o : Option Opnd) (s : State) (f : Opnd → State × Nat) : State × Nat :=
  match o with
  | some o => f o
  | none => (s, Code.invalidOperand)

/-- A result without a TKT_FAA word. -/
def plain (r : State × Nat) : State × Nat × Option W64 := (r.1, r.2, none)

end Sys2Proof.Machine
end

