-- ==== Sys2Proof/Machine/Vec.lean ====
section
/-! DEFINITION. The matrix and vector rows: MATMUL and VEC (R77 to R79, R129 to R131, R139, R147). -/

namespace Sys2Proof.Machine

/-! ### The matrix product (R77, R130, R139, R147) -/

/-- A row of a gathered matrix operand as groups of at most 32 elements without block scales, and each group's scale
exponent: none when a scale is NaN (R66, R77). -/
abbrev GRow := List (List Fv × Option Int)

/-- Scale exponent of the block of element (r, c) of an operand. -/
def Opnd.scaleExp (j : JobData) (o : Opnd) (r c : Nat) : Option Int :=
  if o.fmt.isMx then (let k := o.scaleAt j r c; if k = 255 then none else some ((k : Int) - 127)) else some 0

/-- Group `g` of row `r`: elements below `n` are read, the others up to `dim` are zero, and a group with no element
below `n` reads no scale (R138, R139). -/
def Opnd.group (j : JobData) (o : Opnd) (r n dim g : Nat) : List Fv × Option Int :=
  ((List.range (Nat.min 32 (dim - 32 * g))).map fun i =>
      if 32 * g + i < n then o.bare j r (32 * g + i) else .zero,
   if 32 * g < n then o.scaleExp j r (32 * g) else some 0)

/-- Row `r` of a matrix operand; an invalid row is zero. -/
def Opnd.grow (j : JobData) (o : Opnd) (r n dim : Nat) : GRow :=
  (List.range (ceilDiv dim 32)).map fun g => o.group j r n dim g

/-- The scales of two blocks together. -/
def scaleSum : Option Int → Option Int → Option Int
  | some a, some b => some (a + b)
  | _, _ => none

/-- One element of a matrix product over an accumulator (R77). -/
def growDot (a b : GRow) (acc : Fv) : Fv :=
  dotAcc ((a.zip b).map fun x => (x.1.1, x.2.1)) ((a.zip b).map fun x => scaleSum x.1.2 x.2.2) acc

/-- Elements of a row with their block scales applied. -/
def GRow.values (a : GRow) : List Fv :=
  a.flatMap fun g => g.1.map fun v => match g.2 with
    | some k => v.scale k
    | none => .nan

/-- Σ over the rows of a matrix, column by column. -/
def sumRows (rows : List (List Fv)) (n : Nat) : List Fv :=
  (List.range n).map fun k => Fv.sumX (rows.map fun r => r.getD k .zero)

/-- The checksum comparison of a product in every column (R147): `a` and `b` are the operands' rows, `cin` and `cout` the
accumulator's. DEDUCED, log entry 66. -/
def ckPass (a b : List GRow) (cin cout : List (List Fv)) (tol : Nat) : Bool :=
  let av := a.map GRow.values
  let n := (av.map List.length).foldl Nat.max 0
  let sa := sumRows av n
  let sm := sumRows (av.map fun r => r.map Fv.abs) n
  (b.zip (List.range b.length)).all fun x =>
    let bv := x.1.values
    let col := fun (m : List (List Fv)) => m.map fun r => r.getD x.2 .zero
    let t := Fv.sumX (((col cout).zip (col cin)).map fun y => y.1.addX y.2.neg)
    let r := Fv.sumX ((sa.zip bv).map fun y => y.1.mulX y.2)
    let g := Fv.sumX ((sm.zip bv).map fun y => y.1.mulX y.2.abs)
    let h := Fv.sumX ((col cin).map Fv.abs)
    ckColumn t r g h tol (a.length * ((a.headD []).length + 1))

/-- Largest value of K for the width class of two formats: 4, 8 or 16 bits of the wider operand (R70, R129). MXFP6 is in
the 8-bit class. -/
def classBits (a b : Option Fmt) : Nat :=
  let w := Nat.max ((a.map Fmt.bits).getD 8) ((b.map Fmt.bits).getD 8)
  if w ≤ 4 then 4 else if w ≤ 8 then 8 else 16

/-- MATMUL's effect: C ← C·ACC + A × Bᵀ (R130). -/
def matmulRun (p lc : Nat) (w : TDesc) (s : State) : State × Nat :=
  let j := (s.pt p).live
  match w.opnd lc 0, w.opnd lc 1, w.opnd lc 2 with
  | some a, some b, some c =>
    let ar := (List.range (w.val 0)).map fun r => a.grow j r (w.val 2) (w.dim 2)
    let br := (List.range (w.val 1)).map fun r => b.grow j r (w.val 2) (w.dim 2)
    let cin := (List.range (w.val 0)).map fun r =>
      if w.acc then c.row j r (w.val 1) else List.replicate (w.val 1) Fv.zero
    let cout := (ar.zip cin).map fun x => (br.zip x.2).map fun y => growDot x.1 y.1 y.2
    if w.ck ∧ ckPass ar br cin cout w.tol = false then (s, Code.checksumMismatch)
    else s.writeAcc p lc w c cout
  | _, _, _ => (s, Code.invalidOperand)

/-- MATMUL (R129, R130). -/
def matmulSpec (p lc : Nat) (_s : State) (w : TDesc) : TileSpec :=
  let cl := classBits (fmtOf (w.fmt 0)) (fmtOf (w.fmt 1))
  { uses := [{ slot := 0, fmts := fmtMatrix, rows := w.dim 0, cols := w.dim 2, vr := w.val 0, vc := w.val 2 },
             { slot := 1, fmts := fmtMatrix, rows := w.dim 1, cols := w.dim 2, vr := w.val 1, vc := w.val 2 },
             { slot := 2, fmts := fmtF32, rd := w.acc, wr := true, rows := w.dim 0, cols := w.dim 1, vr := w.val 0,
               vc := w.val 1 }]
    limits := decide (1 ≤ w.dim 0) && decide (w.dim 0 ≤ 128) && decide (1 ≤ w.dim 1) && decide (w.dim 1 ≤ 128) &&
      decide (1 ≤ w.dim 2) && decide (w.dim 2 * cl ≤ 1024)
    run := fun _ _ _ s => plain (matmulRun p lc w s) }

/-- R130. -/
def execMatmul (p lc ck : Nat) (s : State) : Res := s.live fun s => s.tileRow p lc .matmul ck (matmulSpec p lc)

/-! ### VEC (R131) -/

/-- Limits of VEC, SFU and TABLE_LOOKUP (R129). -/
def TDesc.vecLimits (w : TDesc) : Bool :=
  decide (1 ≤ w.dim 0) && decide (w.dim 0 ≤ 128) && decide (1 ≤ w.dim 1) && decide (w.dim 1 ≤ 16384) &&
    decide (w.dim 0 * w.dim 1 ≤ 32768)

/-- Does the FUNC read B, C, or the scalar s? -/
def VecFn.usesB : VecFn → Bool
  | .convert | .addS | .mulS | .rowSum | .rowMax => false
  | _ => true

/-- See `VecFn.usesB`. -/
def VecFn.usesS : VecFn → Bool
  | .addS | .mulS => true
  | _ => false

/-- B is one row, repeated. -/
def VecFn.rowB : VecFn → Bool
  | .addRow | .mulRow => true
  | _ => false

/-- One result for each row. -/
def VecFn.reduces : VecFn → Bool
  | .rowSum | .rowMax => true
  | _ => false

/-- An integer FUNC. -/
def VecFn.isInt : VecFn → Bool
  | .iadd | .iand | .ior | .ixor | .imax | .imin => true
  | _ => false

/-- The fixed pairwise tree over lanes: (0+1), (2+3) and so on upward (R213). -/
def pairSum (b : Bin) : Nat → List Fv → Fv
  | 0, l => l.headD .zero
  | k + 1, l => pairSum b k ((chunks 2 l.length l).map fun
    | [x, y] => b.round (x.addX y)
    | l => l.headD .zero)

/-- Add values into 64 lanes in ascending order by `f`, then combine them (R131, R213). -/
def laneSum (b : Bin) (f : Fv → Fv → Fv) (vs : List Fv) : Fv :=
  pairSum b 6 ((List.range 64).map fun i => ((List.range (ceilDiv (vs.length - i) 64)).map fun k =>
    vs.getD (64 * k + i) .zero).foldl f Fv.zero)

/-- ROW_SUM of a row (R131). -/
def rowSumOf (vs : List Fv) : Fv := laneSum binFp32 fadd vs

/-- ROW_MAX of a row (R131). -/
def rowMaxOf (vs : List Fv) : Fv := vs.foldl Fv.maxOf .negInf

/-- One element of a floating-point FUNC: A's, B's and C's elements and the scalar. -/
def VecFn.elem (f : VecFn) (a b c sc : Fv) : Fv :=
  match f with
  | .convert => a
  | .add | .addRow => fadd a b
  | .sub => fsub a b
  | .mul | .mulRow => fmul a b
  | .fma => ffma a b c
  | .max => a.maxOf b
  | .min => a.minOf b
  | .addS => fadd a sc
  | .mulS => fmul a sc
  | _ => a

/-- One element of an integer FUNC on two INT32 words (R131). -/
def VecFn.intElem (f : VecFn) (a b : W32) : W32 :=
  match f with
  | .iadd => a + b
  | .iand => a &&& b
  | .ior => a ||| b
  | .ixor => a ^^^ b
  | .imax => if a.slt b then b else a
  | .imin => if b.slt a then b else a
  | _ => a

/-- INT32 value of an element of an INT32 or INT8 operand. -/
def Opnd.int32 (j : JobData) (o : Opnd) (r c : Nat) : W32 :=
  BitVec.ofInt 32 (toSigned o.fmt.bits (o.codeAt j r c))

/-- VEC's effect (R131). DEDUCED, log entry 61. -/
def vecRun (f : VecFn) (p lc : Nat) (w : TDesc) (word : W64) (s : State) : State × Nat :=
  let j := (s.pt p).live
  let sc := ofW32 (word.toNat % 2 ^ 32)
  onOpnd (w.opnd lc 3) s fun d => onOpnd (w.opnd lc 0) s fun a =>
    let n := w.val 1
    if f.isInt then
      onOpnd (w.opnd lc 1) s fun b =>
        s.writeCodes p d ((List.range (w.val 0)).map fun r => (List.range n).map fun c =>
          (f.intElem (a.int32 j r c) (b.int32 j r c)).toNat)
    else
      let row := fun (o : Option Opnd) (r : Nat) => match o with
        | some o => o.row j r n
        | none => List.replicate n Fv.zero
      s.writeRows p lc w d ((List.range (w.val 0)).map fun r =>
        let x := a.row j r n
        match f with
        | .rowSum => [rowSumOf x]
        | .rowMax => [rowMaxOf x]
        | _ =>
          let y := row (if f.usesB then w.opnd lc 1 else none) (if f.rowB then 0 else r)
          let z := row (if f = .fma then w.opnd lc 2 else none) r
          (x.zip (y.zip z)).map fun v => f.elem v.1 v.2.1 v.2.2 sc)

/-- A VEC row (R129, R131). -/
def vecSpec (f : VecFn) (p lc : Nat) (_s : State) (w : TDesc) : TileSpec :=
  let inF := if f.isInt then [0x0B, 0x0D] else fmtVector
  let outF := if f.isInt then [0x0D] else fmtVector
  let full : Use := { slot := 0, fmts := inF, rows := w.dim 0, cols := w.dim 1, vr := w.val 0, vc := w.val 1 }
  let b : List Use := if f.usesB then
      [if f.rowB then { full with slot := 1, rows := 1, vr := Nat.min 1 (w.val 0) } else { full with slot := 1 }]
    else []
  let c : List Use := if f = .fma then [{ full with slot := 2 }] else []
  let d : Use := if f.reduces then
      { full with slot := 3, fmts := outF, rd := false, wr := true, cols := 1, vc := 1 }
    else { full with slot := 3, fmts := outF, rd := false, wr := true }
  { uses := full :: b ++ c ++ [d]
    zeroDims := [2]
    header := !f.usesS || w.waitEn
    limits := w.vecLimits
    run := fun _ word _ s => plain (vecRun f p lc w word s) }

/-- A VEC row, by its FUNC. -/
def State.vecRow (s : State) (f : VecFn) (p lc : Nat) : State := s.tileRow p lc (.vec f) 0 (vecSpec f p lc)

/-- CONVERT (R131). -/
def execConvert (p lc : Nat) (s : State) : Res := s.live fun s => s.vecRow .convert p lc

/-- ADD (R131). -/
def execVecAdd (p lc : Nat) (s : State) : Res := s.live fun s => s.vecRow .add p lc

/-- SUB (R131). -/
def execSub (p lc : Nat) (s : State) : Res := s.live fun s => s.vecRow .sub p lc

/-- MUL (R131). -/
def execMul (p lc : Nat) (s : State) : Res := s.live fun s => s.vecRow .mul p lc

/-- FMA (R131). -/
def execFma (p lc : Nat) (s : State) : Res := s.live fun s => s.vecRow .fma p lc

/-- MAX (R131). -/
def execMax (p lc : Nat) (s : State) : Res := s.live fun s => s.vecRow .max p lc

/-- MIN (R131). -/
def execMin (p lc : Nat) (s : State) : Res := s.live fun s => s.vecRow .min p lc

/-- ADD_S (R131). -/
def execAddS (p lc : Nat) (s : State) : Res := s.live fun s => s.vecRow .addS p lc

/-- MUL_S (R131). -/
def execMulS (p lc : Nat) (s : State) : Res := s.live fun s => s.vecRow .mulS p lc

/-- ADD_ROW (R131). -/
def execAddRow (p lc : Nat) (s : State) : Res := s.live fun s => s.vecRow .addRow p lc

/-- MUL_ROW (R131). -/
def execMulRow (p lc : Nat) (s : State) : Res := s.live fun s => s.vecRow .mulRow p lc

/-- ROW_SUM (R131). -/
def execRowSum (p lc : Nat) (s : State) : Res := s.live fun s => s.vecRow .rowSum p lc

/-- ROW_MAX (R131). -/
def execRowMax (p lc : Nat) (s : State) : Res := s.live fun s => s.vecRow .rowMax p lc

/-- IADD (R131). -/
def execIadd (p lc : Nat) (s : State) : Res := s.live fun s => s.vecRow .iadd p lc

/-- IAND (R131). -/
def execIand (p lc : Nat) (s : State) : Res := s.live fun s => s.vecRow .iand p lc

/-- IOR (R131). -/
def execIor (p lc : Nat) (s : State) : Res := s.live fun s => s.vecRow .ior p lc

/-- IXOR (R131). -/
def execIxor (p lc : Nat) (s : State) : Res := s.live fun s => s.vecRow .ixor p lc

/-- IMAX (R131). -/
def execImax (p lc : Nat) (s : State) : Res := s.live fun s => s.vecRow .imax p lc

/-- IMIN (R131). -/
def execImin (p lc : Nat) (s : State) : Res := s.live fun s => s.vecRow .imin p lc

end Sys2Proof.Machine
end

