-- ==== Sys2Proof/Machine/Attn.lean ====
section
/-! DEFINITION. Attention tiles: the parameter and statistics blocks, the walk, the masks, ATTN_FWD, ATTN_MERGE and
ATTN_BWD, and score accumulation (R161 to R166, R176 to R193). -/

namespace Sys2Proof.Machine

/-- R176. -/
def Code.attnParam : Nat := 0x0201
/-- R176. -/
def Code.seqDisabled : Nat := 0x0202
/-- R176. -/
def Code.statsState : Nat := 0x0203

/-! ### Sequence words 4 and 5 (R159, R161) -/

/-- What words 4 and 5 of a sequence descriptor give. -/
structure SeqGeom where
  enable : Bool
  /-- Bytes of an element of K and V. -/
  e : Nat
  heads : Nat
  dim : Nat
  layers : Nat
  lpl : Nat
  sacc : Nat
  saccEn : Bool
deriving DecidableEq, Repr

/-- What two words say (R159). -/
def geomOf (a b : Nat) : SeqGeom :=
  { enable := bits a 63 63 == 1, e := if bits a 62 62 = 1 then 2 else 1, heads := bits a 61 56, dim := bits a 55 47,
    layers := bits a 46 37, lpl := bits a 36 27, sacc := bits b 47 8 * 256, saccEn := b % 2 == 1 }

/-- Words 4 and 5 of sequence `n` as core `lc`'s head uses them: as its walk read them, or as they stand while it has opened none
(R161). -/
def State.geom (s : State) (p lc n : Nat) : SeqGeom :=
  match (s.core p lc).checkGeom with
  | some (a, b) => geomOf a b
  | none => geomOf ((s.pt p).seqWord n 4) ((s.pt p).seqWord n 5)

/-- Is the geometry valid (R161)? Reserved bits of words 4 and 5 are not looked at. DESIGN CHOICE, log entry 174. -/
def SeqGeom.ok (g : SeqGeom) : Bool :=
  decide (1 ≤ g.heads) && decide (g.heads ≤ 32) && decide (1 ≤ g.dim) && decide (g.dim ≤ 256) && decide (1 ≤ g.layers) &&
    decide (g.layers ≤ 512) && decide (1 ≤ g.lpl) && decide (g.lpl ≤ 512) && decide (g.heads * 2 * g.dim * g.e ≤ 1024)

/-! ### The parameter block (R177) -/

/-- An attention parameter block. -/
structure AttnPar where
  seq : Nat
  layer : Nat
  head : Nat
  mask : Nat
  keyStart : Nat
  qPos : Nat
  p0 : Nat
  p1 : Nat
  scale : Nat
  bmStride : Nat
  bm : Nat
  kbuf : Nat
  vbuf : Nat
  dk : Nat
  dv : Nat
  dq : Nat
  reserved : Bool
deriving DecidableEq, Repr

/-- The block at byte `a` of a core's memory. A field that a mode leaves at 0 counts as reserved in it. -/
def readAttnPar (m : Memory) (a : Nat) (bwd : Bool) : AttnPar :=
  let b := fun (o n : Nat) => m.rdLe (a + o) n
  let mode := b 5 1 % 4
  { seq := b 0 2, layer := b 2 2, head := b 4 1, mask := b 5 1 % 8, keyStart := b 8 4, qPos := b 0x0C 4, p0 := b 0x10 4,
    p1 := b 0x14 4, scale := b 0x18 4, bmStride := b 0x1C 4, bm := b 0x20 8, kbuf := b 0x28 4, vbuf := b 0x2C 4,
    dk := b 0x30 4, dv := b 0x34 4, dq := b 0x38 4
    reserved := decide (8 ≤ b 5 1) || b 6 2 != 0 || decide (2 ^ 51 ≤ b 0x20 8) || b 0x3C 4 != 0 ||
      (decide (mode < 2) && b 0x10 4 != 0) || (mode != 3 && b 0x14 4 != 0) ||
      (!bwd && (b 0x30 4 != 0 || b 0x34 4 != 0 || b 0x38 4 != 0)) ||
      ([b 0x28 4, b 0x2C 4, b 0x30 4, b 0x34 4, b 0x38 4].any fun x => decide (2 ^ 19 ≤ x)) }

/-- The block that slot 3 names. -/
def State.attnPar (s : State) (p lc : Nat) (w : TDesc) (bwd : Bool) : AttnPar :=
  readAttnPar (s.core p lc).mem ((w.block lc).getD 0) bwd

/-! ### The walk (R162 to R166, R170) -/

/-- Blocks that the walk of position `pos` reads: root, directory and leaf, as far as the entries are valid (R162). -/
def JobData.walkPath (j : JobData) (root : Option Nat) (lpl layer pos : Nat) : List (Nat × Nat) :=
  match root with
  | none => []
  | some r =>
    if lpl * 131072 ≤ pos then []
    else
      let f := layer * lpl + pos / 131072
      let e0 := j.ptEntry r (f / 512)
      (r, f / 512) ::
        if e0 % 2 = 0 then []
        else
          let e1 := j.ptEntry (ptChild e0) (f % 512)
          (ptChild e0, f % 512) :: if e1 % 2 = 0 then [] else [(ptChild e1, pos / 256 % 512)]

/-- What a walk finds of the tile's keys: the leaf entry, or none where all are absent (R165). -/
def JobData.leafOf (j : JobData) (root : Option Nat) (g : SeqGeom) (a : AttnPar) : Option Nat :=
  (j.walk root g.lpl a.layer a.keyStart).map (·.1)

/-- Is key `k` of the tile present (R165)? -/
def keyPresent (leaf : Option Nat) (a : AttnPar) (k : Nat) : Bool :=
  match leaf with
  | some e => decide ((a.keyStart + k) % 256 < bits e 17 9)
  | none => false

/-- Address of the key, or of the value, of the tile's key `k` (R166). -/
def kvAddr (leaf : Nat) (g : SeqGeom) (a : AttnPar) (val : Bool) (k : Nat) : Nat :=
  leafPage leaf * 262144 + a.head * 2 * 256 * g.dim * g.e + (if val then 256 * g.dim * g.e else 0) +
    (a.keyStart + k) % 256 * g.dim * g.e

/-- Does key `k` pass for query row `i`, the bitmap aside (R182)? -/
def maskOk (a : AttnPar) (leaf : Option Nat) (w : TDesc) (i k : Nat) : Bool :=
  let qp : Int := (a.qPos + i : Nat)
  let kp : Int := (a.keyStart + k : Nat)
  decide (i < w.val 0) && decide (k < w.val 1) && keyPresent leaf a k &&
  match a.mask % 4 with
  | 1 => decide (kp ≤ qp)
  | 2 => decide (kp / a.p0 ≤ qp / a.p0)
  | 3 => decide (qp - a.p0 ≤ kp) && decide (kp ≤ qp + a.p1)
  | _ => true

/-- Byte and bit of the bitmap for a pair (R182). -/
def bitmapAt (a : AttnPar) (i k : Nat) : Nat × Nat :=
  let b := bits a.bm 50 48 + k
  (bits a.bm 47 0 + i * a.bmStride + b / 8, b % 8)

/-- allowed(i, j) of R182. -/
def allowed (j : JobData) (a : AttnPar) (leaf : Option Nat) (w : TDesc) (i k : Nat) : Bool :=
  maskOk a leaf w i k &&
    (decide (a.mask < 4) || ((j.dv.rd (bitmapAt a i k).1).toNat / 2 ^ (bitmapAt a i k).2 % 2 == 1))

/-- The KV page of a mapped leaf entry, which the residency check covers whether or not it holds a key of the tile (R170). -/
def JobData.kvPage (j : JobData) (root : Option Nat) (g : SeqGeom) (a : AttnPar) : List Nat :=
  match j.leafOf root g a with
  | some e => [leafPage e]
  | none => []

/-- Page-table entries and bitmap bytes that the stream unit reads for a tile, through the cache (R280). -/
def attnTables (j : JobData) (root : Option Nat) (g : SeqGeom) (a : AttnPar) (w : TDesc) : List (Nat × Nat) :=
  let leaf := j.leafOf root g a
  let path := (j.walkPath root g.lpl a.layer a.keyStart).map fun x => (x.1 * 4096 + 8 * x.2, 8)
  let bm := if a.mask < 4 then [] else (List.range (w.val 0)).flatMap fun i =>
    (((List.range (w.val 1)).filter (maskOk a leaf w i)).map fun k => ((bitmapAt a i k).1, 1))
  path ++ bm

/-- The walk's reads of page-table blocks and bitmap bytes allocate cache lines (R280). -/
def State.walked (s : State) (p : Nat) (root : Option Nat) (g : SeqGeom) (a : AttnPar) (w : TDesc) : State :=
  s.allocate p (attnTables (s.pt p).live root g a w)

/-- Device-virtual ranges that the stream unit reads for a tile: path entries, bitmap bytes, present keys and values. -/
def attnReads (j : JobData) (root : Option Nat) (g : SeqGeom) (a : AttnPar) (w : TDesc) : List (Nat × Nat) :=
  let leaf := j.leafOf root g a
  let ks := (List.range (w.val 1)).filter (keyPresent leaf a)
  attnTables j root g a w ++
    ks.flatMap fun k => [(kvAddr (leaf.getD 0) g a false k, g.dim * g.e), (kvAddr (leaf.getD 0) g a true k, g.dim * g.e)]

/-- Address of the tile's score accumulator (R192). -/
def saccAddr (g : SeqGeom) (a : AttnPar) : Nat := g.sacc + 4 * (a.layer * g.lpl * 512 + a.keyStart / 256)

/-! ### Buffers and the checks of R180 -/

/-- Rows of a buffer at a pitch, as ranges. -/
def bufRows (base pitch n rows : Nat) : List (Nat × Nat) := (List.range rows).map fun r => (base + r * pitch, n)

/-- Bytes of `n` rounded up to a multiple of 64. -/
def up64 (n : Nat) : Nat := ceilDiv n 64 * 64

/-- Key and value buffers' ranges (R181): those of the valid rows and columns. DESIGN CHOICE, log entry 174. -/
def kvBufs (g : SeqGeom) (a : AttnPar) (w : TDesc) : List (List (Nat × Nat)) :=
  [bufRows a.kbuf (up64 (g.dim * g.e)) (g.dim * g.e) (w.val 1), bufRows a.vbuf (up64 (g.dim * g.e)) (g.dim * g.e) (w.val 1)]

/-- Gradient buffers' ranges: DQ, DK, DV, of the valid rows and columns (R190). DESIGN CHOICE, log entry 174. -/
def gradBufs (a : AttnPar) (w : TDesc) : List (List (Nat × Nat)) :=
  let pitch := up64 (w.dim 2 * 4)
  [bufRows a.dq pitch (w.val 2 * 4) (w.val 0), bufRows a.dk pitch (w.val 2 * 4) (w.val 1),
   bufRows a.dv pitch (w.val 2 * 4) (w.val 1)]

/-- Does a list of ranges meet an earlier one? -/
def overlapAny : List (List (Nat × Nat)) → Bool
  | [] => false
  | x :: t => (t.any fun y => rangesMeet x y) || overlapAny t

/-- The stream unit's checks when the walk opens (R180). The reserved fields are those of the parameter block. DESIGN CHOICE, log entry 174. -/
def attnCheck (p lc : Nat) (w : TDesc) (a : AttnPar) (g : SeqGeom) (bwd : Bool) (uses : List Use) (extra : List (Nat × Nat))
    (s : State) (_root : Option Nat) : Nat :=
  let q := s.pt p
  let bufs := kvBufs g a w ++ if bwd then gradBufs a w else []
  let ops := ((w.spans lc uses).filter fun x => x.1 == 1).flatMap (fun x => x.2.2.1) ++ extra
  let bases := [a.kbuf, a.vbuf] ++ if bwd then [a.dk, a.dv, a.dq] else []
  if q.info.seqEntries ≤ a.seq ∨ g.ok = false then Code.attnParam
  else if g.enable = false then Code.seqDisabled
  else if a.reserved ∨ g.layers ≤ a.layer ∨ g.heads ≤ a.head ∨ w.val 2 ≠ g.dim ∨ 256 < a.keyStart % 256 + w.dim 1 ∨
      (ofW32 a.scale).finite = false ∨ (a.mask % 4 = 2 ∧ a.p0 = 0) ∨ (bwd = false ∧ w.func / 4 % 2 = 1 ∧ g.saccEn = false) ∨
      (bufs.any fun b => s.inSpace p 1 b == false) ∨ (bases.any fun b => b % 64 != 0) ∨ overlapAny (ops :: bufs) then
    Code.attnParam
  else Code.done

/-! ### Numbers of a tile (R185, R191) -/

/-- Format of K and V. DEDUCED, log entry 71. -/
def SeqGeom.kvFmt (g : SeqGeom) : Fmt := if g.e = 2 then ⟨0x02, 16, .flt binBf16⟩ else ⟨0x05, 8, .flt binE4m3⟩

/-- Row `k` of the key or value buffer, as elements without the page's scale. -/
def kvRow (j : JobData) (lc : Nat) (g : SeqGeom) (base k : Nat) : List Fv :=
  (List.range g.dim).map fun c => g.kvFmt.decode ((j.core lc).mem.rdLe (base + k * up64 (g.dim * g.e) + c * g.e) g.e) 127

/-- A dot product under R77, in groups of 32, each group sum times 2^`k`. -/
def dot77 (a b : List Fv) (k : Int) : Fv :=
  let n := a.length + 1
  let gs := (chunks 32 n a).zip (chunks 32 n b)
  dotAcc gs (gs.map fun _ => some k) .zero

/-- The keys and values are streamed into their buffers; answers whether a part of a word that reads uncorrectable was to be written
(R142, R181). -/
def State.streamKv (s : State) (p lc : Nat) (g : SeqGeom) (a : AttnPar) (w : TDesc) (leaf : Option Nat) : State × Bool :=
  let j := (s.pt p).live
  match leaf with
  | none => (s, false)
  | some e =>
    let ws := ((List.range (w.val 1)).filter (keyPresent leaf a)).flatMap fun k =>
      bwrites (a.kbuf + k * up64 (g.dim * g.e)) (j.dv.rdN (kvAddr e g a false k) (g.dim * g.e)) ++
      bwrites (a.vbuf + k * up64 (g.dim * g.e)) (j.dv.rdN (kvAddr e g a true k) (g.dim * g.e))
    let r := s.coreWrite p lc ws
    (if r.2 then r.1.failCore p lc 3 else r.1, r.2)

/-- A row as groups of 32 under one block scale exponent (R77). -/
def groupsOf (k : Int) (vs : List Fv) : GRow := (chunks 32 (vs.length + 1) vs).map fun c => (c, some k)

/-- The checksum comparison of a product a × bᵀ with a zero accumulator: `kb` is the scale of b's rows (R147, R188, R191). -/
def ckProduct (tol : Nat) (a b : List (List Fv)) (kb : Int) (c : List (List Fv)) : Bool :=
  ckPass (a.map (groupsOf 0)) (b.map (groupsOf kb)) (c.map fun r => r.map fun _ => Fv.zero) c tol

/-- Column `c` of rows. -/
def column (rows : List (List Fv)) (c : Nat) : List Fv := rows.map fun r => r.getD c .zero

/-- Rows, with zeros for those that `ok` leaves out. -/
def maskRows (rows : List (List Fv)) (ok : List Bool) : List (List Fv) :=
  (rows.zip ok).map fun x => if x.2 then x.1 else x.1.map fun _ => Fv.zero

/-- Value of a 32-bit element of a statistics block (R184). -/
def statWord (j : JobData) (lc : Nat) (o : Opnd) (row i : Nat) : Nat := (j.core lc).mem.rdLe (o.addr + row * o.stride + 4 * i) 4

/-- Byte writes of one statistics element. -/
def statWrite (o : Opnd) (row i v : Nat) : List BWrite := bwrites (o.addr + row * o.stride + 4 * i) (leBytes 4 v)

/-- p is rounded to E4M3 in the 8-bit class and to BF16 in the 16-bit class (R185). -/
def roundP (cl : Nat) (v : Fv) : Fv :=
  if cl = 8 then binE4m3.decode 8 (binE4m3.encode 8 true .even v) else binBf16.decode 16 (binBf16.encode 16 false .even v)

/-- Rounded to BF16. -/
def roundBf16 (v : Fv) : Fv := roundP 16 v

/-- A row's running state in ATTN_FWD. -/
structure FwdRow where
  m : Fv
  l : Fv
  o : List Fv
  /-- The rounded p of every key, and the row's tile-local product with the values (R188). -/
  p : List Fv := []
  pv : List Fv := []
  /-- Σ exp(s − m) over the row's allowed keys (R192). -/
  score : Fv := .zero

/-- One row of ATTN_FWD before FINAL (R185): `qs` the query, `ks` and `vs` the buffers' rows with whether each is
allowed. DEDUCED, log entry 65. -/
def fwdRow (cl : Nat) (scale : Fv) (kexp vexp : Int) (qs : List Fv) (ks vs : List (List Fv)) (ok : List Bool) (r : FwdRow) :
    FwdRow :=
  if ok.any id = false then { r with p := ok.map fun _ => Fv.zero, pv := r.o.map fun _ => Fv.zero }
  else
    let sc := (ks.zip ok).map fun x => if x.2 then fmul scale ((dot77 qs x.1 0).scale kexp).r32 else Fv.negInf
    let live := (sc.zip ok).filter (·.2)
    let m := (live.map (·.1)).foldl Fv.maxOf r.m
    let alpha := if r.m = .negInf then Fv.zero else SfuFn.exp.eval (fsub r.m m)
    let ex := (sc.zip ok).map fun x => if x.2 then SfuFn.exp.eval (fsub x.1 m) else Fv.zero
    let ps := (ex.zip ok).map fun x => if x.2 then roundP cl x.1 else Fv.zero
    let sum := ((ps.zip ok).filter (·.2)).foldl (fun t x => fadd t x.1) .zero
    let sco := ((ex.zip ok).filter (·.2)).foldl (fun t x => fadd t x.1) .zero
    let pv := (List.range r.o.length).map fun c => ((dot77 ps (column (maskRows vs ok) c) 0).scale vexp).r32
    { m := m, l := fadd (fmul alpha r.l) sum, score := sco, p := ps, pv := pv,
      o := (r.o.zip pv).map fun x => fadd (fmul alpha x.1) x.2 }

/-- The two products of ATTN_FWD pass their checksums: scores over the present keys, and values over the rounded p (R188). -/
def fwdCk (tol : Nat) (qs ks vs : List (List Fv)) (here : List Bool) (kexp vexp : Int) (rows : List FwdRow) : Bool :=
  let kz := maskRows ks here
  let vz := maskRows vs here
  let n := (vs.map List.length).foldl Nat.max 0
  ckProduct tol qs kz kexp (qs.map fun q => kz.map fun k => ((dot77 q k 0).scale kexp).r32) &&
    ckProduct tol (rows.map (·.p)) ((List.range n).map (column vz)) vexp (rows.map (·.pv))

/-- ATTN_FWD's effect (R185, R188, R192). -/
def attnFwdRun (p lc : Nat) (w : TDesc) (a : AttnPar) (g : SeqGeom) (cl : Nat) (root : Option Nat) (s0 : State) : State × Nat :=
  let leaf := (s0.pt p).live.leafOf root g a
  let sk := s0.streamKv p lc g a w leaf
  let s := sk.1
  let j := (s.pt p).live
  let init := w.func % 2 == 1
  let final := w.func / 2 % 2 == 1
  onOpnd (w.opnd lc 0) s fun q => onOpnd (w.opnd lc 1) s fun o => onOpnd (w.opnd lc 2) s fun st =>
    if sk.2 then (s, Code.uncorrectable)
    else if init = false ∧ (List.range (w.val 0)).any fun i => statWord j lc st 3 i / 2 % 2 == 1 then (s, Code.statsState)
    else
      let e := leaf.getD 0
      let kexp : Int := (bits e 63 56 : Nat) - 127
      let vexp : Int := (bits e 55 48 : Nat) - 127
      let ks := (List.range (w.val 1)).map fun k => kvRow j lc g a.kbuf k
      let vs := (List.range (w.val 1)).map fun k => kvRow j lc g a.vbuf k
      let rows := (List.range (w.val 0)).map fun i =>
        let ok := (List.range (w.val 1)).map fun k => allowed j a leaf w i k
        let r0 : FwdRow := if init then { m := .negInf, l := .zero, o := List.replicate (w.val 2) Fv.zero }
          else { m := ofW32 (statWord j lc st 0 i), l := ofW32 (statWord j lc st 1 i), o := o.row j i (w.val 2) }
        fwdRow cl (ofW32 a.scale) kexp vexp (q.row j i (w.val 2)) ks vs ok r0
      let qs := (List.range (w.val 0)).map fun i => q.row j i (w.val 2)
      let here := (List.range (w.val 1)).map (keyPresent leaf a)
      if w.ck ∧ fwdCk w.tol qs ks vs here kexp vexp rows = false then (s, Code.checksumMismatch)
      else
      let outs := rows.map fun r =>
        let empty := r.m == .negInf
        if final then
          (r, if empty then List.replicate (w.val 2) Fv.zero else r.o.map fun x => fdiv x r.l,
           some (if empty then Fv.negInf else fadd r.m (SfuFn.ln.eval r.l)))
        else (r, r.o, none)
      let stat := (outs.zip (List.range (w.val 0))).flatMap fun x =>
        statWrite st 0 x.2 x.1.1.m.toW32 ++ statWrite st 1 x.2 x.1.1.l.toW32 ++
        (match x.1.2.2 with | some v => statWrite st 2 x.2 v.toW32 | none => []) ++
        statWrite st 3 x.2 ((if x.1.1.m = .negInf then 1 else 0) + if final then 2 else 0)
      let r1 := s.writeAcc p lc w o (outs.map fun x => x.2.1)
      let r2 := r1.1.storeIn p 1 lc stat
      let code := if r1.2 ≠ Code.done then r1.2 else storeStatus r2
      if w.func / 4 % 2 = 1 then
        let va := saccAddr g a
        let total := rows.foldl (fun t r => fadd t r.score) Fv.zero
        let s2 := r2.1.upJob p fun j => { j with accs := if j.accs.contains va then j.accs else va :: j.accs }
        let x := s2.memAdd p va .fp32 (1#32 <<< (va / 4 % 16)) (List.replicate (va % 64) 0#8 ++ leBytes 4 total.toW32)
        (x.1, if code = Code.done ∧ x.2 = .guarded then Code.ptWriteViolation else code)
      else (r2.1, code)

/-- ATTN_BWD's effect. Only pairs that are allowed, in rows that are not empty, enter a product (R186, R190, R191). -/
def attnBwdRun (p lc : Nat) (w : TDesc) (a : AttnPar) (g : SeqGeom) (root : Option Nat) (s0 : State) : State × Nat :=
  let leaf := (s0.pt p).live.leafOf root g a
  let sk := s0.streamKv p lc g a w leaf
  let s := sk.1
  let j := (s.pt p).live
  onOpnd (w.opnd lc 0) s fun q => onOpnd (w.opnd lc 1) s fun d => onOpnd (w.opnd lc 2) s fun st =>
    if sk.2 then (s, Code.uncorrectable)
    else if (List.range (w.val 0)).any fun i => statWord j lc st 3 i / 2 % 2 == 0 then (s, Code.statsState)
    else
      let e := leaf.getD 0
      let kexp : Int := (bits e 63 56 : Nat) - 127
      let vexp : Int := (bits e 55 48 : Nat) - 127
      let scale := ofW32 a.scale
      let n := w.val 2
      let ks := (List.range (w.val 1)).map fun k => kvRow j lc g a.kbuf k
      let vs := (List.range (w.val 1)).map fun k => kvRow j lc g a.vbuf k
      let qs := (List.range (w.val 0)).map fun i => q.row j i n
      let ds := (List.range (w.val 0)).map fun i => d.row j i n
      let here := (List.range (w.val 1)).map (keyPresent leaf a)
      let kz := maskRows ks here
      let vz := maskRows vs here
      let ok := (List.range (w.val 0)).map fun i => (List.range (w.val 1)).map fun k =>
        statWord j lc st 3 i % 2 == 0 && allowed j a leaf w i k
      let sc := qs.map fun q => kz.map fun k => dot77 q k kexp
      let dp := ds.map fun d => vz.map fun v => dot77 d v vexp
      -- p and ds of every pair, zero where the pair does not count
      let pairs := (List.range (w.val 0)).map fun i => (List.range (w.val 1)).map fun k =>
        if (ok.getD i []).getD k false = false then (Fv.zero, Fv.zero)
        else
          let pr := roundBf16 (SfuFn.exp.eval (fsub (fmul scale ((sc.getD i []).getD k .zero)) (ofW32 (statWord j lc st 2 i))))
          (pr, roundBf16 (fmul pr (fsub ((dp.getD i []).getD k .zero) (ofW32 (statWord j lc st 4 i)))))
      let okCol := fun (k : Nat) => ok.map fun r => r.getD k false
      let pitch := up64 (w.dim 2 * 4)
      let f32 : Fmt := ⟨0x01, 32, .flt binFp32⟩
      let buf := fun (base : Nat) => ({ fmt := f32, space := 1, core := lc, addr := base, stride := pitch } : Opnd)
      let old := fun (zero : Bool) (base r : Nat) => if zero then List.replicate n Fv.zero else (buf base).row j r n
      let add := fun (zero : Bool) (base r : Nat) (f : Nat → Fv) =>
        ((old zero base r).zip (List.range n)).map fun x => fadd x.1 (f x.2)
      let colP := fun (k : Nat) => pairs.map fun r => r.getD k (Fv.zero, Fv.zero)
      let cols := List.range n
      let pq := (List.range (w.val 0)).map fun i => cols.map fun c =>
        dot77 ((pairs.getD i []).map (·.2)) (column (maskRows ks (ok.getD i [])) c) kexp
      let pk := (List.range (w.val 1)).map fun k => cols.map fun c => dot77 ((colP k).map (·.2)) (column (maskRows qs (okCol k)) c) 0
      let pv := (List.range (w.val 1)).map fun k => cols.map fun c => dot77 ((colP k).map (·.1)) (column (maskRows ds (okCol k)) c) 0
      let at2 := fun (m : List (List Fv)) (r c : Nat) => (m.getD r []).getD c .zero
      let dq := (List.range (w.val 0)).map fun i => add (w.func % 2 == 1) a.dq i fun c => fmul scale (at2 pq i c)
      let dk := (List.range (w.val 1)).map fun k => add (w.func / 2 % 2 == 1) a.dk k fun c => fmul scale (at2 pk k c)
      let dv := (List.range (w.val 1)).map fun k => add (w.func / 2 % 2 == 1) a.dv k fun c => at2 pv k c
      let byKey := fun (f : Fv × Fv → Fv) => (List.range (w.val 1)).map fun k => (colP k).map f
      if w.ck ∧ (ckProduct w.tol qs kz kexp sc && ckProduct w.tol ds vz vexp dp &&
          ckProduct w.tol (pairs.map fun r => r.map (·.2)) (cols.map (column kz)) kexp pq &&
          ckProduct w.tol (byKey (·.2)) (cols.map (column qs)) 0 pk &&
          ckProduct w.tol (byKey (·.1)) (cols.map (column ds)) 0 pv) = false then (s, Code.checksumMismatch)
      else
      let r1 := s.writeAcc p lc w (buf a.dq) dq
      let r2 := r1.1.writeAcc p lc w (buf a.dk) dk
      let r3 := r2.1.writeAcc p lc w (buf a.dv) dv
      (r3.1, if r1.2 ≠ Code.done then r1.2 else if r2.2 ≠ Code.done then r2.2 else r3.2)

/-! ### The rows -/

/-- A statistics block in a slot: FP32 or BYTES is accepted for it (DEDUCED, log entry 34). -/
def statUse (w : TDesc) (slot : Nat) (wr : Bool) (vr : Nat) : Use :=
  let k := if w.fmt slot = 0 then 4 else 1
  { slot := slot, fmts := [0x00, 0x01], wr := wr, rows := 5, cols := k * w.dim 0, vr := vr, vc := k * w.val 0 }

/-- Is the stride of a statistics block wide enough (R184)? -/
def statStride (w : TDesc) (lc slot : Nat) : Bool :=
  match w.opnd lc slot with
  | some o => decide (4 * w.dim 0 ≤ o.stride)
  | none => true

/-- Queries, keys and head dimension within R129, with q·k·d at most `top` in the 8-bit class and half of it in the 16-bit
class. -/
def TDesc.attnLimits (w : TDesc) (cl top : Nat) : Bool :=
  decide (1 ≤ w.dim 0) && decide (w.dim 0 ≤ 128) && decide (1 ≤ w.dim 1) && decide (w.dim 1 ≤ 256) &&
    decide (1 ≤ w.dim 2) && decide (w.dim 2 ≤ 256) && decide (w.dim 0 * w.dim 1 * w.dim 2 * (cl / 8) ≤ top)

/-- Formats of Q and dO. -/
def fmtQ : List Nat := [0x02, 0x03, 0x04, 0x05]

/-- Do words 4 or 5 of sequence `n` read uncorrectable in the scratchpad? -/
def State.geomBad (s : State) (p n : Nat) : Bool :=
  decide (n < (s.pt p).info.seqEntries) && !(rangeBad 8 (s.pt p).live.slmBad [((s.pt p).seqOff n + 32, 16)]).isEmpty

/-- The width class of an attention instruction, in bits: the widest of the keys and values, the queries and, for ATTN_BWD, the output
gradients (R129). A parameter block, or words 4 and 5, that read uncorrectable say nothing of it (R86). -/
def State.attnClass (s : State) (p lc : Nat) (w : TDesc) (bwd : Bool) : Nat :=
  let a := s.attnPar p lc w bwd
  let q := s.pt p
  let bad := s.blockBad p lc w 64 || s.geomBad p a.seq
  let kvb := if a.seq < q.info.seqEntries ∧ bad = false then 8 * (s.geom p lc a.seq).e else 8
  let fb := fun (i : Nat) => ((fmtOf (w.fmt i)).map Fmt.bits).getD 8
  Nat.max kvb (Nat.max (fb 0) (if bwd then fb 1 else 8))

/-- ATTN_FWD and ATTN_BWD (R177 to R183, R188, R192). A correct product passes its checksum (R148); the failing attempts
are the row's operand. Nothing is judged by a parameter block or by words 4 and 5 that read uncorrectable (R86, R143). -/
def attnSpec (bwd : Bool) (p lc : Nat) (s : State) (w : TDesc) : TileSpec :=
  let a := s.attnPar p lc w bwd
  let q := s.pt p
  let cl := s.attnClass p lc w bwd
  let q0 : Use := { slot := 0, fmts := fmtQ, rows := w.dim 0, cols := w.dim 2, vr := w.val 0, vc := w.val 2 }
  let o1 : Use := if bwd then { q0 with slot := 1 } else { q0 with slot := 1, fmts := fmtF32, wr := true }
  let pb : Use := { slot := 3, fmts := fmtBytes, rows := 1, cols := 64, vr := 1, vc := 64 }
  let uses := [q0, o1, statUse w 2 (!bwd) (if bwd then 0 else 4), pb]
  let stats := match w.opnd lc 2 with
    | some o => if bwd then (List.range 3).map fun r => (o.addr + (r + 2) * o.stride, 4 * w.val 0) else []
    | none => []
  let g := s.geom p lc a.seq
  let bad := s.blockBad p lc w 64 || s.geomBad p a.seq
  let okSeq := decide (a.seq < q.info.seqEntries) && g.ok && !bad
  let kvr := if okSeq then (kvBufs g a w).flatten else []
  let grads := if bwd && okSeq then gradBufs a w else []
  let kept := (if w.func % 2 = 1 then [] else grads.headD []) ++ (if w.func / 2 % 2 = 1 then [] else (grads.drop 1).flatten)
  { uses := uses
    operands := statStride w lc 2 && s.inSpace p 1 stats && (match w.opnd lc 3 with
      | some o => o.stride == 0
      | none => true) && (!bwd || w.rnd == 0)
    limits := w.attnLimits cl (if bwd then 2 ^ 18 else 2 ^ 20)
    reads := stats ++ kept
    writes := kvr ++ grads.flatten
    walk := if s.blockBad p lc w 64 then none else some a.seq
    opened := if bad then fun _ _ => Code.done else attnCheck p lc w a g bwd uses stats
    pagesR := fun s root =>
      if bad then [] else
        let ns := pagesOf (attnReads (s.pt p).live root g a w)
        ns ++ ((s.pt p).live.kvPage root g a).filter fun n => !ns.contains n
    pagesW := fun _ _ => if bad = false ∧ bwd = false ∧ w.func / 4 % 2 = 1 then [pageOf (saccAddr g a)] else []
    bad := fun s root =>
      (if s.geomBad p a.seq then s.badIn p 2 0 [((s.pt p).seqOff a.seq + 32, 16)] else []) ++
        if bad then [] else s.badIn p 3 0 (attnReads (s.pt p).live root g a w)
    stream := fun root s => ((s.walked p root g a w).streamKv p lc g a w ((s.pt p).live.leafOf root g a)).1
    run := fun _ _ root s =>
      plain (if bwd then attnBwdRun p lc w a g root (s.walked p root g a w) else attnFwdRun p lc w a g cl root (s.walked p root g a w)) }

/-- ATTN_FWD (R178, R185). -/
def execAttnFwd (p lc ck : Nat) (s : State) : Res := s.live fun s => s.tileRow p lc .attnFwd ck (attnSpec false p lc)

/-- ATTN_BWD (R190, R191). -/
def execAttnBwd (p lc ck : Nat) (s : State) : Res := s.live fun s => s.tileRow p lc .attnBwd ck (attnSpec true p lc)

/-- A merged row: LSE and O of a (R189); none leaves the row as it is. -/
def mergeRow (la lb : Fv) (oa ob : List Fv) : Option (Fv × List Fv) :=
  if lb = .negInf then none
  else if la = .negInf then some (lb, ob)
  else
    let mx := la.maxOf lb
    let lse := fadd mx (SfuFn.ln.eval (fadd (SfuFn.exp.eval (fsub la mx)) (SfuFn.exp.eval (fsub lb mx))))
    let wa := SfuFn.exp.eval (fsub la lse)
    let wb := SfuFn.exp.eval (fsub lb lse)
    some (lse, (oa.zip ob).map fun x => fadd (fmul wa x.1) (fmul wb x.2))

/-- ATTN_MERGE's effect (R189). -/
def attnMergeRun (p lc : Nat) (w : TDesc) (s : State) : State × Nat :=
  let j := (s.pt p).live
  onOpnd (w.opnd lc 0) s fun ob => onOpnd (w.opnd lc 1) s fun sb =>
  onOpnd (w.opnd lc 2) s fun oa => onOpnd (w.opnd lc 3) s fun sa =>
    let rows := List.range (w.val 0)
    if rows.any fun i => statWord j lc sb 3 i / 2 % 2 == 0 || statWord j lc sa 3 i / 2 % 2 == 0 then (s, Code.statsState)
    else
      rows.foldl (fun (t : State × Nat) i =>
        match mergeRow (ofW32 (statWord j lc sa 2 i)) (ofW32 (statWord j lc sb 2 i)) (oa.row j i (w.val 2))
            (ob.row j i (w.val 2)) with
        | none => t
        | some (lse, o) =>
          let r1 := t.1.writeAcc p lc w { oa with addr := oa.addr + i * oa.stride } [o]
          let r2 := r1.1.storeIn p 1 lc (statWrite sa 0 i lse.toW32 ++ statWrite sa 1 i 0x3f800000 ++
            statWrite sa 2 i lse.toW32 ++ statWrite sa 3 i 2)
          (r2.1, if t.2 ≠ Code.done then t.2 else if r1.2 ≠ Code.done then r1.2 else storeStatus r2)) (s, Code.done)

/-- ATTN_MERGE (R189). -/
def attnMergeSpec (p lc : Nat) (_s : State) (w : TDesc) : TileSpec :=
  let o : Use := { slot := 0, fmts := [0x01, 0x02], rows := w.dim 0, cols := w.dim 2, vr := w.val 0, vc := w.val 2 }
  { uses := [o, statUse w 1 false 4, { o with slot := 2, fmts := fmtF32, wr := true }, statUse w 3 true 4]
    zeroDims := [1]
    operands := statStride w lc 1 && statStride w lc 3
    limits := decide (1 ≤ w.dim 0) && decide (w.dim 0 ≤ 128) && decide (1 ≤ w.dim 2) && decide (w.dim 2 ≤ 256)
    run := fun _ _ _ s => plain (attnMergeRun p lc w s) }

/-- ATTN_MERGE (R189). -/
def execAttnMerge (p lc : Nat) (s : State) : Res := s.live fun s => s.tileRow p lc .attnMerge 0 (attnMergeSpec p lc)

end Sys2Proof.Machine
end

