-- ==== Sys2Proof/Machine/Codec.lean ====
section
/-! DEFINITION. Video coding engines: sessions, the CODEC descriptors, pictures, rate control, regions of interest,
damage and engine faults (R462 to R490). What the standards of R462 make of a stream is the engine's answer, given with
CODEC_PICTURE_DONE. -/

namespace Sys2Proof.Machine

/-- R489. -/
def Code.codecParam : Nat := 0x0501
/-- R489. -/
def Code.codecUnsupported : Nat := 0x0502
/-- R489. -/
def Code.sessionState : Nat := 0x0503
/-- R489. -/
def Code.noFreeSlot : Nat := 0x0504

/-! ### The session block (R470) -/

/-- CODEC: 1 for AV1. -/
def CdcSes.av1 (c : CdcSes) : Bool := c.fld 0 1 == 1
/-- MODE: 1 for decode. -/
def CdcSes.dec (c : CdcSes) : Bool := c.fld 1 1 == 1
/-- PAIR. -/
def CdcSes.pair (c : CdcSes) : Bool := bits (c.fld 3 1) 0 0 == 1
/-- TEN_BIT. -/
def CdcSes.tenBit (c : CdcSes) : Bool := bits (c.fld 3 1) 1 1 == 1
/-- WIDTH. -/
def CdcSes.width (c : CdcSes) : Nat := c.fld 4 2
/-- HEIGHT. -/
def CdcSes.height (c : CdcSes) : Nat := c.fld 6 2
/-- POOL. -/
def CdcSes.pool (c : CdcSes) : Nat := c.fld 8 8
/-- PITCH. -/
def CdcSes.pitch (c : CdcSes) : Nat := c.fld 0x10 4
/-- SLOT_SIZE. -/
def CdcSes.slotSize (c : CdcSes) : Nat := c.fld 0x14 4
/-- SLOTS. -/
def CdcSes.slots (c : CdcSes) : Nat := c.fld 0x18 1
/-- RC_MODE. -/
def CdcSes.rc (c : CdcSes) : Nat := c.fld 0x19 1
/-- A QP field: signed for HEVC, unsigned for AV1. -/
def CdcSes.qp (c : CdcSes) (o : Nat) : Int := if c.av1 then (c.fld o 1 : Int) else toSigned 8 (c.fld o 1)
/-- B_FRAMES. -/
def CdcSes.bFrames (c : CdcSes) : Nat := c.fld 0x1F 1
/-- BITRATE. -/
def CdcSes.bitrate (c : CdcSes) : Nat := c.fld 0x20 4
/-- MAX_BITRATE. -/
def CdcSes.maxBitrate (c : CdcSes) : Nat := c.fld 0x24 4
/-- BUF_SIZE. -/
def CdcSes.bufSize (c : CdcSes) : Nat := c.fld 0x28 4
/-- INIT_DELAY. -/
def CdcSes.initDelay (c : CdcSes) : Nat := c.fld 0x2C 4
/-- FPS_NUM. -/
def CdcSes.fpsNum (c : CdcSes) : Nat := c.fld 0x30 4
/-- FPS_DEN. -/
def CdcSes.fpsDen (c : CdcSes) : Nat := c.fld 0x34 4
/-- MAX_AU. -/
def CdcSes.maxAu (c : CdcSes) : Nat := c.fld 0x38 4
/-- GOP_LEN. -/
def CdcSes.gop (c : CdcSes) : Nat := c.fld 0x3C 2
/-- REFS. -/
def CdcSes.refsN (c : CdcSes) : Nat := c.fld 0x3E 1
/-- STATE. -/
def CdcSes.stateArea (c : CdcSes) : Nat := c.fld 0x48 8

/-- Bytes of a picture of `h` rows in the layout of R471. -/
def CdcSes.picBytes (c : CdcSes) (h : Nat) : Nat := c.pitch * (h + ceilDiv h 2)

/-- C: 64×64 blocks of a picture of `w` × `h`. -/
def blocksOf (w h : Nat) : Nat := ceilDiv w 64 * ceilDiv h 64

/-- MIN_I. -/
def CdcSes.minI (c : CdcSes) : Nat := 2048 + 16 * blocksOf c.width c.height

/-- The range of a QP field. -/
def CdcSes.qpOk (c : CdcSes) (q : Int) : Bool :=
  if c.av1 then decide (0 ≤ q) && decide (q ≤ 255)
  else decide ((if c.tenBit then (-12 : Int) else 0) ≤ q) && decide (q ≤ 51)

/-- Largest picture of one engine or a pair (R465). -/
def CdcSes.sizeOk (c : CdcSes) : Bool :=
  decide (0 < c.width) && decide (0 < c.height) &&
  (if c.pair then decide (c.width ≤ 8192) && decide (c.height ≤ if c.dec then 4352 else 4320)
   else decide (c.width ≤ 4096) && decide (c.height ≤ 2304))

/-- What R470 and R471 ask of every session block in a partition of `engines` engines. -/
def CdcSes.commonOk (c : CdcSes) (engines : Nat) : Bool :=
  decide (c.fld 0 1 ≤ 1) && decide (c.fld 1 1 ≤ 1) && decide (c.engine < engines) && bits (c.fld 3 1) 7 2 == 0 &&
  (!c.pair || c.engine % 2 == 0) && c.sizeOk && c.pool % 64 == 0 && decide (c.pool < 2 ^ 48) && c.pitch % 64 == 0 &&
  decide (c.width * (if c.tenBit then 2 else 1) ≤ c.pitch) && c.slotSize % 64 == 0 &&
  decide (c.picBytes c.height ≤ c.slotSize) && c.fld 0x3F 1 == 0 && c.fld 0x44 4 == 0 &&
  c.stateArea % 262144 == 0 && decide (c.stateArea < 2 ^ 48) && leNat (c.block.drop 0x50) == 0

/-- Rate-control conditions of R476. -/
def CdcSes.rateOk (c : CdcSes) : Bool :=
  decide (c.minI ≤ c.maxAu * 8) &&
  (c.rc == 0 ||
    (decide (c.minI * c.fpsNum ≤ c.bitrate * c.fpsDen) && decide (2 * c.minI ≤ c.bufSize) &&
     decide (c.minI * 90000 ≤ c.initDelay * c.bitrate) && decide (c.qp 0x1A ≤ c.qp 0x1B) &&
     (c.rc != 2 || decide (c.bitrate ≤ c.maxBitrate)) &&
     (c.rc != 1 || (decide (c.bitrate * c.fpsDen ≤ c.bufSize * c.fpsNum) &&
        decide (c.bitrate * c.fpsDen ≤ c.maxAu * 8 * c.fpsNum)))))

/-- An encode session's own fields (R470). -/
def CdcSes.encOk (c : CdcSes) : Bool :=
  c.width % 8 == 0 && c.height % 8 == 0 && decide (1 ≤ c.refsN) && decide (c.refsN ≤ 4) &&
  decide (c.refsN + 1 ≤ c.slots) && decide (c.slots ≤ 9) && decide (c.rc ≤ 2) && decide (c.bFrames ≤ 7) &&
  [0x1A, 0x1B, 0x1C, 0x1D, 0x1E].all (fun o => c.qpOk (c.qp o)) && (c.rc == 2 || c.maxBitrate == 0) &&
  decide (0 < c.fpsNum) && decide (0 < c.fpsDen) && decide (1 ≤ c.gop) && bits (c.fld 0x40 4) 31 25 == 0 && c.rateOk

/-- A decode session's own fields: those not marked D are 0 (R470). -/
def CdcSes.decOk (c : CdcSes) : Bool :=
  !c.tenBit && decide (1 ≤ c.slots) && decide (c.slots ≤ 24) && leNat ((c.block.drop 0x19).take 0x2B) == 0

/-- Is the session block valid? -/
def CdcSes.blockOk (c : CdcSes) (engines : Nat) : Bool := c.commonOk engines && (if c.dec then c.decOk else c.encOk)

/-! ### Descriptors and areas (R468, R469) -/

/-- Session that the descriptor names. -/
def ADesc.ses (d : ADesc) : Nat := bits (d.w 7) 5 0

/-- Session `n` of partition `p`. -/
def State.cdc (s : State) (p n : Nat) : CdcSes := Tbl.get {} (s.pt p).live.codec n

/-- That session becomes `f` of itself. -/
def State.upCdc (s : State) (p n : Nat) (f : CdcSes → CdcSes) : State :=
  s.upJob p fun j => { j with codec := Tbl.set {} j.codec n (f (Tbl.get {} j.codec n)) }

/-- What engine `e` of the partition works on. -/
def State.run (s : State) (p e : Nat) : Option CdcRun := Tbl.find (s.pt p).live.runs e

/-- That work becomes `r`. -/
def State.setRun (s : State) (p e : Nat) (r : CdcRun) : State :=
  s.upJob p fun j => { j with runs := Tbl.put j.runs e r }

/-- Is engine `e` free: neither it nor its pair works on a picture that takes it (R465, R466)? -/
def State.engineFree (s : State) (p e : Nat) (pair : Bool) : Bool :=
  (s.run p e).isNone && (match s.run p (e - e % 2) with
    | some r => e % 2 == 0 || !(s.cdc p r.ses).pair
    | none => true) && (!pair || (s.run p (e + 1)).isNone)

/-- Engine `e`'s own record becomes `f` of itself. -/
def State.upEng (s : State) (p e : Nat) (f : CdcEng → CdcEng) : State :=
  { s with engines := Tbl.set {} s.engines (s.ceOf p e) (f (s.eng p e)) }

/-- The engine under which the work of engine `e` stands: a pair's work stands under its even engine (R466). -/
def State.leadOf (s : State) (p e : Nat) : Nat :=
  if (s.run p e).isNone ∧ (s.run p (e - e % 2)).any (fun r => (s.cdc p r.ses).pair) then e - e % 2 else e

/-- CDC_CEn_STATUS of engine `e` of partition `p`; between pictures SESSION is that of the last one. DESIGN CHOICE, log entry 196. -/
def State.ceStatus (s : State) (p e : Nat) : Nat :=
  if s.present p = false ∨ 2 * s.k ≤ e then 0
  else
    let g := s.eng p e
    let w := s.run p (s.leadOf p e)
    let st := if g.failed then 5 else if g.resetAt = some s.mgmt.beat then 4
      else match w with
        | some r => if r.stopped then 3 else 2
        | none => 1
    let ses := match w with
      | some r => r.ses
      | none => g.ses
    Nat.min g.pictures (2 ^ 32 - 1) * 2 ^ 32 + Nat.min g.resets 255 * 2 ^ 24 + ses % 64 * 2 ^ 16 + st

/-- CDC_SESs_STATUS of session `n` of partition `p`. -/
def State.sesStatus (s : State) (p n : Nat) : Nat :=
  let c := s.cdc p n
  if c.state = 0 then 0
  else Nat.min c.pictures (2 ^ 32 - 1) * 2 ^ 32 + Nat.min c.damaged 65535 * 2 ^ 16 + c.engine % 8 * 256 +
    (if c.dec then 8 else 0) + (if c.av1 then 4 else 0) + c.state

/-- A CODEC descriptor completes; a re-executed one has REPLAYED in place of DONE (R340). -/
def State.cdcFinish (s : State) (p : Nat) (d : ADesc) (code result detail : Nat) : State :=
  (s.finish p d (if code = Code.done ∧ d.mode ≠ 0 then Code.replayed else code) 0 result detail).stopWaiting p (unitOfRing d.sq)

/-- The order of R469 over areas read and written: each lies in a DATA region, none that is written is capped, every page
is backed. -/
def State.areaCheck (s : State) (p : Nat) (rd wr : List (Nat × Nat)) : Nat :=
  let q := s.pt p
  let ns := pagesOf rd ++ pagesOf wr
  if q.inRange (rd ++ wr) = false ∨ ns.any (fun n => q.kind n != 1) then Code.invalidOperand
  else if (pagesOf wr).any (fun n => (q.live.page n).capped) then Code.readOnlyPage
  else if ns.any (fun n => (q.live.page n).state == 0) then Code.unbackedPage
  else Code.done

/-- A CODEC row: the ring's next descriptor, of this FUNC, meets its job's state; one that has started goes to `again`
(R342, R468). CODEC work waits while the SLM split is re-formed (R278). -/
def State.codecRow (s : State) (p n func : Nat) (again k : ADesc → State → State) : State :=
  if (s.pt p).splitNew.isSome then s
  else match (s.pt p).ringHead n with
    | none => s
    | some d =>
      if d.start.isSome ∧ d.opcode = 0x30 ∧ d.func = func then
        if (s.pt p).job = .running ∧ (s.pt p).paused = none ∧ s.startsOpen p then again d s else s
      else s.startRow p n 0x30 (fun d => d.func == func) fun d s =>
        match (s.pt p).job with
        | .running => if (s.pt p).paused.isSome then s else k d s
        | .noJob => (s.started p d).finish p d Code.aborted 4 0 0
        | _ => s

/-- A descriptor that fails a check does nothing. -/
def State.cdcRefuse (s : State) (p : Nat) (d : ADesc) (code : Nat) : State := (s.started p d).cdcFinish p d code 0 0

/-- Pages are pinned as a MOVE would pin them, or asked for; `k` runs once they are (R472). -/
def State.whenPinned (s : State) (p : Nat) (d : ADesc) (rd wr : List (Nat × Nat)) (k : List Nat → List Nat → State → State) : State :=
  let w := pagesOf wr
  let r := (pagesOf rd).filter fun n => !w.contains n
  match s.residAll p r w with
  | .refuse c => s.cdcRefuse p d c
  | .wait => s.askPages p (unitOfRing d.sq) r w
  | .pin =>
    if s.unitMay p (unitOfRing d.sq) (r ++ w) = false then s.unitWait p (unitOfRing d.sq)
    else k r w (s.pinUnits p (unitOfRing d.sq) r w)

/-- The pins of a picture are released. -/
def State.unpinRun (s : State) (p : Nat) (r : CdcRun) : State :=
  if r.start.isNone then s
  else r.wr.foldl (fun s n => s.unpinUnit p n true) (r.rd.foldl (fun s n => s.unpinUnit p n false) s)

/-- A picture starts on its session's engine. -/
def State.startRun (s : State) (p : Nat) (d : ADesc) (rd wr : List (Nat × Nat)) (e : Nat) : State :=
  s.whenPinned p d rd wr fun r w s =>
    ((s.started p d).setRun p e { sq := d.sq, seq := d.seq, ses := d.ses, start := some s.mgmt.beat, rd := r, wr := w }).upEng p e
      fun g => { g with ses := d.ses }

/-- A started picture whose pins were released pins its pages again (R487, R488). -/
def State.resumeRun (s : State) (p : Nat) (d : ADesc) : State :=
  let e := (s.cdc p d.ses).engine
  match s.run p e with
  | some r =>
    if r.start.isSome ∨ r.sq ≠ d.sq ∨ r.seq ≠ d.seq then s
    else match s.residAll p r.rd r.wr with
      | .pin =>
        if s.unitMay p (unitOfRing d.sq) (r.rd ++ r.wr) = false then s.unitWait p (unitOfRing d.sq)
        else (s.pinUnits p (unitOfRing d.sq) r.rd r.wr).setRun p e { r with start := some s.mgmt.beat }
      | .wait => s.askPages p (unitOfRing d.sq) r.rd r.wr
      | .refuse c => (s.upJob p fun j => { j with runs := Tbl.del j.runs e }).cdcFinish p d c 0 0
  | none => s

/-! ### OPEN and CLOSE (R467, R469, R470) -/

/-- Areas of a session: its pool and its state area. -/
def CdcSes.areas (c : CdcSes) : List (Nat × Nat) := [(c.pool, c.slots * c.slotSize), (c.stateArea, 262144)]

/-- OPEN (R467, R469, R470, R476, R488). DEDUCED, log entry 72. -/
def openSession (p : Nat) (d : ADesc) (s : State) : State :=
  let sblk := d.w 2
  if d.w 7 ≠ d.ses ∨ bits sblk 63 48 ≠ 0 ∨ sblk % 64 ≠ 0 ∨ [3, 4, 5, 6].any (fun i => d.w i != 0) then
    s.cdcRefuse p d Code.codecParam
  else if (s.cdc p d.ses).state ≠ 0 then s.cdcRefuse p d Code.sessionState
  else if s.areaCheck p [(sblk, 128)] [] ≠ Code.done then s.cdcRefuse p d (s.areaCheck p [(sblk, 128)] [])
  else match s.residAll p (pagesOf [(sblk, 128)]) [] with
    | .refuse c => s.cdcRefuse p d c
    | .wait => s.askPages p (unitOfRing d.sq) (pagesOf [(sblk, 128)]) []
    | .pin =>
      match s.dvBadIn p [(sblk, 128)] with
      | u :: _ => s.meetBad p u
      | [] =>
        let s := s.passUnits p (unitOfRing d.sq) (pagesOf [(sblk, 128)])
        let c : CdcSes := { state := 1, block := s.dvRead p sblk 128 }
        let units := s.fld rMemSlmSplitPtn 0 p 11 8
        if c.blockOk (2 * s.k) = false then s.cdcRefuse p d Code.codecParam
        else if s.areaCheck p [] c.areas ≠ Code.done then s.cdcRefuse p d (s.areaCheck p [] c.areas)
        else if units = 0 ∨ (units = 1 ∧ c.pair) ∨ (s.eng p c.engine).failed ∨ (c.pair ∧ (s.eng p (c.engine + 1)).failed) then
          s.cdcRefuse p d Code.limitExceeded
        else
          let buf := Nat.min (c.initDelay * c.bitrate * c.fpsNum) (c.bufSize * 90000 * c.fpsNum)
          ((s.started p d).upCdc p d.ses fun _ => { c with buf := buf }).cdcFinish p d Code.done 0 0

/-- R469. -/
def execOpenSession (p n : Nat) (s : State) : Res :=
  s.live fun s => s.codecRow p n 1 (fun _ s => s) fun d s => openSession p d s

/-- CLOSE (R469). -/
def closeSession (p : Nat) (d : ADesc) (s : State) : State :=
  if d.w 7 ≠ d.ses ∨ [2, 3, 4, 5, 6].any (fun i => d.w i != 0) then s.cdcRefuse p d Code.codecParam
  else if s.run p (s.cdc p d.ses).engine |>.any (fun r => r.ses == d.ses) then s
  else ((s.started p d).upCdc p d.ses fun _ => {}).cdcFinish p d Code.done 0 0

/-- R469. -/
def execCloseSession (p n : Nat) (s : State) : Res :=
  s.live fun s => s.codecRow p n 4 (fun _ s => s) fun d s => closeSession p d s

/-! ### ENCODE (R473, R480) -/

/-- Is a region entry valid for a picture of `w` × `h` (R480)? -/
def CdcSes.roiOk (c : CdcSes) (e : Nat) : Bool :=
  let o := toSigned 8 (bits e 39 32)
  let lim : Int := if c.av1 then 63 else 12
  bits e 63 40 == 0 && decide (bits e 7 0 ≤ bits e 23 16) && decide (bits e 15 8 ≤ bits e 31 24) &&
  decide (bits e 23 16 < ceilDiv c.width 64) && decide (bits e 31 24 < ceilDiv c.height 64) && decide (-lim ≤ o) && decide (o ≤ lim)

/-- `roi_qp`: the offset of the lowest-numbered entry that contains the block is added to the row's QP and clamped to the
format's range (R480). -/
def CdcSes.roiQp (c : CdcSes) (roi : List Nat) (r x : Nat) (qp : Int) : Int :=
  let off : Int := match roi.find? fun e => decide (bits e 7 0 ≤ x) && decide (x ≤ bits e 23 16) &&
      decide (bits e 15 8 ≤ r) && decide (r ≤ bits e 31 24) with
    | some e => toSigned 8 (bits e 39 32)
    | none => 0
  let lo : Int := if c.av1 then 0 else if c.tenBit then -12 else 0
  let hi : Int := if c.av1 then 255 else 51
  if qp + off < lo then lo else if hi < qp + off then hi else qp + off

/-- Does the picture end its mini-GOP (R473)? It does at KEY, at EOS, when the mini-GOP is full, and before the picture
that the key interval makes a key picture. -/
def CdcSes.ends (c : CdcSes) (key eos : Bool) (since : Nat) : Bool :=
  key || eos || decide (c.bFrames ≤ c.queued.length) || decide (c.gop ≤ since)

/-- Pictures since the last key picture once one more is submitted; the first picture, one with KEY and one at the key
interval are key pictures (R464, R473). DEDUCED, log entry 74. -/
def CdcSes.nextSince (c : CdcSes) (key : Bool) : Nat :=
  if key ∨ c.since = 0 ∨ c.gop ≤ c.since then 1 else c.since + 1

/-- The region entries of an ENCODE: none while their page is fetched. -/
def roiArea (d : ADesc) : List (Nat × Nat) :=
  if bits (d.w 5) 55 48 = 0 then [] else [(bits (d.w 5) 47 0, 8 * bits (d.w 5) 55 48)]

/-- ENCODE submits its picture; one that ends a mini-GOP starts its coding (R473). -/
def encode (p : Nat) (d : ADesc) (s : State) : State :=
  let c := s.cdc p d.ses
  let e := c.engine
  let len := bits (d.w 4) 31 0
  let key := bits (d.w 6) 0 0 == 1
  let eos := bits (d.w 6) 1 1 == 1
  if d.w 7 ≠ d.ses ∨ bits (d.w 2) 63 48 ≠ 0 ∨ bits (d.w 3) 63 48 ≠ 0 ∨ bits (d.w 4) 63 32 ≠ 0 ∨ bits (d.w 5) 63 56 ≠ 0 ∨
      bits (d.w 5) 47 0 % 8 ≠ 0 ∨ 64 < bits (d.w 5) 55 48 ∨ bits (d.w 6) 63 2 ≠ 0 then s.cdcRefuse p d Code.codecParam
  else if c.state ≠ 1 ∨ c.dec then s.cdcRefuse p d Code.sessionState
  else if len < (c.bFrames + 1) * c.maxAu then s.cdcRefuse p d Code.codecParam
  else if s.engineFree p e c.pair = false then s
  else
    let rd := (d.w 2, c.picBytes c.height) :: roiArea d
    let wr := (d.w 3, len) :: c.areas
    if s.areaCheck p rd wr ≠ Code.done then s.cdcRefuse p d (s.areaCheck p rd wr)
    else match s.residAll p (pagesOf (roiArea d)) [] with
      | .refuse x => s.cdcRefuse p d x
      | .wait => s.askPages p (unitOfRing d.sq) (pagesOf (roiArea d)) []
      | .pin => match s.dvBadIn p (roiArea d) with
        | u :: _ => s.meetBad p u
        | [] =>
          let roi := (List.range (bits (d.w 5) 55 48)).map fun i => (s.pt p).live.dv.rdLe (bits (d.w 5) 47 0 + 8 * i) 8
          let since := c.nextSince key
          let pic : CdcPic := { src := d.w 2, roi := roi, key := since == 1 }
          if roi.all c.roiOk = false then s.cdcRefuse p d Code.codecParam
          else if c.ends key eos since = false then
            ((s.started p d).upCdc p d.ses fun c => { c with queued := c.queued ++ [pic], since := since }).cdcFinish p d Code.done 0 0
          else
            let all := c.queued ++ [pic]
            s.whenPinned p d (all.map fun x => (x.src, c.picBytes c.height)) wr fun r w s =>
              (((s.started p d).setRun p e { sq := d.sq, seq := d.seq, ses := d.ses, start := some s.mgmt.beat, rd := r, wr := w }).upEng p e
                fun g => { g with ses := d.ses }).upCdc p d.ses
                  fun c => { c with queued := all, since := if eos then 0 else since }

/-- R473. -/
def execEncode (p n : Nat) (s : State) : Res :=
  s.live fun s => s.codecRow p n 2 (fun d s => s.resumeRun p d) fun d s => encode p d s

/-! ### DECODE (R474, R481, R484) -/

/-- Bytes of the damage map of the session. -/
def CdcSes.dmgLen (c : CdcSes) : Nat := blocksOf c.width c.height

/-- Slots that are free. -/
def CdcSes.freeSlots (c : CdcSes) : List Nat :=
  (List.range c.slots).filter fun i => !c.held.contains i && !c.refs.contains i

/-- DECODE frees the slots that RELEASE names and starts its unit, or ends with NO_FREE_SLOT (R474). -/
def decode (p : Nat) (d : ADesc) (s : State) : State :=
  let c := s.cdc p d.ses
  let len := bits (d.w 3) 31 0
  if d.w 7 ≠ d.ses ∨ bits (d.w 2) 63 48 ≠ 0 ∨ len = 0 ∨ bits (d.w 4) 63 48 ≠ 0 ∨ bits (d.w 5) 63 24 ≠ 0 ∨ d.w 6 ≠ 0 then
    s.cdcRefuse p d Code.codecParam
  else if c.state ≠ 1 ∨ c.dec = false then s.cdcRefuse p d Code.sessionState
  else if s.engineFree p c.engine c.pair = false then s
  else
    let rd := [(d.w 2, len)]
    let wr := (if d.w 4 = 0 then [] else [(d.w 4, c.dmgLen)]) ++ c.areas
    if s.areaCheck p rd wr ≠ Code.done then s.cdcRefuse p d (s.areaCheck p rd wr)
    else
      let kept := c.held.filter fun i => bits (d.w 5) i i == 0
      let s := s.upCdc p d.ses fun c => { c with held := kept }
      if ({ c with held := kept }).freeSlots = [] then s.cdcRefuse p d Code.noFreeSlot
      else s.startRun p d rd wr c.engine

/-- R474. -/
def execDecode (p n : Nat) (s : State) : Res :=
  s.live fun s => s.codecRow p n 3 (fun d s => s.resumeRun p d) fun d s => decode p d s

/-- BUDGET of a DECODE in beats (R481). DEDUCED, log entry 73. -/
def ADesc.budget (d : ADesc) (c : CdcSes) : Nat :=
  if bits (d.w 3) 63 32 = 0 then ceilDiv (c.width * c.height) 2048 else bits (d.w 3) 63 32

/-- Blocks are abandoned with a damage code; a block keeps the first code it takes. DEDUCED, log entry 76. -/
def CdcRun.abandon (r : CdcRun) (code : Nat) (bs : List Nat) : CdcRun :=
  { r with gone := r.gone ++ (bs.filter fun b => r.gone.all fun g => g.1 != b).map fun b => (b, code) }

/-- A row on the DECODE that engine `e` works on. -/
def State.onDecode (s : State) (p e : Nat) (f : ADesc → CdcRun → Option CdcRun) : State :=
  match s.run p e with
  | none => s
  | some r => match (s.pt p).findDesc r.sq r.seq with
    | none => s
    | some d =>
      if d.func ≠ 3 ∨ r.start.isNone ∨ (s.pt p).paused.isSome then s
      else match f d r with
        | some r => s.setRun p e r
        | none => s

/-- BLOCK_ABANDONED: the block and those up to the next slice segment or tile are concealed (R481). -/
def execBlockAbandoned (p engine block : Nat) (rest : List Nat) (s : State) : Res :=
  s.live fun s => s.onDecode p engine fun _ r => some (r.abandon 2 (block :: rest))

/-- PICTURE_BUDGET_EXPIRED: every block not yet decoded is abandoned (R481). -/
def execPictureBudgetExpired (p engine : Nat) (left : List Nat) (s : State) : Res :=
  s.live fun s => s.onDecode p engine fun d r =>
    if r.start.getD 0 + d.budget (s.cdc p d.ses) ≤ s.mgmt.beat then some (r.abandon 3 left) else none

/-! ### Engine faults (R488) -/

/-- The picture ends with UNCORRECTABLE and its session becomes FAILED. -/
def State.failPicture (s : State) (p e : Nat) (r : CdcRun) : State :=
  let s := (s.unpinRun p r).upJob p fun j => { j with runs := Tbl.del j.runs e }
  let s := s.upCdc p r.ses fun c => { c with state := 2 }
  match (s.pt p).findDesc r.sq r.seq with
  | some d => s.cdcFinish p d Code.uncorrectable 0 0
  | none => s

/-- An engine resets; one that fails twice within one epoch becomes FAILED with its sessions. DEDUCED, log entry 77. -/
def State.resetEngine (s : State) (p e : Nat) : State :=
  let twice := (s.eng p e).failEpoch == some s.epoch
  let s := s.upEng p e fun g =>
    { g with resets := g.resets + 1, resetAt := some s.mgmt.beat, failEpoch := some s.epoch, failed := g.failed || twice }
  let s := if twice then s.upJob p fun j => { j with codec := j.codec.map fun x =>
      (x.1, if x.2.state = 1 ∧ (x.2.engine = e ∨ (x.2.pair ∧ x.2.engine + 1 = e)) then { x.2 with state := 2 } else x.2) } else s
  s.raiseP p 0x142 e (s.ceStatus p e)

/-- Sectors that the engine's picture meets as uncorrectable, as it reads and as it writes (R267, R280, R488). -/
def State.runBad (s : State) (p : Nat) (r : CdcRun) : List Nat :=
  ((s.pt p).live.badSectors r.rd).filter (fun u => !s.cached p u) ++ (s.pt p).live.badSectors r.wr

/-- The uncorrectable words of the reference store that the picture under engine `e` uses, both engines' of a pair (R466, R467, R488). -/
def State.storeBad (s : State) (p e : Nat) (r : CdcRun) : List Nat :=
  (s.eng p e).badStore ++ if (s.cdc p r.ses).pair then (s.eng p (e + 1)).badStore else []

/-- Is the trouble there: a picture page with an uncorrectable sector, or a bad word of the reference store? -/
def State.troubled (s : State) (p e : Nat) (r : CdcRun) (t : CodecTrouble) : Bool :=
  match t with
  | .uncorrectableRead => s.runBad p r != []
  | .referenceStore => s.storeBad p e r != []
  | .engineError => true
  | .firmwareCheck => true

/-- Engine `e` meets the bad words of its reference store (R488). -/
def State.meetStore (s : State) (p e : Nat) : State :=
  ((s.eng p e).badStore.foldl (fun (s : State) o => s.raiseM 0x013 (p * s.k + e / 2) (s.slmUnit p + o)) s).upEng p e fun g =>
    { g with badStore := [] }

/-- Is it a fault of the engine itself, which resets it? -/
def ofEngine : CodecTrouble → Bool
  | .uncorrectableRead => false
  | .referenceStore => false
  | .engineError => true
  | .firmwareCheck => true

/-- CODEC_PICTURE_RESTART (R488): an engine that works on nothing, or whose picture waits for its pages, resets all the same. -/
def codecPictureRestart (p e : Nat) (t : CodecTrouble) (s : State) : State :=
  let l := s.leadOf p e
  match s.run p l with
  | none => if ofEngine t ∧ s.present p ∧ e < 2 * s.k then s.resetEngine p e else s
  | some r =>
    if (r.start.isNone ∧ ofEngine t = false) ∨ s.troubled p l r t = false then s
    else
      let s := match t with
        | .uncorrectableRead => (s.runBad p r).foldl (fun (s : State) u => s.meetBad p u) s
        | .referenceStore => if (s.cdc p r.ses).pair then (s.meetStore p l).meetStore p (l + 1) else s.meetStore p l
        | _ => s.resetEngine p e
      if (r.replayed ∧ r.start.isSome) ∨ (s.eng p e).failed then s.failPicture p l r
      else (s.unpinRun p r).setRun p l
        { r with replayed := r.replayed || r.start.isSome, start := none, gone := [], blocks := 0, stopped := false }

/-- R488. -/
def execCodecPictureRestart (p engine : Nat) (t : CodecTrouble) (s : State) : Res := s.live (codecPictureRestart p engine t)

/-! ### Progress and stops (R54, R486) -/

/-- A stopped engine's context goes to its session's state area. -/
def State.stopEngine (s : State) (p e : Nat) : State :=
  match s.run p e with
  | none => s
  | some r =>
    if r.stopped ∨ r.start.isNone then s
    else
      let c := s.cdc p r.ses
      let s := (s.dvWrite p (bwrites c.stateArea ((Config.codecContext s.free).take 262144))).1
      { s.setRun p e { r with stopped := true } with free := s.free + 1 }

/-- An engine's report of a beat: the blocks completed, and that it has stopped for a pre-emption (R54). -/
def State.codecReport (s : State) (i : CodecBeat) : State :=
  match s.run i.p i.engine with
  | none => s
  | some r =>
    if s.present i.p = false ∨ r.start.isNone ∨ r.stopped then s
    else
      let c := s.cdc i.p r.ses
      let s := s.setRun i.p i.engine { r with blocks := Nat.max r.blocks (Nat.min i.blocks (blocksOf c.width c.height)) }
      if i.stopped ∧ (s.pt i.p).paused.isSome then s.stopEngine i.p i.engine else s

/-- Engines stop within 4 beats of the boundary that pre-empts their partition; beat `b` has begun (R54). -/
def State.stopEngines (s : State) (p b : Nat) : State :=
  match (s.pt p).paused with
  | none => s
  | some n => if b < n + 5 then s else (s.pt p).live.runs.foldl (fun s (e : Nat × CdcRun) => s.stopEngine p e.1) s

/-! ### What the engine brings out (R473, R474, R477 to R479, R482 to R487) -/

/-- STEP of R478. -/
def CdcSes.qpStep (c : CdcSes) : Int := if c.av1 then 4 else 1
/-- QP_TOP of R478. -/
def CdcSes.qpTop (c : CdcSes) : Int := if c.av1 then 255 else 51

/-- One row of `code_picture` (R478): bits spent, whether minimum mode has begun, blocks in minimum mode, whether every
block was coded at its QP. -/
def codeRow (c : CdcSes) (roi : List Nat) (b minB total r : Nat) (qp : Int) :
    Nat → List (Int × Nat × Nat) → Nat × Bool × Nat × Bool → Nat × Bool × Nat × Bool
  | _, [], a => a
  | x, (q, staged, least) :: t, (spent, fall, mins, ok) =>
    let after := total - (r * ceilDiv c.width 64 + x + 1)
    let fall' := fall || decide (b < spent + staged + minB * after)
    let ok' := ok && decide (least ≤ minB) && (fall || decide (q = c.roiQp roi r x qp))
    codeRow c roi b minB total r qp (x + 1) t
      (spent + (if fall' then least else staged), fall', mins + (if fall' then 1 else 0), ok')

/-- `code_picture` (R478): bits spent, blocks in minimum mode, whether a row used a QP above QP_MAX, and whether the
picture's blocks are as the code asks. -/
def codeRows (c : CdcSes) (roi : List Nat) (b minB total rows : Nat) (pic : CodedPic) :
    Nat → Nat → Int → Nat × Bool × Nat × Bool → Bool → Nat × Nat × Bool × Bool
  | 0, _, _, a, high => (a.1, a.2.2.1, high, a.2.2.2)
  | n + 1, r, qp, a, high =>
    let cols := ceilDiv c.width 64
    let a' := codeRow c roi b minB total r qp 0 ((pic.blocks.drop (r * cols)).take cols) a
    let target := pic.plan * (r + 1) / rows
    let qp' := if target * 9 / 8 < a'.1 then (if c.qpTop < qp + c.qpStep then c.qpTop else qp + c.qpStep)
      else if a'.1 < target * 7 / 8 ∧ pic.qp0 < qp then qp - c.qpStep else qp
    codeRows c roi b minB total rows pic n (r + 1) qp' a' (high || decide (c.qp 0x1B < qp))

/-- The budget B of the next picture (R477). -/
def CdcSes.budgetBits (c : CdcSes) : Nat :=
  if c.rc = 0 then c.maxAu * 8 else Nat.min (c.maxAu * 8) (c.buf / (90000 * c.fpsNum))

/-- The buffer model that the encoder signals: none under constant QP (R475, R477). -/
def CdcSes.model (c : CdcSes) : Option (Nat × Nat) :=
  if c.rc = 0 then none else some (if c.rc = 2 then c.maxBitrate else c.bitrate, c.bufSize)

/-- A coded picture as the session takes it: blocks in minimum mode, whether it qualifies under R479, and whether it is as
R475, R477, R478 and R480 ask: a key picture's headers signal the buffer model. -/
def CdcSes.judge (c : CdcSes) (pic : CodedPic) : Nat × Bool × Bool :=
  let rows := ceilDiv c.height 64
  let total := blocksOf c.width c.height
  let src := c.queued.getD pic.pic {}
  let r := codeRows c src.roi c.budgetBits (if pic.intra then 16 else 4) total rows pic rows 0 pic.qp0 (pic.header, false, 0, true) false
  let fits := decide (pic.header ≤ 2048) && decide (pic.plan ≤ c.budgetBits) && decide (pic.blocks.length = total) &&
    decide (r.1 ≤ pic.bytes.length * 8) && decide (pic.bytes.length * 8 ≤ c.budgetBits) && (!src.key || pic.intra) &&
    pic.model == (if src.key then c.model else none)
  (r.2.1, r.2.2.1 || decide (0 < r.2.1), fits && r.2.2.2)

/-- The modelled buffer after a picture of `n` bytes is removed and an interval passes (R477). DEDUCED, log entry 78. -/
def CdcSes.drain (c : CdcSes) (n : Nat) : CdcSes :=
  let rate := if c.rc = 2 then c.maxBitrate else c.bitrate
  { c with buf := Nat.min (c.buf - n * 8 * 90000 * c.fpsNum + rate * c.fpsDen * 90000) (c.bufSize * 90000 * c.fpsNum) }

/-- Does the receiver's buffer overflow before the next removal, though filler would still fit the budget (R477)? Never under CBR. -/
def CdcSes.overflows (c : CdcSes) (n : Nat) : Bool :=
  c.rc == 1 && decide (c.bufSize * 90000 * c.fpsNum < c.buf - n * 8 * 90000 * c.fpsNum + c.bitrate * c.fpsDen * 90000) &&
    decide ((n + 1) * 8 ≤ c.budgetBits)

/-- Coded pictures in decoding order: those that R477, R478 and R480 allow, with the session after them, the blocks in
minimum mode of each that qualifies (R479). -/
def CdcSes.takePics (c : CdcSes) : List CodedPic → Option (CdcSes × List Nat)
  | [] => some (c, [])
  | x :: t =>
    let j := c.judge x
    if j.2.2 = false ∨ c.overflows x.bytes.length then none
    else ((c.drain x.bytes.length).takePics t).map fun r => (r.1, if j.2.1 then j.1 :: r.2 else r.2)

/-- Writes inside the areas given; others are suppressed (R482). -/
def clampWrites (areas : List (Nat × Nat)) (ws : List (Nat × Byte)) : List BWrite :=
  (ws.filter fun w => areas.any fun a => decide (a.1 ≤ w.1) && decide (w.1 < a.1 + a.2)).map fun w => (w.1, w.2, true)

/-- The engine has ended its work: pins are released, and it counts its pictures; so does the other one of a pair. -/
def State.endRun (s : State) (p e : Nat) (r : CdcRun) (pics : Nat) : State :=
  let count := fun (g : CdcEng) => { g with pictures := g.pictures + pics, ses := r.ses }
  let t := ((s.unpinRun p r).upJob p fun j => { j with runs := Tbl.del j.runs e }).upEng p e count
  if (s.cdc p r.ses).pair then t.upEng p (e + 1) count else t

/-- Bytes of pictures that the journal holds take the place of the engine's: the references and the rate-control state
are rebuilt from them (R487). -/
def withJournaled (d : ADesc) (o : CodecOut) : List Bytes := match d.coded with
  | some bs => bs
  | none => o.pics.map CodedPic.bytes

/-- The status of a CODEC descriptor: a write into a protected page-table block is dropped, and the descriptor learns of it (R174). -/
def codecCode (w : State × Bool × Bool) (code : Nat) : Nat := if w.2.1 then Code.ptWriteViolation else code

/-- ENCODE ends: the mini-GOP's pictures lie at OUT in decoding order (R473, R479, R487). -/
def encodeDone (p e : Nat) (r : CdcRun) (d : ADesc) (o : CodecOut) (s : State) : State :=
  let c := s.cdc p r.ses
  let old := d.coded.isSome
  let distinct := (List.range c.queued.length).all fun i => (o.pics.filter fun x => x.pic == i).length == 1
  let taken := if old then some ((d.coded.getD []).foldl (fun c b => c.drain b.length) c, []) else c.takePics o.pics
  match taken with
  | none => s
  | some (c', mins) =>
    if old = false ∧ (o.pics.length ≠ c.queued.length ∨ distinct = false) then s
    else
      let bs := withJournaled d o
      let out := bs.flatten
      let w := s.dvWrite p (clampWrites c.areas o.writes ++ bwrites (d.w 3) out)
      let s := mins.foldl (fun s n => s.raiseP p 0x141 r.ses n) w.1
      let s := s.upCdc p r.ses fun _ => { c' with queued := [], pictures := c.pictures + bs.length }
      let s := (s.endRun p e r bs.length).upPt p fun q => q.upDesc d.sq d.seq fun x => { x with coded := some bs }
      let code := if mins = [] then (if r.replayed then Code.replayed else Code.done) else Code.rateAdjusted
      s.cdcFinish p { d with coded := some bs } (codecCode w code) out.length (bs.length % 256)

/-- Limits of R462 on a unit. -/
def withinLimits (o : Config.DecodedUnit) : Bool :=
  o.supported && decide (o.width ≤ 8192) && decide (o.height ≤ 4352) && decide (o.width * o.height ≤ 35651584)

/-- One sample as stored: a 10-bit one in bits 15:6 (R471). -/
def sampleBytes (ten : Bool) (v : Nat) : Bytes := if ten then leBytes 2 (v * 64) else [BitVec.ofNat 8 v]

/-- A run of a plane's row in a concealed block: copied from the co-located place of the picture at `last`, edges extended,
or mid-grey (R482, R483). -/
def concealRow (dv : Memory) (dst : Nat) (last : Option Nat) (ten : Bool) (n : Nat) : List (Nat × Byte) :=
  let len := if ten then 2 * n else n
  let bs := match last with
    | some a => dv.rdN a len
    | none => (List.replicate n (sampleBytes ten (if ten then 512 else 128))).flatten
  (List.range len).zip bs |>.map fun x => (dst + x.1, x.2)

/-- The writes that conceal block `b` of a picture of `w` × `h` at `dst` (R471, R483). DEDUCED, log entry 75. -/
def concealBlock (c : CdcSes) (dv : Memory) (o : Config.DecodedUnit) (dst : Nat) (last : Option Nat) (b : Nat) : List (Nat × Byte) :=
  let cols := ceilDiv o.width 64
  let size := if o.ten then 2 else 1
  let x := b % cols * 64
  let y := b / cols * 64
  let wide := Nat.min 64 (o.width - x)
  let chroma := c.pitch * c.height
  let row := fun (off : Nat) (n : Nat) => concealRow dv (dst + off) (last.map (· + off)) o.ten n
  (List.range (Nat.min 64 (o.height - y))).flatMap (fun i => row ((y + i) * c.pitch + x * size) wide) ++
  (List.range (Nat.min 32 (ceilDiv o.height 2 - y / 2))).flatMap
    (fun i => row (chroma + (y / 2 + i) * c.pitch + x * size) (ceilDiv wide 2 * 2))

/-- The coded unit of a DECODE, as the pieces that decoding recognises (R475). -/
def State.unitOf (s : State) (p : Nat) (d : ADesc) (c : CdcSes) : List Bytes :=
  (Config.unitPieces c.av1 (s.dvRead p (d.w 2) (bits (d.w 3) 31 0))).filter (Config.recognised c.av1)

/-- The session once that unit has been decoded. -/
def CdcSes.fed (c : CdcSes) (unit : List Bytes) : CdcSes := { c with stream := c.stream ++ [unit] }

/-- What decoding finds in the session's last unit (R463). -/
def CdcSes.unit (c : CdcSes) : Config.DecodedUnit := Config.decodeUnit c.av1 c.stream

/-- A sample of an output picture: for AV1 after film grain synthesis (R463). -/
def CdcSes.sample (c : CdcSes) (plane x y : Nat) : Nat :=
  let v := Config.decodedSample c.av1 c.stream plane x y
  if c.av1 then Config.filmGrain c.stream plane x y v else v

/-- The picture of a unit that decodes without damage, as its slot at `dst` holds it (R463, R471). -/
def CdcSes.picture (c : CdcSes) (dst : Nat) : List (Nat × Byte) :=
  let u := c.unit
  let at' := fun (a : Nat) (vs : List Nat) =>
    let bs := vs.flatMap (sampleBytes u.ten)
    ((List.range bs.length).zip bs).map fun x => (a + x.1, x.2)
  (List.range u.height).flatMap (fun y => at' (dst + y * c.pitch) ((List.range u.width).map fun x => c.sample 0 x y)) ++
  (List.range (ceilDiv u.height 2)).flatMap fun y =>
    at' (dst + c.pitch * (c.height + y)) ((List.range (ceilDiv u.width 2)).flatMap fun x => [c.sample 1 x y, c.sample 2 x y])

/-- The slots of pictures given by their numbers; the picture decoded takes slot `i`. -/
def CdcSes.slotsOf (c : CdcSes) (i : Nat) (ns : List Nat) : List Nat :=
  ns.filterMap fun n =>
    if c.unit.coded ∧ n = c.decoded then some i
    else (c.slotPic.find? fun e => e.2 == n && (c.held.contains e.1 || c.refs.contains e.1)).map (·.1)

/-- Are the pictures that the session refers to without a damage code (R484)? -/
def CdcSes.whole (c : CdcSes) : Bool := c.refs.all fun i => (Tbl.get [] c.maps i).all (· == 0)

/-- Damage codes of a picture: abandoned blocks have theirs; another can have 1 or 4 where the unit is not clean, and 5 where a reference has
a code and the picture does not clear it (R463, R481, R484). -/
def CdcSes.codes (c : CdcSes) (r : CdcRun) (damage : Bytes) : List Nat :=
  let u := c.unit
  (List.range (if u.coded then blocksOf u.width u.height else 0)).map fun b => match r.gone.find? fun g => g.1 == b with
    | some g => g.2
    | none =>
      let x := (damage.getD b 0).toNat
      if ((x = 1 ∨ x = 4) ∧ u.clean = false) ∨ (x = 5 ∧ c.whole = false ∧ u.key = false) then x else 0

/-- The blocks that are concealed: those with code 1, 2 or 3 (R484). -/
def concealed (codes : List Nat) : List Nat :=
  (List.range codes.length).filter fun b => let x := codes.getD b 0; decide (1 ≤ x) && decide (x ≤ 3)

/-- What a DECODE writes: a whole picture as decoding gives it, a damaged one as the engine brings it out with its concealed blocks, and the
state area (R463, R482, R483, R486). -/
def State.decodeWrites (s : State) (p : Nat) (c : CdcSes) (r : CdcRun) (o : CodecOut) : List BWrite :=
  let u := c.unit
  let dst := c.pool + o.slot * c.slotSize
  let last := if u.inter then (c.last.bind fun l => if l.2 = u.ten then some (c.pool + l.1 * c.slotSize) else none) else none
  let dv := (s.pt p).live.dv
  let hidden := (concealed (c.codes r o.damage)).flatMap fun b => concealBlock c dv u dst last b
  let slot := if u.coded then [(dst, c.slotSize)] else []
  clampWrites [(c.stateArea, 262144)] o.writes ++
    if (c.codes r o.damage).all (· == 0) then clampWrites slot (if u.coded then c.picture dst else [])
    else clampWrites slot (o.writes ++ hidden)

/-- The session after a picture: the slots it outputs and refers to, the picture and the damage map of each; a picture that clears damage
clears the maps of the others (R474, R484). -/
def CdcSes.took (c : CdcSes) (i : Nat) (codes : List Nat) : CdcSes :=
  let u := c.unit
  let shown := (c.slotsOf i u.shown).take 8
  { c with held := shown.filter (fun x => !c.held.contains x) ++ c.held, refs := c.slotsOf i u.refs, pictures := c.pictures + shown.length,
           last := if u.coded then some (i, u.ten) else c.last,
           slotPic := if u.coded then Tbl.put c.slotPic i c.decoded else c.slotPic,
           decoded := c.decoded + (if u.coded then 1 else 0),
           maps := if u.coded then Tbl.put (if u.key then [] else c.maps) i codes else c.maps }

/-- RESULT of a DECODE: how many slots it outputs, and which (R474). -/
def slotsResult (shown : List Nat) : Nat :=
  (shown.zip (List.range shown.length)).foldl (fun v x => v + x.1 * 2 ^ (5 * x.2 + 4)) shown.length

/-- DECODE ends (R463, R474, R481 to R485). -/
def decodeDone (p e : Nat) (r : CdcRun) (d : ADesc) (o : CodecOut) (s : State) : State :=
  let c := (s.cdc p r.ses).fed (s.unitOf p d (s.cdc p r.ses))
  let u := c.unit
  let good := if r.replayed then Code.replayed else Code.done
  let stop := fun (code : Nat) (s : State) => ((s.upCdc p r.ses fun _ => c).endRun p e r 0).cdcFinish p d code 0 0
  let damaged := fun (n : Nat) (c : CdcSes) (s : State) =>
    (s.raiseP p 0x140 r.ses n).upCdc p r.ses fun _ => { c with damaged := c.damaged + 1 }
  if u.usable = false then ((damaged 0 c s).endRun p e r 0).cdcFinish p d Code.streamDamaged 0 0
  else if withinLimits u = false then stop Code.codecUnsupported s
  else if c.width < u.width ∨ c.height < u.height then stop Code.limitExceeded s
  else if u.coded ∧ c.freeSlots.contains o.slot = false then s
  else
    let codes := c.codes r o.damage
    let dmg := if d.w 4 = 0 then [] else bwrites (d.w 4) (codes.map fun x => BitVec.ofNat 8 x)
    let w := s.dvWrite p (s.decodeWrites p c r o ++ dmg)
    let n := (codes.filter fun x => x != 0).length
    let c' := c.took o.slot codes
    let s := if n = 0 then w.1.upCdc p r.ses fun _ => c' else damaged n c' w.1
    (s.endRun p e r 1).cdcFinish p d (codecCode w (if n = 0 then good else Code.streamDamaged))
      (slotsResult ((c.slotsOf o.slot u.shown).take 8)) 0

/-- CODEC_PICTURE_DONE: the engine finishes, and its ENCODE or DECODE completes; a page that a cut meanwhile holds is copied before it is
written (R258, R473, R474). -/
def codecPictureDone (p e : Nat) (o : CodecOut) (s : State) : State :=
  match s.run p e with
  | none => s
  | some r =>
    let cows := r.wr.filter fun n => (s.page p n).cow
    if r.start.isNone ∨ (s.pt p).paused.isSome ∨ (s.pt p).job ≠ .running ∨ s.runBad p r ≠ [] ∨ s.storeBad p e r ≠ [] then s
    else match (s.pt p).findDesc r.sq r.seq with
      | none => s
      | some d =>
        if s.framesFor p cows = false then s.askPages p (unitOfEngine e) [] cows
        else
          let s := (cows.foldl (fun s n => s.touchPage p n true) s).stopWaiting p (unitOfEngine e)
          if d.func = 2 then encodeDone p e r d o s else decodeDone p e r d o s

/-- R474. -/
def execCodecPictureDone (p engine : Nat) (o : CodecOut) (s : State) : Res := s.live (codecPictureDone p engine o)

end Sys2Proof.Machine
end

