-- ==== Sys2Proof/Machine/Collectives.lean ====
section
/-! DEFINITION. Communication queues, triggered operations, waggles and data collectives (R406 to R426). -/

namespace Sys2Proof.Machine

/-! ### Entries (R408) -/

namespace COp
/-- Word `i`. -/
def w (o : COp) (i : Nat) : Nat := o.words.getD i 0
/-- OP. -/
def op (o : COp) : Nat := bits (o.w 0) 7 0
/-- FUNC. -/
def func (o : COp) : Nat := bits (o.w 0) 23 16
/-- VC. -/
def vc (o : COp) : Nat := bits (o.w 0) 26 24
/-- SRC. -/
def src (o : COp) : Nat := bits (o.w 2) 47 0
/-- DST. -/
def dst (o : COp) : Nat := bits (o.w 3) 47 0
/-- PEER. -/
def peer (o : COp) : Nat := bits (o.w 4) 43 32
/-- COUNT. -/
def count (o : COp) : Nat := bits (o.w 4) 31 0
/-- TIMEOUT. -/
def timeout (o : COp) : Nat := bits (o.w 5) 31 16
/-- LANES. -/
def lanes (o : COp) : Nat := bits (o.w 5) 15 8
/-- DTYPE. -/
def dt (o : COp) : Nat := bits (o.w 5) 2 0
/-- Is it a data collective? -/
def isColl (o : COp) : Bool := decide (0x20 ≤ o.op) && decide (o.op ≤ 0x24)
end COp

/-- DTYPE codes (R376). -/
def dtypeOf : Nat → Option DType
  | 0 => some .fp32 | 1 => some .bf16 | 2 => some .int32 | 3 => some .int64 | 4 => some .fp64 | _ => none

/-- Element bytes of a DTYPE code. -/
def esize (d : Nat) : Nat := ((dtypeOf d).map dtypeBytes).getD 4

/-- Group of queue `q`. -/
def State.cqGroup (s : State) (p q : Nat) : Nat := s.fld rColCqCfg (p + 1) q 53 48

/-- Scratchpad offset of queue `q`'s header. -/
def State.cqOff (s : State) (p q : Nat) : Nat := s.fld rColCqCfg (p + 1) q 31 0

/-- A header word of queue `q`: 0 TAIL, 1 HEAD, 2 DONE, 3 ERRORS (R406). -/
def State.cqWord (s : State) (p q i : Nat) : Nat := (s.pt p).live.slm.rdLe (s.cqOff p q + 8 * i) 8

/-- The module writes a header word. -/
def State.setCqWord (s : State) (p q i v : Nat) : State := (s.slmStore p (bwrites (s.cqOff p q + 8 * i) (leBytes 8 v)) none).1

/-- Reserved bits of an entry (R408). -/
def COp.reserved (o : COp) : Bool :=
  bits (o.w 0) 63 57 != 0 || bits (o.w 0) 47 42 != 0 || bits (o.w 0) 31 27 != 0 || bits (o.w 0) 15 8 != 0 ||
    bits (o.w 2) 63 48 != 0 || bits (o.w 3) 63 48 != 0 || bits (o.w 4) 63 57 != 0 || bits (o.w 4) 47 44 != 0 ||
    bits (o.w 5) 63 40 != 0 || bits (o.w 5) 7 5 != 0 || bits (o.w 5) 3 3 != 0 || bits (o.w 6) 62 32 != 0 || o.w 7 != 0

/-- Does the completion record of an entry lie aligned in the scratchpad (R408, R411)? -/
def State.notifyOk (s : State) (p : Nat) (o : COp) : Bool :=
  bits (o.w 6) 31 0 % 8 == 0 && decide (bits (o.w 6) 31 0 + 8 ≤ s.scratchSize p)

/-- Do the addresses and lengths of an entry lie in their spaces, aligned (R410, R412, R415, R421)? A data collective's
buffers are aligned to their elements (DEDUCED, log entry 40). -/
def State.opSpaces (s : State) (p : Nat) (o : COp) (g : Nat) : Bool :=
  let q := s.pt p
  let es := esize o.dt
  let n := o.count * es
  let al := o.src % es == 0 && o.dst % es == 0
  (bits (o.w 6) 63 63 == 0 || s.notifyOk p o) &&
  (match o.op with
  | 0x01 => q.inRange [(o.src, o.count)] && decide (o.dst + o.count ≤ 2 ^ 48)
  | 0x02 => q.inRange [(o.src, o.count)] && decide (o.dst + o.count ≤ 2 ^ 48) && al && o.count % es == 0
  | 0x10 => o.func == 0 ||
      (decide (1 ≤ o.lanes) && decide (o.lanes ≤ 8) && o.src % 8 == 0 && o.dst % 8 == 0 &&
        decide (o.src + 8 * o.lanes ≤ s.scratchSize p) && decide (o.dst + 8 * o.lanes ≤ s.scratchSize p))
  | 0x03 => true
  | 0x04 => true
  | 0x23 => al && o.count % 32 == 0 && q.inRange [(o.dst, n)] &&
      (o.peer != (s.grpShape p g).rank s.addr || q.inRange [(o.src, n)])
  | _ => al && o.count % (32 * (s.grpShape p g).size) == 0 && q.inRange [(o.dst, n), (o.src, n)])

/-- The check of an entry when it is taken (R409, R410, R421). DEDUCED, log entry 70. -/
def State.opOk (s : State) (p : Nat) (o : COp) : Bool :=
  let g := s.cqGroup p o.q
  let known := ([0x01, 0x02, 0x03, 0x04, 0x10, 0x20, 0x21, 0x22, 0x23, 0x24] : List Nat).contains o.op
  !o.reserved && known && (if o.op = 0x10 then decide (o.func ≤ 6) else o.func == 0 && decide (2 ≤ o.vc)) &&
    decide (o.dt ≤ 4) && !((o.op == 0x02 || o.isColl) && o.dt == 4) && decide (o.peer < (s.grpShape p g).size) &&
    s.opSpaces p o g

/-! ### Completion (R411, R413) -/

/-- Operation (q, n) of the partition, if it is taken and not behind DONE. -/
def Col.find (c : Col) (q n : Nat) : Option COp := c.ops.find? fun o => o.q == q && o.n == n

/-- That operation becomes `f` of itself. -/
def State.upOp (s : State) (p q n : Nat) (f : COp → COp) : State :=
  s.upCol p fun c => { c with ops := c.ops.map fun o => if o.q = q ∧ o.n = n then f o else o }

/-- Trigger counter `i` rises. -/
def State.bumpTrig (s : State) (p i : Nat) (n : W64) : State :=
  s.upCol p fun c => { c with trig := Tbl.upd 0 c.trig i (· + n) }

/-- DONE advances over the completed prefix of queue `q` (R411). -/
def State.advanceDone : Nat → State → Nat → Nat → State
  | 0, s, _, _ => s
  | k + 1, s, p, q =>
    let d := s.cqWord p q 2
    match (s.pt p).col.find q d with
    | some o =>
      if o.done then
        advanceDone k ((s.setCqWord p q 2 (d + 1)).upCol p fun c =>
          { c with ops := c.ops.filter fun x => !(x.q == q && x.n == d) }) p q
      else s
    | none => s

/-- An operation completes with one status: its trigger counter, its record, its post, then DONE and ERRORS (R411, R417,
R419). -/
def State.finishOp (s : State) (p : Nat) (o : COp) (status : Nat) : State :=
  let ok := status == Code.done
  let g := s.cqGroup p o.q
  let s := (o.pins.foldl (fun s n => s.unpinUnit p n false) s).stopWaiting p (unitOfOp o.q o.n)
  let s := if ok ∧ bits (o.w 0) 56 56 = 1 then s.bumpTrig p (bits (o.w 0) 55 48) 1 else s
  let rec8 := status + o.n % 2 ^ 32 * 2 ^ 32
  let s := if bits (o.w 6) 63 63 = 1 ∧ s.notifyOk p o then
      (s.slmStore p (bwrites (bits (o.w 6) 31 0) (leBytes 8 rec8)) none).1
    else s
  let s := if ok ∧ o.op = 0x10 ∧ bits (o.w 5) 36 36 = 1 then
      let b := (s.pt p).live.bar (bits (o.w 5) 39 37)
      ((List.range (1280 * s.k)).filter b.hasCore).foldl (fun s lc =>
        s.post p 32768 lc (bits (o.w 5) 35 32) (BitVec.ofNat 64 status)) s
    else s
  let s := (s.upOp p o.q o.n fun x => { x with done := true, pins := [] }).stopWaiting p (unitOfOp o.q o.n)
  let s := if o.isColl then s.stopWaiting p unitOfArrival else s
  let s := if ok then s
    else
      let s := s.setCqWord p o.q 3 (s.cqWord p o.q 3 + 1)
      let s := if s.fld rColCqStatus (p + 1) o.q 47 32 = 0 then s.setFld rColCqStatus (p + 1) o.q 47 32 status else s
      s.raiseAt (p + 1) 0x131 o.q o.n status s.mgmt.beat
  let s := if status = Code.colParam then s
    else if o.op = 0x10 then s.upGrp p g fun x =>
      { x with wagDone := Nat.max x.wagDone (o.ord + 1), held := x.held.filter fun m => decide (o.ord < m.gen) }
    else if o.isColl then s.upGrp p g fun x =>
      { x with colDone := Nat.max x.colDone (o.ord + 1),
               early := x.early.filter fun m => match m.coll with | some (k, _) => decide (o.ord < k) | none => false }
    else s
  s.advanceDone 256 p o.q

/-! ### Taking entries (R407, R410) -/

/-- Take entries of queue `q` in order: at most 64 in a beat for the partition and 256 pending for the queue; one that
fails its check completes at once. An uncorrectable word of the header stops the taking, and an entry that has one completes so (R281).
DEDUCED, log entry 68. -/
def State.takeEntries : Nat → State → Nat → Nat → State
  | 0, s, _, _ => s
  | k + 1, s, p, q =>
    let c := (s.pt p).col
    let head := s.cqWord p q 1
    if s.fld rColCqCfg (p + 1) q 63 63 = 0 then s
    else if rangeBad 8 (s.pt p).live.slmBad [(s.cqOff p q, 32)] ≠ [] then s.slmMeet p (s.cqOff p q) 32
    else if head = s.cqWord p q 0 ∨ 64 ≤ c.taken ∨
        256 ≤ (c.ops.filter fun o => o.q == q && !o.done).length then s
    else
      let off := s.cqOff p q + 64 + head % 2 ^ (s.fld rColCqCfg (p + 1) q 60 56) * 64
      let bad := rangeBad 8 (s.pt p).live.slmBad [(off, 64)]
      let ws := (List.range 8).map fun i => (s.pt p).live.slm.rdLe (off + 8 * i) 8
      let g := s.cqGroup p q
      let o : COp := { q := q, n := head, words := ws }
      let ok := bad.isEmpty && s.opOk p o
      let x := s.grp p g
      let o := { o with ord := if o.op = 0x10 then x.wagTaken else if o.isColl then x.colTaken else 0 }
      let s := (s.setCqWord p q 1 (head + 1)).upCol p fun c => { c with ops := c.ops ++ [o], taken := c.taken + 1 }
      let s := if bad ≠ [] then (s.slmMeet p off 64).finishOp p o Code.uncorrectable
        else if ok = false then s.finishOp p o Code.colParam
        else s.upGrp p g fun x =>
          { x with wagTaken := if o.op = 0x10 then x.wagTaken + 1 else x.wagTaken,
                   colTaken := if o.isColl then x.colTaken + 1 else x.colTaken }
      takeEntries k s p q

/-- COMM_QUEUE_TAIL_WRITE: the bank detects software's write of TAIL and the link engine takes entries (R407). -/
def execCommQueueTailWrite (p q : Nat) (tail : W64) (s : State) : Res :=
  s.live fun s =>
    if s.present p = false ∨ s.fld rColCqCfg (p + 1) q 63 63 = 0 then s
    else (s.setCqWord p q 0 tail.toNat).takeEntries 64 p q

/-- At a boundary the budget of entries is full again, and queues that have entries left take them (R407). -/
def State.colBoundary (s : State) (p : Nat) : State :=
  (List.range 64).foldl (fun s q => s.takeEntries 64 p q) (s.upCol p fun c => { c with taken := 0 })

/-- RESULT of the queue's last write of EN. -/
def State.cqResult (s : State) (p q st : Nat) : State := s.setFld rColCqStatus (p + 1) q 63 48 st

/-- COL_CQq_CFG is written (R407). -/
def colCqWrite (p q v : Nat) (s : State) : State :=
  if s.present p = false ∨ s.tdiOpen (p + 1) = false then s
  else if s.fld rColCqCfg (p + 1) q 63 63 = 1 then
    if bits v 63 63 = 1 then s.cqResult p q Code.done
    else if s.cqWord p q 2 ≠ s.cqWord p q 1 then s.cqResult p q Code.resourceHeld
    else
      let s := (s.setFld rColCqCfg (p + 1) q 63 63 0).setFld rColCqStatus (p + 1) q 1 0 0
      (s.upCol p fun c => { c with ops := c.ops.filter fun o => o.q != q }).cqResult p q Code.done
  else
    let s := ((s.setFld rColCqCfg (p + 1) q 60 56 (bits v 60 56)).setFld rColCqCfg (p + 1) q 53 48 (bits v 53 48)).setFld
      rColCqCfg (p + 1) q 31 0 v
    let off := bits v 31 0
    let lg := bits v 60 56
    if bits v 63 63 = 0 then s.cqResult p q Code.done
    else if lg < 4 ∨ 12 < lg ∨ off % 64 ≠ 0 ∨ s.scratchSize p < off + 64 + 2 ^ lg * 64 then
      s.cqResult p q Code.invalidOperand
    else if s.grpOn p (bits v 53 48) = false then s.cqResult p q Code.resourceHeld
    else
      let s := s.setFld rColCqCfg (p + 1) q 63 63 1
      let s := ((s.setCqWord p q 1 0).setCqWord p q 2 0).setCqWord p q 3 0
      ((s.setFld rColCqStatus (p + 1) q 47 32 0).setFld rColCqStatus (p + 1) q 1 0 1).cqResult p q Code.done

/-- R407. -/
def execColCqEnWrite (p q : Nat) (v : W64) (s : State) : Res :=
  s.live fun s => colCqWrite p q v.toNat (s.unstage rColCqCfg (p + 1) q)

/-! ### Starting an operation (R410) -/

/-- Is the trigger of an entry met? DESIGN CHOICE, log entry 67. -/
def State.triggered (s : State) (p : Nat) (o : COp) : Bool :=
  let ctr := bits (o.w 0) 39 32
  bits (o.w 0) 40 40 == 0 ||
  (if bits (o.w 0) 41 41 = 0 then !((Tbl.get 0 (s.pt p).col.trig ctr - BitVec.ofNat 64 (o.w 1)).getLsbD 63)
   else !((((s.pt p).live.bar (ctr % 8)).gen - BitVec.ofNat 32 (o.w 1)).getLsbD 31))

/-- Is it the entry's turn in its queue: no entry before it could start now and has not been tried (R410)? DESIGN CHOICE, log entry 67. -/
def State.opTurn (s : State) (p : Nat) (o : COp) : Bool :=
  let q := s.pt p
  let x := s.grp p (s.cqGroup p o.q)
  !((q.col.ops.takeWhile fun y => !(y.q == o.q && y.n == o.n)).any fun y =>
    y.q == o.q && !y.done && y.armed.isNone && y.ready.isNone && s.triggered p y && !(q.began.any fun e => e.1 == unitOfOp y.q y.n) &&
      (if y.op = 0x10 then y.ord == x.wagDone else if y.isColl then y.ord == x.colDone else true))

/-- A row of a triggered operation: entry `n` of queue `q`, when it is of this operation, its trigger is met, it is its turn and its group
is READY, starts by `f`; with its group FAILED it completes, its trigger met or not (R410; DESIGN CHOICE, log entry 67). -/
def State.opRow (s : State) (p q n : Nat) (isOp : COp → Bool) (f : State → COp → State) : State :=
  match (s.pt p).col.find q n with
  | none => s
  | some o =>
    if o.done ∨ o.armed.isSome ∨ o.ready.isSome ∨ isOp o = false then s
    else if s.grpState p (s.cqGroup p q) = 3 then s.finishOp p o Code.groupFailed
    else if s.grpState p (s.cqGroup p q) = 2 ∧ s.triggered p o ∧ s.opTurn p o then f s o
    else s

/-- The address of a rank of the queue's group. -/
def State.peerAddr (s : State) (p : Nat) (o : COp) : Nat := (s.grpShape p (s.cqGroup p o.q)).addrOf o.peer

/-- A packet leaves for a member: through the port of its route, or to this module itself; false when there is no route
(R376, R412). -/
def State.sendPacket (s : State) (p : Nat) (o : COp) (dst ptype addr : Nat) (data : Bytes) (narrow : Bool) (inc : Nat)
    (coll : Option (Nat × Nat × Nat)) : State × Bool :=
  let g := s.cqGroup p o.q
  let peer := s.peerOf p g dst
  let rEn := bits (o.w 4) 56 56
  let rc := bits (o.w 4) 55 48
  let en := if ptype = 4 then 1 else if coll.isSome then 0 else rEn
  if dst = s.addr then
    let m : Packet := { src := BitVec.ofNat 12 dst, sptn := p, ptype := ptype, dptn := p, addr := addr, data := data,
                        dtype := o.dt, narrow := narrow, rctrEn := en == 1, rctr := rc, inc := BitVec.ofNat 64 inc,
                        group := g, coll := coll }
    ({ s with links := { s.links with inbox := s.links.inbox ++ [m] } }.emit (.packet m), true)
  else
    let per := if ptype = 4 then inc else addr + data.length * 2 ^ 48
    let sl := dataSlots 17 data
    s.sendVia p g dst o.vc (fun dl => headerSlot ptype sl.length o.vc dl (if narrow then 1 else 0) dst peer.1 peer.2 s.addr p
      o.dt rc en per) sl

/-- Packets of at most 256 bytes of `data` for address `dst` on (R412). -/
def State.sendBytes : Nat → State → Nat → COp → Nat → Nat → Nat → Bytes → Option (Nat × Nat × Nat) → State × Bool
  | 0, s, _, _, _, _, _, _, _ => (s, true)
  | k + 1, s, p, o, dest, ptype, dst, data, coll =>
    if data = [] then (s, true)
    else
      let r := s.sendPacket p o dest ptype dst (data.take 256) false 0 coll
      if r.2 then sendBytes k r.1 p o dest ptype (dst + 256) (data.drop 256) coll else r

/-- The pages of an operation's buffers: all ready, or what stops it (R412, R231). -/
inductive OpPages where
  | ready (s : State)
  | wait (s : State)
  | stop (s : State) (status : Nat)

/-- The residency check of an operation over pages it reads and writes, with the pins of the other units (R231, R412). -/
def State.opPages (s : State) (p who : Nat) (rd wr : List Nat) (rs : List (Nat × Nat)) : OpPages :=
  if rd.any fun n => (s.pt p).pageBound n then .stop s Code.boundPageEgress
  else match s.residAll p rd wr with
    | .refuse c => .stop s c
    | .wait => .wait (s.askPages p who rd wr)
    | .pin =>
      if s.unitMay p who (rd ++ wr) = false then .wait (s.unitWait p who)
      else match s.dvBadIn p rs with
        | [] => .ready ((wr.foldl (fun s n => s.touchPage p n true) (rd.foldl (fun s n => s.touchPage p n false) s)).stopWaiting p who)
        | bs => .stop (bs.foldl (fun s u => s.meetBad p u) s) Code.uncorrectable

/-- PUT and ADD start: the source is read and its packets leave (R409, R412). -/
def putStart (p ptype : Nat) (s : State) (o : COp) : State :=
  let pages := pagesOf [(o.src, o.count)]
  match s.opPages p (unitOfOp o.q o.n) pages [] [(o.src, o.count)] with
  | .stop s c => s.finishOp p o c
  | .wait s => s
  | .ready s =>
    let s := pages.foldl (fun s n => s.pinUnit p n false) s
    let o' := { o with armed := some s.mgmt.beat, pins := pages }
    let r := (s.upOp p o.q o.n fun _ => o').sendBytes (o.count / 256 + 1) p o' (s.peerAddr p o) ptype o.dst
      (s.dvRead p o.src o.count) none
    if r.2 then r.1 else r.1.finishOp p o' Code.routeLost

/-- PUT (R409). -/
def execPut (p q n : Nat) (s : State) : Res := s.live fun s => s.opRow p q n (fun o => o.op == 0x01) (putStart p 1)

/-- ADD (R409). -/
def execAdd (p q n : Nat) (s : State) : Res := s.live fun s => s.opRow p q n (fun o => o.op == 0x02) (putStart p 2)

/-- CTR_ADD (R409). -/
def execCtrAdd (p q n : Nat) (s : State) : Res :=
  s.live fun s => s.opRow p q n (fun o => o.op == 0x03) fun s o =>
    let o' := { o with armed := some s.mgmt.beat }
    let r := (s.upOp p o.q o.n fun _ => o').sendPacket p o' (s.peerAddr p o) 4 0 [] false o.count none
    if r.2 then r.1 else r.1.finishOp p o' Code.routeLost

/-- NOP completes when triggered (R409). -/
def execColNop (p q n : Nat) (s : State) : Res :=
  s.live fun s => s.opRow p q n (fun o => o.op == 0x04) fun s o => s.finishOp p o Code.done

/-! ### Waggle (R415 to R419) -/

/-- The operation takes what its rounds came to; after the last the results are at DST (R415, R416). -/
def State.opWag (s : State) (p : Nat) (o : COp) (e : WagEnd) : State :=
  let g := s.cqGroup p o.q
  let s := e.s.upGrp p g fun x => { x with held := e.held }
  match e.bad with
  | some c => s.upOp p o.q o.n fun x => { x with wag := e.w, ready := some c }
  | none =>
    if e.w.round < 3 then s.upOp p o.q o.n fun x => { x with wag := e.w }
    else
      let s := if o.func = 0 then s
        else (s.slmStore p (bwrites o.dst (e.w.lanes.flatMap fun l => leBytes 8 (wagQuiet o.func l).toNat)) none).1
      s.upOp p o.q o.n fun x => { x with wag := e.w, ready := some Code.done }

/-- A WAGGLE starts in its turn: its lanes are read and its first round goes out (R416, R417). A BARRIER has 1 to 8 lanes: a count
beyond is taken as the nearest of these. DESIGN CHOICE, log entry 193. -/
def wagStartOp (p : Nat) (s : State) (o : COp) : State :=
  let g := s.cqGroup p o.q
  if o.ord ≠ (s.grp p g).wagDone then s
  else
    let n := if o.func = 0 then Nat.max 1 (Nat.min 8 o.lanes) else o.lanes
    let bad := if o.func = 0 then [] else rangeBad 8 (s.pt p).live.slmBad [(o.src, 8 * n)]
    if bad ≠ [] then (bad.foldl (fun s w => s.meetSlmBad p w) s).finishOp p o Code.uncorrectable
    else
      let lanes := (List.range n).map fun i =>
        if o.func = 0 then (0 : W64) else BitVec.ofNat 64 ((s.pt p).live.slm.rdLe (o.src + 8 * i) 8)
      let w : Wag := { gen := o.ord, func := o.func, lanes := lanes }
      let s := s.upOp p o.q o.n fun x => { x with armed := some s.mgmt.beat, wag := w }
      s.opWag p o (s.wagStart p g w (s.grp p g).held)

/-- A WAGGLE row, by its FUNC. -/
def State.wagRow (s : State) (p q n func : Nat) : State :=
  s.opRow p q n (fun o => o.op == 0x10 && o.func == func) (wagStartOp p)

/-- BARRIER (R415). -/
def execWaggleBarrier (p q n : Nat) (s : State) : Res := s.live fun s => s.wagRow p q n 0
/-- SUM_I64 (R415). -/
def execSumI64 (p q n : Nat) (s : State) : Res := s.live fun s => s.wagRow p q n 1
/-- MIN_I64 (R415). -/
def execMinI64 (p q n : Nat) (s : State) : Res := s.live fun s => s.wagRow p q n 2
/-- MAX_I64 (R415). -/
def execMaxI64 (p q n : Nat) (s : State) : Res := s.live fun s => s.wagRow p q n 3
/-- SUM_F64 (R415). -/
def execSumF64 (p q n : Nat) (s : State) : Res := s.live fun s => s.wagRow p q n 4
/-- MIN_F64 (R415). -/
def execMinF64 (p q n : Nat) (s : State) : Res := s.live fun s => s.wagRow p q n 5
/-- MAX_F64 (R415). -/
def execMaxF64 (p q n : Nat) (s : State) : Res := s.live fun s => s.wagRow p q n 6

/-- The timeout of an operation has fallen due (R413, R50). -/
def State.opDue (s : State) (o : COp) : Bool :=
  match o.armed with
  | some b => o.timeout != 0 && decide (b + o.timeout < s.mgmt.beat)
  | none => false

/-- WAGGLE_MESSAGE: a message is held for its round; the waggle that runs goes on as far as it can. Messages of a
generation that is over are discarded (R417, R418). -/
def waggleMessage (p g : Nat) (m : WagMsg) (s : State) : State :=
  if s.present p = false then s
  else if m.own then
    let c := (s.pt p).col
    if m.gen < c.ownGen then s
    else
      let s := s.upCol p fun c => { c with ownHeld := c.ownHeld ++ [m] }
      match c.own with
      | none => s
      | some w => (s.wagRun 4 p g w (s.pt p).col.ownHeld).own p g
  else
    let x := s.grp p g
    if m.gen < x.wagDone ∨ x.wagDone + 1 < m.gen then s
    else
      let s := s.upGrp p g fun x => { x with held := x.held ++ [m] }
      match (s.pt p).col.ops.find? fun o => s.cqGroup p o.q == g && o.op == 0x10 && o.armed.isSome && !o.done && o.ready.isNone with
      | none => s
      | some o => if s.opDue o then s else s.opWag p o (s.wagRun 4 p g o.wag (s.grp p g).held)

/-- R416, R417. -/
def execWaggleMessage (p g : Nat) (m : WagMsg) (s : State) : Res := s.live (waggleMessage p g m)

/-! ### Narrowing (R423, R424) -/

/-- A code of a floating-point DTYPE as a value. -/
def dtVal (d c : Nat) : Fv := if d = 1 then binBf16.decode 16 c else binFp32.decode 32 c

/-- The block scale of R423. -/
def narrowScale (vs : List Fv) : Nat :=
  if vs.any fun v => !v.finite then 255
  else match maxMag vs with
    | .fin _ 0 _ => 127
    | x =>
      let l := x.log2
      let e := if (Fv.fin false 7 (l - 2)).lt x then l - 7 else l - 8
      ((if e < -127 then -127 else if 127 < e then 127 else e) + 127).toNat

/-- A block of 32 elements as 33 bytes: the scale, then the elements (R423; DEDUCED, log entry 41). -/
def narrowBlock (vs : List Fv) : Bytes :=
  let sc := narrowScale vs
  BitVec.ofNat 8 sc :: vs.map fun v =>
    if sc = 255 then 0 else BitVec.ofNat 8 (binE4m3.encode 8 true .even (v.scale (127 - (sc : Int))))

/-- The values of a block. -/
def widenBlock (b : Bytes) : List Fv :=
  let sc := ((b.headD 0).toNat)
  (b.drop 1).map fun c => if sc = 255 then Fv.nan else (binE4m3.decode 8 c.toNat).scale ((sc : Int) - 127)

/-- Element bytes of a value in a floating-point DTYPE. -/
def dtBytes (d : Nat) (v : Fv) : Bytes :=
  if d = 1 then leBytes 2 (binBf16.encode 16 false .even v) else leBytes 4 v.toW32

/-- Elements in device memory as values. -/
def State.dtElems (s : State) (p d a n : Nat) : List Fv :=
  (List.range n).map fun i => dtVal d ((s.pt p).live.dv.rdLe (a + esize d * i) (esize d))

/-- A packet's blocks as the bytes they stand for (R423). -/
def widenPacket (d : Nat) (data : Bytes) : Bytes :=
  (chunks 33 (data.length + 1) data).flatMap fun b => (widenBlock b).flatMap (dtBytes d)

/-! ### Data collectives (R421, R422) -/

/-- Elements of a chunk. -/
def State.chunkElems (s : State) (p : Nat) (o : COp) : Nat := o.count / (s.grpShape p (s.cqGroup p o.q)).size

/-- Is the data of a step between hives narrowed (R422)? -/
def COp.narrow (o : COp) : Bool := decide (o.dt < 2) && bits (o.w 5) 4 4 == 0

/-- Send elements `e0` to `e0 + n − 1` of the buffer at DST, or of SRC, to a member (R412, R423). -/
def State.sendElems (s : State) (p : Nat) (o : COp) (dst ptype fromA toA n : Nat) (narrow : Bool) : State × Bool :=
  let coll := some (o.ord, o.op, o.count)
  if narrow then
    (chunks 224 (n + 1) (s.dtElems p o.dt fromA n)).foldl (fun (r : (State × Bool) × Nat) vs =>
      let data := (chunks 32 8 vs).flatMap narrowBlock
      let x := r.1.1.sendPacket p o dst ptype (toA + r.2 * esize o.dt) data true 0 coll
      ((x.1, r.1.2 && x.2), r.2 + vs.length)) ((s, true), 0) |>.1
  else s.sendBytes (n * esize o.dt / 256 + 1) p o dst ptype toA (s.dvRead p fromA (n * esize o.dt)) coll

/-- What a step of a collective sends from this member, as (destination, packet type, first element, elements), and how
many elements it awaits (R422). Steps 1 to 3 reduce, 4 to 6 spread, 7 exchanges. -/
def State.colStep (s : State) (p : Nat) (o : COp) (k : Nat) : List (Nat × Nat × Nat × Nat) × Nat :=
  let h := s.grpShape p (s.cqGroup p o.q)
  let c := h.coords s.addr
  let ns := h.ns
  let ce := s.chunkElems p o
  let cs := List.range h.size
  let own := cs.filter fun i => i % ns == c.2.2
  let own2 := own.filter fun i => i / ns % h.nx == c.2.1
  let hive := (List.range ns).filter (· ≠ c.2.2)
  let row := (List.range h.nx).filter (· ≠ c.2.1)
  let col := (List.range h.ny).filter (· ≠ c.1)
  let root := h.coords (h.addrOf o.peer)
  let bc := o.op == 0x23
  match k with
  | 1 => (hive.flatMap fun x => (cs.filter fun i => i % ns == x).map fun i => (h.addrAt c.1 c.2.1 x, 2, i * ce, ce),
          hive.length * own.length * ce)
  | 2 => (row.flatMap fun x => (own.filter fun i => i / ns % h.nx == x).map fun i => (h.addrAt c.1 x c.2.2, 2, i * ce, ce),
          row.length * own2.length * ce)
  | 3 => (col.flatMap fun y => (own2.filter fun i => i / ns / h.nx == y).map fun i => (h.addrAt y c.2.1 c.2.2, 2, i * ce, ce),
          col.length * ce)
  | 4 =>
    if bc then
      (if c = root then col.map fun y => (h.addrAt y c.2.1 c.2.2, 1, 0, o.count) else [],
       if c.2 = root.2 ∧ c.1 ≠ root.1 then o.count else 0)
    else (col.map fun y => (h.addrAt y c.2.1 c.2.2, 1, h.rank s.addr * ce, ce), col.length * ce)
  | 5 =>
    if bc then
      (if c.2 = root.2 then row.map fun x => (h.addrAt c.1 x c.2.2, 1, 0, o.count) else [],
       if c.2.2 = root.2.2 ∧ c.2.1 ≠ root.2.1 then o.count else 0)
    else (row.flatMap fun x => own2.map fun i => (h.addrAt c.1 x c.2.2, 1, i * ce, ce), row.length * own2.length * ce)
  | 6 =>
    if bc then
      (if c.2.2 = root.2.2 then hive.map fun x => (h.addrAt c.1 c.2.1 x, 1, 0, o.count) else [],
       if c.2.2 ≠ root.2.2 then o.count else 0)
    else (hive.flatMap fun x => own.map fun i => (h.addrAt c.1 c.2.1 x, 1, i * ce, ce), hive.length * own.length * ce)
  | _ => ((cs.filter (· ≠ h.rank s.addr)).map fun i => (h.addrOf i, 1, i * ce, ce), (h.size - 1) * ce)

/-- Steps of an operation (R422). -/
def COp.steps (o : COp) : List Nat :=
  match o.op with
  | 0x20 => [1, 2, 3, 4, 5, 6]
  | 0x21 => [1, 2, 3]
  | 0x24 => [7]
  | _ => [4, 5, 6]

/-- The step that a packet belongs to, from its type and the source's place (R422). -/
def State.stepOfPkt (s : State) (p g : Nat) (kind src ptype : Nat) : Nat :=
  let h := s.grpShape p g
  let a := h.coords s.addr
  let b := h.coords src
  if kind = 0x24 then 7
  else if a.1 = b.1 ∧ a.2.1 = b.2.1 then (if ptype = 2 then 1 else 6)
  else if a.1 = b.1 then (if ptype = 2 then 2 else 5)
  else (if ptype = 2 then 3 else 4)

/-- A final chunk's holder replaces its own copy with the narrowed and widened value (R424). -/
def State.renarrow (s : State) (p : Nat) (o : COp) (a n : Nat) : State :=
  let bs := (chunks 32 (n + 1) (s.dtElems p o.dt a n)).flatMap fun vs => (widenBlock (narrowBlock vs)).flatMap (dtBytes o.dt)
  (s.dvWrite p (bwrites a bs)).1

/-- Begin step `k`: what it sends goes out (R422, R423). -/
def State.colBegin (s : State) (p : Nat) (o : COp) (k : Nat) : State × Bool :=
  let h := s.grpShape p (s.cqGroup p o.q)
  let es := esize o.dt
  let ce := s.chunkElems p o
  let wide := decide (1 < h.nx * h.ny) && o.narrow
  let isRoot := h.rank s.addr == o.peer
  let s := if k = 4 ∧ wide then
      (if o.op = 0x23 then (if isRoot then s.renarrow p o o.dst o.count else s)
       else s.renarrow p o (o.dst + h.rank s.addr * ce * es) ce)
    else s
  (s.colStep p o k).1.foldl (fun (r : State × Bool) x =>
    let far := decide ((h.coords x.1).1 ≠ (h.coords s.addr).1) || decide ((h.coords x.1).2.1 ≠ (h.coords s.addr).2.1)
    let fromA := if k = 7 then o.src + x.2.2.1 * es else o.dst + x.2.2.1 * es
    let toA := if k = 7 then o.dst + h.rank s.addr * ce * es else o.dst + x.2.2.1 * es
    let y := r.1.sendElems p o x.1 x.2.1 fromA toA x.2.2.2 (far && o.narrow)
    (y.1, r.2 && y.2)) (s, true)

/-- Go through the steps as far as what has come allows; each step arms the timeout again (R413, R422). -/
def State.colRun : Nat → State → Nat → COp → State
  | 0, s, p, o => s.upOp p o.q o.n fun _ => o
  | fuel + 1, s, p, o =>
    if o.step ≠ 0 ∧ Tbl.get 0 o.got o.step < (s.colStep p o o.step).2 then s.upOp p o.q o.n fun _ => o
    else match o.steps.find? fun k => decide (o.step < k) with
      | none => s.upOp p o.q o.n fun _ => { o with ready := some Code.done }
      | some k =>
        let r := s.colBegin p o k
        let o' := { o with step := k, armed := some r.1.mgmt.beat }
        if r.2 then colRun fuel r.1 p o' else r.1.upOp p o.q o.n fun _ => { o' with ready := some Code.routeLost }

/-! ### Packets that arrive (R412, R421, R426) -/

/-- An ADD packet's adder operations, one for each 64-byte unit it touches (R271, R412). -/
def State.addPacket (s : State) (p a : Nat) (d : Nat) (data : Bytes) : State × Nat :=
  let es := esize d
  let t := (dtypeOf d).getD .fp32
  let us := (List.range ((a % 64 + data.length + 63) / 64)).map fun i => a / 64 + i
  us.foldl (fun (r : State × Nat) u =>
    let lo := Nat.max a (u * 64)
    let hi := Nat.min (a + data.length) (u * 64 + 64)
    let bs := (data.drop (lo - a)).take (hi - lo)
    let mask := BitVec.ofNat 32 ((2 ^ ((hi - lo) / es) - 1) * 2 ^ ((lo % 64) / es))
    let x := r.1.memAdd p (u * 64) t mask (List.replicate (lo % 64) 0#8 ++ bs)
    (x.1, if r.2 ≠ Code.done then r.2 else match x.2 with
      | .applied => Code.done
      | .guarded => Code.ptWriteViolation
      | .uncorrectable => Code.uncorrectable)) (s, Code.done)

/-- A packet's data lands: the state and the status its acknowledgement carries, or none when it waits for a page
(R412). -/
def State.land (s : State) (p : Nat) (m : Packet) : State × Option Nat :=
  let data := if m.narrow then widenPacket m.dtype m.data else m.data
  let pages := pagesOf [(m.addr, data.length)]
  match s.opPages p unitOfArrival [] pages [] with
  | .stop s c => (s, some c)
  | .wait s => (s, none)
  | .ready s =>
    if m.ptype = 1 then
      let r := s.dvWrite p (bwrites m.addr data)
      (r.1, some (storeStatus r))
    else
      let r := s.addPacket p m.addr m.dtype data
      (r.1, some r.2)

/-- A packet of the data collective that runs: it lands and counts towards its step; a dropped add fails the group
(R422, R426). -/
def State.collLand (s : State) (p : Nat) (o : COp) (m : Packet) : State :=
  let g := s.cqGroup p o.q
  let r := s.land p m
  match r.2 with
  | none => r.1.upGrp p g fun x => { x with early := x.early ++ [m] }
  | some st =>
    let s := r.1.emit (.ack m st)
    if m.ptype = 2 ∧ st = Code.uncorrectable then
      (s.setGrp p g 3).upOp p o.q o.n fun x => { x with ready := some Code.uncorrectable }
    else if st ≠ Code.done then s
    else
      let n := if m.narrow then m.data.length / 33 * 32 else m.data.length / esize m.dtype
      let o := ((s.pt p).col.find o.q o.n).getD o
      let k := s.stepOfPkt p g o.op m.src.toNat m.ptype
      s.colRun 8 p { o with got := Tbl.upd 0 o.got k (· + n) }

/-- A data collective starts in its turn: SRC is copied to DST where the operation asks it, packets that came early land
and the first step begins (R421, R422). -/
def collStart (p : Nat) (s : State) (o : COp) : State :=
  let g := s.cqGroup p o.q
  if o.ord ≠ (s.grp p g).colDone then s
  else
    let h := s.grpShape p g
    let es := esize o.dt
    let n := o.count * es
    let cb := s.chunkElems p o * es
    let r := h.rank s.addr
    let reads := match o.op with
      | 0x22 => [(o.src + r * cb, cb)]
      | 0x23 => if r = o.peer then [(o.src, n)] else []
      | _ => [(o.src, n)]
    match s.opPages p (unitOfOp o.q o.n) (pagesOf reads) (pagesOf [(o.dst, n)]) reads with
    | .stop s c => s.finishOp p o c
    | .wait s => s
    | .ready s =>
      let copy := match o.op with
        | 0x24 => [(o.src + r * cb, o.dst + r * cb, cb)]
        | 0x22 => [(o.src + r * cb, o.dst + r * cb, cb)]
        | 0x23 => if r = o.peer then [(o.src, o.dst, n)] else []
        | _ => [(o.src, o.dst, n)]
      let s := copy.foldl (fun s x => if x.1 = x.2.1 then s else (s.dvWrite p (bwrites x.2.1 (s.dvRead p x.1 x.2.2))).1) s
      let pins := pagesOf reads
      let s := pins.foldl (fun s n => s.pinUnit p n false) s
      let o' := { o with armed := some s.mgmt.beat, pins := pins }
      let mine := (s.grp p g).early.filter fun m => match m.coll with | some (k, _) => k == o.ord | none => false
      let s := s.upGrp p g fun x =>
        { x with early := x.early.filter fun m => match m.coll with | some (k, _) => k != o.ord | none => false }
      let s := s.colRun 8 p o'
      mine.foldl (fun s m => s.collLand p o' m) s

/-- A row of a data collective. -/
def State.collRow (s : State) (p q n op : Nat) : State := s.opRow p q n (fun o => o.op == op) (collStart p)

/-- ALLREDUCE (R421). -/
def execAllreduce (p q n : Nat) (s : State) : Res := s.live fun s => s.collRow p q n 0x20
/-- REDUCE_SCATTER (R421). -/
def execReduceScatter (p q n : Nat) (s : State) : Res := s.live fun s => s.collRow p q n 0x21
/-- ALLGATHER (R421). -/
def execAllgather (p q n : Nat) (s : State) : Res := s.live fun s => s.collRow p q n 0x22
/-- BROADCAST (R421). -/
def execBroadcast (p q n : Nat) (s : State) : Res := s.live fun s => s.collRow p q n 0x23
/-- ALLTOALL (R421). -/
def execAlltoall (p q n : Nat) (s : State) : Res := s.live fun s => s.collRow p q n 0x24

/-- A packet of a data collective: one of an operation that is over is discarded, one of an operation to come is held, one
that disagrees ends the operation with COL_MISMATCH (R413, R421). -/
def State.collPacket (s : State) (m : Packet) (num kind count : Nat) : State :=
  let p := m.dptn
  let x := s.grp p m.group
  if num < x.colDone then s
  else match (s.pt p).col.ops.find? fun o => s.cqGroup p o.q == m.group && o.isColl && o.ord == num && o.armed.isSome && !o.done with
    | none => s.upGrp p m.group fun x => { x with early := x.early ++ [m] }
    | some o =>
      if o.ready.isSome then s
      else if o.op ≠ kind ∨ o.count ≠ count then s.upOp p o.q o.n fun x => { x with ready := some Code.colMismatch }
      else if s.opDue o then s
      else s.collLand p o m

/-- Has the packet been accepted, and does it wait: this module has sent it to itself, or a port has checked its last flit (R44)? -/
def State.came (s : State) (m : Packet) : Bool := s.links.inbox.contains m

/-- It is acted on. -/
def State.took (s : State) (m : Packet) : State := { s with links := { s.links with inbox := s.links.inbox.erase m } }

/-- PACKET_ARRIVAL: the packet's writes, adds or counter increment are made, its trigger counter rises, and it is
acknowledged with any failing status (R411 to R413). One for a partition in L2 or L3 wakes it and waits, one whose pages are not there
waits (R412, R531), and one for a partition without a job is dropped. -/
def packetArrival (m : Packet) (s : State) : State :=
  let p := m.dptn
  if s.came m = false then s
  else if s.present p = false ∨ (s.pt p).job = .noJob then s.took m
  else if s.awake p = false then s.wake p
  else if m.ptype = 4 then ((s.took m).bumpTrig p (m.rctr % 256) m.inc).emit (.ack m Code.done)
  else if m.ptype ≠ 1 ∧ m.ptype ≠ 2 then s.took m
  else match m.coll with
    | some (num, kind, count) => (s.took m).collPacket m num kind count
    | none =>
      let r := s.land p m
      match r.2 with
      | none => r.1
      | some st =>
        let s := if m.rctrEn ∧ st = Code.done then r.1.bumpTrig p (m.rctr % 256) 1 else r.1
        (s.took m).emit (.ack m st)

/-- The packets that have been accepted and wait are tried again, the oldest first. -/
def State.retryPackets (s : State) : State := s.links.inbox.foldl (fun s m => packetArrival m s) s

/-- R412. -/
def execPacketArrival (m : Packet) (s : State) : Res := s.live (packetArrival m)

/-- Is it a status code that the device produces (R13, R14, and the tables of R525, R427 and the like)? -/
def Code.known (c : Nat) : Bool :=
  ([0x000, 0x001, 0x002, 0x003, 0x010, 0x011, 0x012, 0x020, 0x030, 0x031, 0x040, 0x041, 0x050, 0x060, 0x061, 0x070, 0x101, 0x102, 0x103,
    0x201, 0x202, 0x203, 0x204, 0x301, 0x302, 0x303, 0x401, 0x402, 0x403, 0x404, 0x405, 0x501, 0x502, 0x503, 0x504, 0x601] : List Nat).contains c

/-- OPERATION_COMPLETE: every acknowledgement of a PUT, ADD or CTR_ADD has come, or the rounds or steps of a collective are
over (R411, R413). No module produces a reserved code, so none acknowledges with one (R14). -/
def operationComplete (p q n : Nat) (st : Nat) (s : State) : State :=
  match (s.pt p).col.find q n with
  | none => s
  | some o =>
    if o.done ∨ o.armed = none then s
    else match o.ready with
      | some r => (s.finishOp p o r).takeEntries 64 p q
      | none => if o.op ≤ 0x03 ∧ Code.known st ∧ s.opDue o = false then (s.finishOp p o st).takeEntries 64 p q else s

/-- R411. -/
def execOperationComplete (p q n : Nat) (a : Acks) (s : State) : Res := s.live (operationComplete p q n a.status.toNat)

/-- OPERATION_TIMEOUT: a timeout that a boundary has found due fires; a data collective fails its group (R413, R418). -/
def operationTimeout (p q n : Nat) (s : State) : State :=
  match (s.pt p).col.find q n with
  | none => s
  | some o =>
    if o.done ∨ o.ready.isSome ∨ s.opDue o = false then s
    else
      let s := s.finishOp p o Code.timeout
      if o.isColl then s.setGrp p (s.cqGroup p q) 3 else s

/-- Step 2 of a boundary for the operations of partition `p`: every timeout that is due fires (R43, R413, R418). -/
def State.opTimeouts (s : State) (p : Nat) : State :=
  (s.pt p).col.ops.foldl (fun s (o : COp) => operationTimeout p o.q o.n s) s

/-- R413. -/
def execOperationTimeout (p q n : Nat) (s : State) : Res := s.live (operationTimeout p q n)

end Sys2Proof.Machine
end

