-- ==== Sys2Proof/Machine/Pcie.lean ====
section
/-! DEFINITION. The configuration space of the five functions as it reads: identification, base address registers and capabilities (R308 to
R312), and what writes to it do. DESIGN CHOICE, log entry 141. -/

namespace Sys2Proof.Machine

/-- A capability: its offset, ID and version, and whether PF0 and the partition functions hold it. -/
structure PcieCap where
  off : Nat
  id : Nat
  ver : Nat
  pf0 : Bool
  ptn : Bool
deriving DecidableEq, Repr

/-- The capability list of R310. A version that it does not give is 1, PRESUMED, log entry 141. -/
def capabilities : List PcieCap :=
  [⟨0x40, 0x01, 3, true, true⟩, ⟨0x50, 0x11, 0, true, true⟩, ⟨0x70, 0x10, 2, true, true⟩, ⟨0x100, 0x0001, 2, true, true⟩,
   ⟨0x148, 0x0003, 1, true, false⟩, ⟨0x158, 0x000D, 1, true, true⟩, ⟨0x160, 0x0015, 1, false, true⟩, ⟨0x180, 0x0019, 1, true, false⟩,
   ⟨0x1C0, 0x0025, 1, true, false⟩, ⟨0x1D0, 0x0026, 1, true, false⟩, ⟨0x200, 0x002A, 1, true, false⟩, ⟨0x240, 0x0031, 1, true, false⟩,
   ⟨0x260, 0x0027, 1, true, false⟩, ⟨0x2A0, 0x0032, 1, true, false⟩, ⟨0x2C0, 0x002E, 1, true, false⟩, ⟨0x300, 0x0030, 1, true, false⟩]

/-- Capabilities of function `fn`, in ascending offset. -/
def capsOf (fn : Nat) : List PcieCap := capabilities.filter fun c => if fn = 0 then c.pf0 else c.ptn

/-- The list links only the capabilities that the function holds: those below 0x100, and those from it on. -/
def nextCap (fn off : Nat) : Nat :=
  match (capsOf fn).find? fun c => decide (off < c.off) && (decide (c.off < 0x100) == decide (off < 0x100)) with
  | some c => c.off
  | none => 0

/-- Vendor ID and Subsystem Vendor ID, Device ID, and class code of function `fn` (R308). -/
def vendorId : Nat := 0x1E6C
/-- See `vendorId`. -/
def deviceId (fn : Nat) : Nat := if fn = 0 then 0x9650 else 0x9651
/-- See `vendorId`. -/
def classCode (fn : Nat) : Nat := if fn = 0 then 0x088000 else 0x120000

/-- Subsystem ID: that of the carrier fitted (R37, R308). -/
def State.subsystemId (s : State) : Nat := if s.store.variant32 then 0x0032 else 0x0016

/-- The type bits of base address register `b`: each is 64-bit, BAR4 prefetchable, and PF0 implements BAR0 only (R312). -/
def barType (fn b : Nat) : Nat := if b = 0 ∨ (fn ≠ 0 ∧ b = 2) then 0b0100 else if fn ≠ 0 ∧ b = 4 then 0b1100 else 0

/-- Bytes of a function's base address register: BAR4 by its resizable size (R312). -/
def State.barSize (s : State) (fn b : Nat) : Nat :=
  if fn = 0 then (if b = 0 then 2 ^ 26 else 0)
  else if b = 0 then 2 ^ 25 else if b = 2 then 2 ^ 18 else if b = 4 then 2 ^ (s.pt (fn - 1)).winBits else 0

/-- Vectors of a function less one (R317). -/
def lastVector (fn : Nat) : Nat := if fn = 0 then 31 else 127

/-- The header of a capability, with the half-word beside it below 0x100: version, and for MSI-X the table size. -/
def capHeader (fn : Nat) (c : PcieCap) : Nat :=
  if c.off < 0x100 then (if c.id = 0x11 then lastVector fn else c.ver) * 2 ^ 16 + nextCap fn c.off * 2 ^ 8 + c.id
  else nextCap fn c.off * 2 ^ 20 + c.ver * 2 ^ 16 + c.id

/-- The stream and the word of its register block that an offset of PF0's IDE capability names: the link stream 0, with a control and a
status register, then the eight selective streams, with three address ranges each (R310, R501). PRESUMED, log entry 141. -/
def ideReg (fn off : Nat) : Option (Nat × Nat) :=
  if fn ≠ 0 then none
  else if off = 0x30C then some (0, 4)
  else if off = 0x310 then some (0, 8)
  else if 0x314 ≤ off ∧ off < 0x4D4 then some ((off - 0x314) / 0x38 + 1, (off - 0x314) % 0x38)
  else none

/-- Bits of a word of a stream's register block that a write sets: control, requester IDs and address ranges; there is no aggregation and no
partial header encryption (R501). PRESUMED, log entry 141. -/
def ideRw (o : Nat) : Nat :=
  if o = 4 then 0xFFFFC101
  else if o = 12 then 0xFFFF00
  else if o = 16 then 0xFFFFFF01
  else if 20 ≤ o then (if (o - 20) % 12 = 0 then 0xFFFFFF01 else 0xFFFFFFFF)
  else 0

/-- A word of a stream's register block as it reads: three address ranges, and the state, Secure or Insecure, with the failure that stays
until it is cleared (R501). PRESUMED, log entry 141. -/
def State.ideWord (s : State) (r : Option (Nat × Nat)) : Nat :=
  match r with
  | none => 0
  | some (n, o) =>
    let x := Tbl.get {} s.sec.ide n
    if o = 0 then 3 else (if o = 8 ∧ x.secure then 2 else 0) + Tbl.get 0 x.regs o

/-- A write of a stream's register block. -/
def State.ideWrite (s : State) (r : Option (Nat × Nat)) (v : Nat) : State :=
  match r with
  | none => s
  | some (n, o) =>
    let x := Tbl.get {} s.sec.ide n
    let w := if o = 8 then (if bits v 31 31 = 1 then 0 else Tbl.get 0 x.regs 8) else v &&& ideRw o
    { s with sec := { s.sec with ide := Tbl.set {} s.sec.ide n { x with regs := Tbl.set 0 x.regs o w } } }

/-- The function that a selective stream is associated with by requester ID (R501). -/
def ideFunction (x : IdeStream) : Option Nat :=
  if bits (Tbl.get 0 x.regs 16) 0 0 = 1 then some (bits (Tbl.get 0 x.regs 16) 15 8) else none

/-- The stream after an integrity failure: Insecure (R501). -/
def ideFailed (x : IdeStream) : IdeStream := { x with secure := false, regs := Tbl.set 0 x.regs 8 (2 ^ 31) }

/-- The bits of that space that are fixed or that the state elsewhere gives. The places of the identification and of the fields within a capability
are those of PCI Express, PRESUMED, log entry 141; what no rule gives reads 0. -/
def State.configFixed (s : State) (fn off : Nat) : Nat :=
  match (capsOf fn).find? fun c => c.off == off with
  | some c => capHeader fn c
  | none =>
    if off = 0x00 then deviceId fn * 2 ^ 16 + vendorId
    else if off = 0x04 then 2 ^ 20 + (if (if fn = 0 then s.mgmt.busMaster else (s.pt (fn - 1)).busMaster) then 4 else 0)
    else if off = 0x08 then classCode fn * 2 ^ 8 + Config.revision.toNat
    else if off = 0x0C then 2 ^ 23
    else if off = 0x10 then barType fn 0
    else if off = 0x18 then barType fn 2
    else if off = 0x20 then barType fn 4
    else if off = 0x2C then s.subsystemId * 2 ^ 16 + vendorId
    else if off = 0x34 then 0x40
    -- A function that returns from D3hot is as it was
    else if off = 0x44 then 8
    else if off = 0x54 then (if fn = 0 then 0x3F00000 else 0x1F00000)
    else if off = 0x58 then (if fn = 0 then 0x3F80000 else 0x1F80000)
    -- Max Payload Size 512 bytes, Extended Tag, FLR (R311)
    else if off = 0x74 then 2 ^ 28 + 2 ^ 5 + 2
    -- 64 GT/s, 16 lanes, ASPM L1 alone; the link as it is (R306, R307, R311)
    else if off = 0x7C then 2 ^ 22 + 2 ^ 11 + 16 * 2 ^ 4 + 6
    else if off = 0x80 then (s.fld rMgtPcieLink 0 0 12 8 * 2 ^ 4 + s.fld rMgtPcieLink 0 0 3 1) * 2 ^ 16
    -- 10-bit tags as requester and completer, completion timeout ranges B, C and D (R311)
    else if off = 0x94 then 2 ^ 17 + 2 ^ 16 + 14
    else if off = 0x9C then 0x7E
    -- P2P Request Redirect and P2P Completion Redirect (R310)
    else if off = 0x15C then 0xC
    -- Scaled flow control; a link stream and eight selective streams (R310)
    else if fn = 0 ∧ off = 0x1C4 then 1
    -- with PCRC, IDE_KM and TEE-limited streams (R501)
    else if fn = 0 ∧ off = 0x304 then 2 ^ 24 + 7 * 2 ^ 16 + 2 ^ 6 + 2 ^ 5 + 3
    else if (ideReg fn off).isSome then s.ideWord (ideReg fn off)
    -- DOE status: Error, Data Object Ready (R318)
    else if fn = 0 ∧ off = 0x2CC then (if s.sec.spdm.error then 4 else 0) + (if s.sec.spdm.response.isSome then 2 ^ 31 else 0)
    else if fn = 0 ∧ off = 0x14C then s.mgmt.serial.toNat % 2 ^ 32
    else if fn = 0 ∧ off = 0x150 then s.mgmt.serial.toNat / 2 ^ 32 % 2 ^ 32
    -- BAR4 of 1 GiB to 1 TiB (R312)
    else if fn ≠ 0 ∧ off = 0x164 then 0x7FF * 2 ^ 14
    else if fn ≠ 0 ∧ off = 0x168 then ((s.pt (fn - 1)).winBits - 20) * 2 ^ 8 + 2 ^ 5 + 4
    else 0

/-- The 32-bit word of function `fn`'s configuration space at `off`. -/
def State.configWord (s : State) (fn off : Nat) : Nat := s.configFixed fn off ||| s.cfgRd fn off

/-- The address bits of the base address register at `off` that software sets: those above its size; the odd registers are the upper halves
(R312). -/
def State.barMask (s : State) (fn off : Nat) : Nat :=
  let b := (off - 0x10) / 4
  let size := s.barSize fn (b / 2 * 2)
  if size = 0 then 0 else (2 ^ 64 - size) / 2 ^ (32 * (b % 2)) % 2 ^ 32

/-- The bits of a configuration word that are read and write, beside those that act otherwise. PRESUMED, log entry 141. -/
def State.cfgRw (s : State) (fn off : Nat) : Nat :=
  if off = 0x04 then 0x542
  else if 0x10 ≤ off ∧ off ≤ 0x24 then s.barMask fn off
  else if off = 0x0C ∨ off = 0x3C then 0xFF
  else if off = 0x44 then 3
  else if off = 0x50 then 0xC0000000
  else if off = 0x78 then 0x7FFF
  else if off = 0x80 then 0xC3
  else if off = 0x98 then 0x101F
  else if off = 0xA0 then 0xF
  else if off = 0x108 ∨ off = 0x10C then 0x7FF010
  else if off = 0x114 then 0xF1C1
  else if off = 0x15C then 0xC0000
  else if fn = 0 ∧ off = 0x2C8 then 2
  else 0

/-- The bits that a write of one clears. PRESUMED, log entry 141. -/
def cfgW1c (off : Nat) : Nat :=
  if off = 0x78 then 0xF0000 else if off = 0x104 then 0x7FF010 else if off = 0x110 then 0xF1C1 else 0

/-- A configuration word takes its read-write bits from `v`, and loses the bits that `v` clears. -/
def State.cfgStore (s : State) (fn off v : Nat) : State :=
  let rw := s.cfgRw fn off
  let w1c := cfgW1c off
  let old := s.cfgRd fn off
  s.setCfg fn off ((v &&& rw) ||| (old &&& (2 ^ 32 - 1 - rw) &&& (2 ^ 32 - 1 - (v &&& w1c))))

/-- A request to function `fn` ends with Unsupported Request, which the function reports: its status bits, and the header of the request where
the log is free. The header is the requester's, a free value. PRESUMED, log entry 141. -/
def State.noteUr (s : State) (fn : Nat) : State :=
  let first := bits (s.cfgRd fn 0x104) 20 20 = 0
  let s := (s.setCfg fn 0x104 (setBits (s.cfgRd fn 0x104) 20 20 1)).setCfg fn 0x78 (setBits (s.cfgRd fn 0x78) 19 19 1)
  if first then
    (List.range 4).foldl (fun s i => let r := s.freshW64; r.2.setCfg fn (0x11C + 4 * i) (r.1.toNat % 2 ^ 32)) (s.setCfg fn 0x118 20)
  else s

/-- An access to a register of function `fn` completes with Unsupported Request (R504). -/
def State.refuseAccess (s : State) (fn off : Nat) : State := (s.emit (.unsupported fn off)).noteUr fn

end Sys2Proof.Machine
end

