-- ==== Sys2Proof/Machine/Resets.lean ====
section
/-! DEFINITION. Resets, discards, the partition shape, the SLM split and the host window (R22 to R26, R278, R306,
R307, R309, R314 to R325). -/

namespace Sys2Proof.Machine

/-! ### What a reset clears (R317, R319, R321, R360) -/

/-- The MSI-X table and pending bits of function `fn` return to their reset values. -/
def State.clearMsix (s : State) (fn : Nat) : State :=
  if fn = 0 then ((s.clrLine rMsixPf0Addr 0).clrLine rMsixPf0Data 0).clrLine rMsixPf0Pba 0
  else ((s.clrLine rMsixAddr fn).clrLine rMsixData fn).clrLine rMsixPba fn

/-- The function's configuration space is reset: Bus Master Enable is clear, and BAR4 has its reset size. -/
def State.clearSpace (s : State) (fn : Nat) : State :=
  let s := { s with cfg := s.cfg.filter fun e => e.1 / 4096 != fn }
  if fn = 0 then { s with mgmt := { s.mgmt with busMaster := false } }
  else s.upPt (fn - 1) fun q => { q with busMaster := false, winBits := 34 }

/-- The function's configuration space is reset, and MSI-X is as at reset. -/
def State.clearConfig (s : State) (fn : Nat) : State := (s.clearMsix fn).clearSpace fn

/-- Waiting records of function `fn` and its pending events at the local interfaces are discarded; what a queue has written and not yet announced
stays due (R360, R367). -/
def State.dropEvents (s : State) (fn : Nat) : State :=
  ({ s with evq := s.evq.map fun (e : Nat × EvQ) => if e.1 / 128 = fn then (e.1, { e.2 with waiting := [] }) else e }).withdrawFn fn fun _ => true

/-- A TDISP state change, with its log entry when one can be made durable (R504, R518). DEDUCED, log entry 85. -/
def State.setTdi (s : State) (fn st : Nat) : State :=
  let old := (s.tdi fn).state
  if old = st then s
  else
    let s := if s.canLog then s.logChange ((s.tdi fn).stream * 65536 + fn) 2 old st else s
    { s with sec := { s.sec with tdi := Tbl.set {} s.sec.tdi fn { s.tdi fn with state := st } } }

/-- The telemetry ring is disabled (R567). -/
def State.telOff (s : State) : State := s.setFld rMgtTelCfg 0 0 31 31 0

/-- DOE and SPDM sessions end (R319, R498). -/
def State.clearDoe (s : State) : State := { s with sec := { s.sec with spdm := {} } }

/-! ### FLR and discard (R322 to R324) -/

/-- A discard of PTNp's job is called for: DISCARDING, unless an internal reset must end first (R322, R324). -/
def State.startDiscard (s : State) (p kind : Nat) : State :=
  if s.present p = false ∨ s.shapeBusy ∨ (s.pt p).func = .discarding then s
  else
    let wait := (s.pt p).func == .resetting
    s.upPt p fun q =>
      { q with flr := some s.mgmt.beat, func := if wait then q.func else .discarding, resetKind := if wait then q.resetKind else kind }

/-- An FLR of PF(p + 1) (R319, R322 to R324). DEDUCED, log entry 87. -/
def flrPartitionFunction (p : Nat) (s : State) : State :=
  let s := ((s.clearConfig (p + 1)).dropEvents (p + 1)).setTdi (p + 1) 0
  s.startDiscard p 2

/-- R322. -/
def execFlrPartitionFunction (p : Nat) (s : State) : Res := s.live fun s => if 4 ≤ p then s else flrPartitionFunction p s

/-- A journal entry at a discard: one already written is freed; one with a slot and not written loses it (R322). -/
def JEntry.atDiscard (e : JEntry) : Option JEntry :=
  if e.written || e.rewrite then none else some { e with slot := none }

/-- Every ring of the function is disabled; a submission ring with completions still to write becomes PENDING, as its status reads
(R322, `State.sqStatus`). -/
def State.disableRings (s : State) (p : Nat) : State :=
  let s := (List.range 64).foldl (fun s n =>
    ((((s.setFld rPtnSqCfg (p + 1) n 31 31 0).setFld rPtnSqStatus (p + 1) n 2 0 0).setFld rPtnCqCfg (p + 1) n 31 31 0).setFld
      rPtnCqStatus (p + 1) n 2 0 0).upSq p n fun x => { x with awaiting := [], shadowed := false }) s
  let keep := fun (r : JRec) => match r with
    | .accept q _ => q != p
    | _ => true
  { s with store := { s.store with records := s.store.records.filter keep, mirrorWait := s.store.mirrorWait.filter keep } }

/-- FUNCTION_DISCARD: the job is closed with abort, every accepted descriptor without a completion gets ABORTED with
FUNCTION_RESET, and the rings are disabled or PENDING (R322). -/
def functionDiscard (p : Nat) (s : State) : State :=
  match (s.pt p).flr with
  | none => s
  | some b =>
    if (s.pt p).func ≠ .discarding ∨ s.since b = 0 then s
    else
      let s := s.upPt p fun q => { q with journal := q.journal.filterMap JEntry.atDiscard }
      let s := s.disableRings p
      let s := s.discardAll p 2 fun _ => false
      let s := (s.releaseJob p).setJob p .noJob
      let s := s.upPt p fun q =>
        { q with descs := [], flr := none, abort := none, rollReq := none, endCause := none, rolling := some s.lastBeat }
      s.disableRings p

/-- R322. -/
def execFunctionDiscard (p : Nat) (s : State) : Res := s.live (functionDiscard p)

/-! ### Conventional reset and FLR of PF0 (R319, R320, R323, R324, R360) -/

/-- What a conventional reset does to partition `p`: a discard where its TDI is LOCKED or RUN, else an internal reset;
a discard in progress goes on (R319, R323, R324). -/
def State.conventionalPtn (s : State) (p : Nat) : State :=
  let locked := (s.tdi (p + 1)).state == 1 || (s.tdi (p + 1)).state == 2
  let s := ((s.clearConfig (p + 1)).dropEvents (p + 1)).setTdi (p + 1) 0
  if s.present p = false ∨ s.shapeBusy ∨ (s.pt p).func = .discarding then s
  else if locked then s.startDiscard p 0
  else (s.wantRollback p 0x0b).setFunc p .resetting

/-- CONVENTIONAL_RESET (R319). PF0's MSI-X table lies in its BAR0 and keeps its settings (R320). -/
def conventionalReset (pin : ResetPin) (s : State) : State :=
  let s := (((s.clrLine rMsixPf0Pba 0).clearSpace 0).dropEvents 0).clearDoe
  let s := { s with lcl := s.lcl.map fun (e : Nat × Lcl) => (e.1, { e.2 with pend := [], raised := [] }),
                    mgmt := { s.mgmt with perst := s.mgmt.perst || pin == ResetPin.perst },
                    sec := { s.sec with ide := [] } }
  let s := (s.setFld rMgtPcieLink 0 0 0 0 0).telOff
  (List.range 4).foldl (fun s p => s.conventionalPtn p) s

/-- R319. -/
def execConventionalReset (pin : ResetPin) (s : State) : Res := s.live (conventionalReset pin)

/-- An FLR of PF0: its configuration space, MSI-X state, DOE and SPDM sessions (R319); its events are discarded (R360). -/
def flrPf0 (s : State) : State :=
  let s := (((s.clearConfig 0).dropEvents 0).clearDoe).telOff
  { s with lcl := s.lcl.map fun (e : Nat × Lcl) => (e.1, { e.2 with
    pend := e.2.pend.filter fun x => decide (0x100 ≤ x), raised := e.2.raised.filter fun x => decide (0x100 ≤ x.1) }) }

/-- FLR_PF0 (R319). -/
def execFlrPf0 (s : State) : Res := s.live flrPf0

/-! ### MGT_RESET and RESET_DONE (R321, R324, R325) -/

/-- Does the partition go through the internal reset of a conventional reset, which absorbs any other (R324)? -/
def State.hostResets (s : State) (p : Nat) : Bool :=
  ((s.pt p).rolling.isSome && (s.pt p).resetKind == 0) || ((s.pt p).rollReq.map fun r => r.1 == 0x0b).getD false

/-- MGT_RESET is written (R325). RESULT keeps its value until the request has one. -/
def mgtResetWrite (v : Nat) (s : State) : State :=
  let m := bits v 3 0
  let res := fun (c : Nat) (s : State) => s.setFld rMgtReset 0 0 31 16 c
  if s.fld rMgtReset 0 0 15 15 = 1 ∨ m = 0 then s
  else if (List.range 4).any fun p => bits m p p == 1 && !s.present p then res Code.invalidOperand s
  else if s.shapeBusy then res Code.resourceHeld s
  else s.logged 0x408 0 0 m
    (fun s =>
      let s := s.setFld rMgtReset 0 0 15 15 1
      let s := { s with mgmt := { s.mgmt with resetMask := m } }
      (List.range 4).foldl (fun s p =>
        if bits m p p = 1 ∧ (s.pt p).func ≠ .discarding ∧ s.hostResets p = false then s.wantRollback p 9 else s) s)
    (res Code.resourceHeld)

/-- R325. -/
def execMgtResetWrite (v : W32) (s : State) : Res := s.live (mgtResetWrite v.toNat)

/-- A partition that MGT_RESET named is READY; with the last of them RESULT is DONE and BUSY clears (R325). -/
def State.resetServed (s : State) (p : Nat) : State :=
  let m := setBits s.mgmt.resetMask p p 0
  if bits s.mgmt.resetMask p p = 0 then s
  else
    let s := { s with mgmt := { s.mgmt with resetMask := m } }
    if m = 0 then (s.setFld rMgtReset 0 0 15 15 0).setFld rMgtReset 0 0 31 16 Code.done else s

/-- RESET_DONE: the reset of the partition ends. A function-level reset that waited takes effect; otherwise the partition
is READY, re-reads its rings, writes journaled completions again and raises RESET_DONE (R321, R324, R339, R340). -/
def resetDone (p : Nat) (s : State) : State :=
  let q := s.pt p
  match q.rolling with
  | none => s
  | some b =>
    if s.present p = false ∨ s.shapeBusy ∨ q.rollReq.isSome ∨ s.since b < 2 ∨ q.drained = false ∨ s.bootReady = false then s
    else if q.func = .resetting ∧ q.flr.isSome then
      s.upPt p fun q => { q with rolling := none, func := .discarding, flr := some s.mgmt.beat, resetKind := 2 }
    else
      let s := s.upPt p fun q =>
        { rewriteAfterReset q with rolling := none, func := .ready,
                                   sqs := q.sqs.map fun (e : Nat × Sq) => (e.1, { e.2 with target := BitVec.ofNat 64 (s.accepted p e.1) }) }
      let s := { s with mgmt := { s.mgmt with everReady := true } }
      let s := if (s.pt p).job = .suspended then s else s.unpause p
      let s := (s.raiseAt (p + 1) 0x102 q.resetKind 0 0 s.lastBeat).upPt p fun q => { q with resetKind := 3 }
      (s.resetServed p).refreshReady p

/-- R321. -/
def execResetDone (p : Nat) (s : State) : Res := s.live (resetDone p)

/-! ### The partition shape (R23 to R25) -/

/-- MGT_PTN_SHAPE is written (R24). DEDUCED, log entry 86. -/
def mgtPtnShapeWrite (v : Nat) (s : State) : State :=
  let r := bits v 1 0
  let res := fun (c : Nat) (s : State) => s.setFld rMgtPtnShape 0 0 23 8 c
  if s.shapeBusy then s
  else if r = 3 then res Code.invalidOperand s
  else s.logged 0x200 0 (s.rd rMgtPtnShape 0 0) r
    (fun s => { s.setFld rMgtPtnShape 0 0 1 0 r with mgmt := { s.mgmt with shapeReq := some (r, s.mgmt.beat) } })
    (res Code.resourceHeld)

/-- R24. -/
def execMgtPtnShapeWrite (v : W32) (s : State) : Res := s.live (mgtPtnShapeWrite v.toNat)

/-- Does something stand against a shape change: an open job, an accepted descriptor without its completion, or an enabled
ring (R24)? -/
def State.shapeHeld (s : State) : Bool :=
  (List.range s.parts).any fun p =>
    (s.pt p).job != .noJob || (s.pt p).descs.any (fun d => !d.done) || (List.range 64).any fun n => s.sqOn p n || s.cqOn p n

/-- SHAPE_CHANGE: the request is evaluated at the boundary (R24, R25). -/
def shapeChange (s : State) : State :=
  match s.mgmt.shapeReq with
  | none => s
  | some (r, b) =>
    if s.since b = 0 then s
    else
      let held := s.shapeHeld
      let s := { s with mgmt := { s.mgmt with shapeReq := none } }
      if held then s.setFld rMgtPtnShape 0 0 23 8 Code.resourceHeld
      else (s.setFld rMgtPtnShape 0 0 1 0 r).setFld rMgtPtnShape 0 0 7 7 1

/-- R25. -/
def execShapeChange (s : State) : Res := s.live shapeChange

/-- A fresh draw for partition `p`'s HBM key pair (R508). -/
def State.drawHbmKey (s : State) (p : Nat) : State :=
  { s with free := s.free + 1, sec := { s.sec with hbmKeys := Tbl.put s.sec.hbmKeys p (s.free + 1) } }

/-- A partition as a shape change forms it: nothing of the old partitions but the rings' counts and completions not yet
written. It is READY also over a die that is declared failed; DESIGN CHOICE, log entry 156. -/
def Ptn.formed (q : Ptn) (present : Bool) : Ptn :=
  { func := if present then .ready else .absent, busMaster := q.busMaster, winBits := q.winBits, sqs := q.sqs, cqs := q.cqs, journal := q.journal,
    accOrd := q.accOrd, startOrd := q.startOrd, readyOrd := q.readyOrd }

/-- The registers that a shape change sets for partition `p` (R241, R278, R384). -/
def State.formRegs (s : State) (p : Nat) : State :=
  let share := 64 / s.parts
  let all := (List.range 6).foldl (fun v i => v + share * 2 ^ (7 * i)) 0
  let s := (s.clrReg rMemPoolPtn 0 p).clrReg rMemSlmSplitPtn 0 p
  let v := if s.present p then all else 0
  let s := { s with flash := { s.flash with
    settings := Tbl.put (Tbl.del (Tbl.del s.flash.settings (0x500000 + 8 * p)) (0x501010 + 8 * p)) (0x300020 + 8 * p) (BitVec.ofNat 64 v) } }
  { s.give rLnkSluicePtn 0 p v with links := { s.links with shares := Tbl.set 0 s.links.shares p v } }

/-- Partitions are formed in the shape in force: memories are zero, keys are new, functions read READY or ABSENT (R25,
R508). Events of a function that is then ABSENT are dropped; DESIGN CHOICE, log entry 185. -/
def State.formPartitions (s : State) : State :=
  let s := { s with
    ptn := (List.range 4).map fun p => (p, (s.pt p).formed (s.present p))
    timers := [], hbm := { s.hbm with badBank := [], cache := [] }
    store := { s.store with writes := [], guests := [], guestRecs := [], mirrorWait := [], done := [], ended := [], other := [], otherPast := [], lastFlush := [] }
    engines := (s.engines.filter fun e => e.2.failed).map fun e => (e.1, { failed := true })
    sec := { s.sec with hbmKeys := [], storeKeys := [] } }
  let s := (List.range s.parts).foldl (fun s p => s.drawHbmKey p) ((List.range 4).foldl (fun s p => s.formRegs p) s)
  (List.range 4).foldl (fun s p => if s.present p then s else s.dropEvents (p + 1)) s

/-- SHAPE_CHANGE_DONE (R25). Its re-forming has absorbed the internal resets requested before (R324, R325). -/
def shapeChangeDone (s : State) : State :=
  if s.shapeBusy = false then s
  else
    let s := (s.setFld rMgtPtnShape 0 0 3 2 (s.fld rMgtPtnShape 0 0 1 0)).formPartitions
    let s := { s with flash := { s.flash with
      settings := Tbl.put s.flash.settings 0x200 (BitVec.ofNat 64 (s.fld rMgtPtnShape 0 0 1 0)) } }
    let s := { s with mgmt := { s.mgmt with everReady := true } }
    let s := (List.range 4).foldl (fun s p => s.resetServed p) s
    (s.setFld rMgtPtnShape 0 0 23 8 Code.done).setFld rMgtPtnShape 0 0 7 7 0

/-- R25. -/
def execShapeChangeDone (s : State) : Res := s.live shapeChangeDone

/-- MEM_SLM_SPLIT_WRITE: the write is refused while a codec engine of the base dies holds an open session (R278). -/
def execMemSlmSplitWrite (p : Nat) (v : W32) (s : State) : Res :=
  s.live fun s => memSlmSplitWrite p v.toNat ((s.pt p).live.codec.any fun e => e.2.state == 1) s

/-! ### The PCIe link (R306, R307) -/

/-- Is the operating point of R306's table? Speeds are in GT/s encodings 4 (16), 5 (32) and 6 (64). -/
def ratedPoint (speed width : Nat) : Bool := (speed == 4 || speed == 5 || speed == 6) && (width == 8 || width == 16)

/-- PCIE_LINK_TRAINED: the link trains or retrains (R307). It cannot while PERST# is asserted or
before phase 2 of bring-up has ended (R573). -/
def pcieLinkTrained (speed width : Nat) (flit : Bool) (s : State) : State :=
  if s.mgmt.perst ∨ s.phaseOver 2 = false ∨ speed = 0 ∨ 6 < speed ∨ [1, 2, 4, 8, 16].contains width = false then s
  else
    let n := s.fld rMgtPcieLink 0 0 31 24
    let first := s.fld rMgtPcieLink 0 0 12 8 = 0
    let s := s.wr rMgtPcieLink 0 0 ((if first then n else satAdd 255 n 1) * 2 ^ 24 + (if flit then 65536 else 0) + width * 256 + speed * 2 + 1)
    if ratedPoint speed width then s else s.raiseM 0x004 (s.rd rMgtPcieLink 0 0) 0

/-- R307. -/
def execPcieLinkTrained (speed width : Nat) (flit : Bool) (s : State) : Res := s.live (pcieLinkTrained speed width flit)

/-! ### The host window (R314 to R316) -/

/-- Log a page in PTN_HOSTWIN_MISS (R315). -/
def State.winMiss (s : State) (p n : Nat) : State :=
  let c := s.fld rPtnHostwinMiss (p + 1) 0 63 48
  let s := if c = 0 then s.setFld rPtnHostwinMiss (p + 1) 0 47 18 n else s
  let s := s.setFld rPtnHostwinMiss (p + 1) 0 63 48 (satAdd 65535 c 1)
  if (s.page p n).state = 2 then s.upPage p n fun g => { g with promo := 1 } else s

/-- An access to the pages `ns` is not performed, for page `n`: every page of it in STORE state is queued as a PREFETCH (R315). -/
def State.winMissed (s : State) (p n : Nat) (ns : List Nat) : State :=
  ns.foldl (fun s k => if (s.page p k).state = 2 then s.upPage p k fun g => { g with promo := 1 } else s) (s.winMiss p n)

/-- A write of the window: bytes of a protected block are dropped, and the first page with one is logged (R174, R315). -/
def State.winWrite (s : State) (p : Nat) (ws : List BWrite) : State :=
  let j := (s.pt p).live
  let r := s.dvWrite p ws
  match ws.find? fun w => j.protected w.1 with
  | some w => r.1.winMiss p (pageOf w.1)
  | none => r.1

/-- The first of the pages that the access cannot act on: not resident, capped for a write, awaiting its drop, or one whose pins would pass
the quarter of the other units (R231, R315). -/
def State.winStop (s : State) (p : Nat) (write : Bool) (ns : List Nat) : Option Nat :=
  let frames := s.framesFor p (ns.filter fun n => (s.page p n).needsFrame write)
  ns.find? fun n => !s.admitsUnit p ns || !frames || match s.residOf p n write with
    | .pin => false
    | _ => true

/-- HOST_WINDOW_ACCESS (R314 to R316). A partition without an open job, a closed window, an address outside its DATA and KV
regions and a bound page are Unsupported Request; what lies beyond BAR4 does not reach the function (R312). One that reaches a partition in
L2 or L3 waits for the exit (R531). -/
def hostWindowAccess (p : Nat) (a : WinAccess) (s : State) : State :=
  let q := s.pt p
  let ur := fun (s : State) => (s.emit (.window p none)).noteUr (p + 1)
  let va := s.fld rPtnHostwin (p + 1) 0 47 30 * 2 ^ 30 + a.off
  let ns := pagesOf [(va, a.len)]
  if s.barSize (p + 1) 4 < a.off + a.len then s
  else if s.funcState p ≠ .ready ∨ s.tdiOpen (p + 1) = false ∨ s.fld rPtnHostwin (p + 1) 0 0 0 = 0 ∨ q.job = .noJob ∨ q.job = .opening ∨
      q.inRange [(va, a.len)] = false ∨ ns.any (fun n => (q.kind n != 1 && q.kind n != 3) || q.pageBound n) then ur s
  else
    let s := s.wake p
    match s.winStop p a.wr.isSome ns, a.wr with
    | some n, none => (s.winMissed p n ns).emit (.window p (some (List.replicate a.len 0xff#8)))
    | some n, some _ => s.winMissed p n ns
    | none, none =>
      match s.dvBadIn p [(va, a.len)] with
      | u :: _ => (s.meetBad p u).emit (.window p none)
      | [] =>
        let s := ns.foldl (fun s n => s.pinUnit p n false) s
        ns.foldl (fun s n => s.unpinUnit p n false) (s.emit (.window p (some (s.dvRead p va a.len))))
    | none, some bs =>
      if bs.length ≠ a.len then s
      else ns.foldl (fun s n => s.unpinUnit p n true) ((ns.foldl (fun s n => s.pinUnit p n true) s).winWrite p (bwrites va bs))

/-- R315. -/
def execHostWindowAccess (p : Nat) (a : WinAccess) (s : State) : Res := s.live (hostWindowAccess p a)

end Sys2Proof.Machine
end

