-- ==== Sys2Proof/Machine/Security.lean ====
section
/-! DEFINITION. Identity, attestation and isolation: DOE and SPDM, IDE, TDISP, SEC operations, link authentication, and
what authenticates a package (R318, R491 to R526). -/

namespace Sys2Proof.Machine

/-! ### Firmware and measurements (R491 to R500) -/

/-- Class `c` of firmware. -/
def State.fw (s : State) (c : Nat) : FwClass := Tbl.get {} s.sec.fw c

/-- The image that runs. -/
def FwClass.running (c : FwClass) : FwSlot := c.image

/-- Fused version of class `c` (SEC_SVN). DEDUCED, log entry 29. -/
def State.svn (s : State) (c : Nat) : Nat := s.fld rSecSvn 0 0 (8 * c + 7) (8 * c)

/-- The digest of the firmware that runs in class `c`. -/
def State.fwDigest (s : State) (c : Nat) : Nat := (s.fw c).running.digest.toNat

/-- The certificate chain of slot 0. -/
def State.chain (s : State) : Bytes := Config.certChain (s.fwDigest 1) (s.fwDigest 2)

/-- Block 16 + p: the partition's job (R499). DEDUCED, log entry 83. -/
def State.jobBlock (s : State) (p : Nat) : Bytes :=
  let q := s.pt p
  if s.present p = false ∨ q.job = .noJob then List.replicate 72 0#8
  else beBytes 32 q.info.progDigest ++ beBytes 32 q.info.weightDigest ++ leBytes 4 q.info.keyHandle ++
    leBytes 4 (if q.info.bound then 1 else 0)

/-- Measurement block `i` (R499). -/
def State.measure (s : State) (i : Nat) : Option Bytes :=
  if i = 1 then some Config.romDigest
  else if 2 ≤ i ∧ i ≤ 6 then some (beBytes 32 (s.fwDigest (i - 1)))
  else if i = 7 then some (leBytes 8 (s.rd rSecSvn 0 0) ++ leBytes 8 (s.rd rSecStatus 0 0))
  else if i = 8 then some (Config.partBlock s.store.serial s.store.variant32)
  else if i = 9 then some (Config.tableDigest
    (((List.range 8).map fun n => Tbl.get 0 s.sec.pubKeys n) ++ s.sec.jobKeys.flatMap fun e => [e.1, e.2.mask]))
  else if 16 ≤ i ∧ i ≤ 19 then some (s.jobBlock (i - 16))
  else none

/-- The indices of measurement blocks. -/
def measureIndices : List Nat := [1, 2, 3, 4, 5, 6, 7, 8, 9, 16, 17, 18, 19]

/-- OpaqueData of a signed response: the tag, COUNT and HEAD (R500, R524). -/
def State.opaqueData (s : State) : Bytes :=
  leBytes 4 0x474F4C52 ++ leBytes 4 0 ++ leBytes 8 s.log.count ++ s.logHead

/-! ### DOE and SPDM (R318, R498) -/

/-- Bytes as numbers. -/
def byteNats (bs : Bytes) : List Nat := bs.map (·.toNat)

/-- The responder's answer lies in the DOE mailbox and goes out; with DOE's interrupt enabled, vector 0 of PF0 says so (R317). PRESUMED, log
entry 80. -/
def State.answer (s : State) (kind : String) (ws : List Nat) : State :=
  let s := { s with sec := { s.sec with spdm := { s.sec.spdm with response := some ws } } }.emit (.message kind 0 ws)
  if bits (s.cfgRd 0 0x2C8) 1 1 = 1 then s.msix 0 0 else s

/-- An object of an unsupported protocol or over 16 KiB sets DOE Error and is discarded (R318). -/
def State.doeError (s : State) : State :=
  { s with sec := { s.sec with spdm := { s.sec.spdm with error := true } } }.emit (.message "DOE_ERROR" 0 [])

/-- The object in progress is discarded, and DOE Error is cleared (R318). PRESUMED, log entry 80. -/
def State.doeAbort (s : State) : State :=
  { s with sec := { s.sec with spdm := { s.sec.spdm with response := none, error := false, inbox := [] } } }

/-- Is a data object one that the mailbox takes: of a supported protocol, and of no more than 16 KiB (R318)? Its first word holds the vendor and
the type, its second the length in words. PRESUMED, log entry 80. -/
def doeTakes (ws : List W32) : Bool :=
  let h := (ws.getD 0 0).toNat
  let n := bits (ws.getD 1 0).toNat 17 0
  bits h 15 0 == 1 && decide (bits h 23 16 ≤ 2) && decide (2 ≤ n) && decide (n ≤ 4096) && ws.length == n

/-- The object written to the mailbox is handed over. What it carries is a command of its own. -/
def State.doeGo (s : State) : State :=
  let ws := s.sec.spdm.inbox
  let s := { s with sec := { s.sec with spdm := { s.sec.spdm with inbox := [] } } }
  if doeTakes ws then s else s.doeError

/-- ERROR with a code. -/
def State.spdmError (s : State) (code : Nat) : State := s.answer "ERROR" [code]

/-- A signature under the alias key: its bytes are the signer's (R497, R498). -/
def State.sign (s : State) (kind : String) (ws : List Nat) : State :=
  let r := s.freshW64
  r.2.answer kind (ws ++ [r.1.toNat])

/-- DOE_DISCOVERY: the protocols are Discovery, CMA/SPDM and Secured CMA/SPDM (R318). -/
def execDoeDiscovery (idx : Nat) (s : State) : Res :=
  s.live fun s =>
    if idx ≤ 2 then s.answer "DOE_DISCOVERY" [1, idx, if idx = 2 then 0 else idx + 1]
    else s.answer "DOE_DISCOVERY" [0xffff, 0, 0]

/-- DOE_ABORT discards the object in progress, and clears DOE Error (R318). -/
def execDoeAbort (s : State) : Res := s.live State.doeAbort

/-- The connection reaches a stage. -/
def State.spdmStage (s : State) (n : Nat) : State :=
  { s with sec := { s.sec with spdm := { s.sec.spdm with stage := n } } }

/-- GET_VERSION: SPDM 1.2 (R498). -/
def execGetVersion (s : State) : Res := s.live fun s => (s.spdmStage 1).answer "VERSION" [0x12]

/-- Capability flags of R498: CERT, CHAL, MEAS with signature, MEAS_FRESH, ENCRYPT, MAC, KEY_EX, HBEAT, KEY_UPD. -/
def spdmCaps : Nat := 0x62F6

/-- GET_CAPABILITIES (R498). -/
def execGetCapabilities (_flags : W32) (s : State) : Res :=
  s.live fun s => if s.sec.spdm.stage = 0 then s.spdmError 4 else (s.spdmStage 2).answer "CAPABILITIES" [spdmCaps]

/-- NEGOTIATE_ALGORITHMS: SHA-256, RSASSA-PSS 3072, FFDHE3072 and AES-256-GCM are the only choices (R498). -/
def execNegotiateAlgorithms (hash asym dhe aead : W32) (s : State) : Res :=
  s.live fun s =>
    if s.sec.spdm.stage < 2 then s.spdmError 4
    else if bits hash.toNat 0 0 = 0 ∨ bits asym.toNat 3 3 = 0 ∨ bits dhe.toNat 1 1 = 0 ∨ bits aead.toNat 1 1 = 0 then s.spdmError 1
    else (s.spdmStage 3).answer "ALGORITHMS" [1, 8, 2, 2]

/-- A request that needs the algorithms agreed. -/
def State.spdmReady (s : State) (f : State → State) : State := if s.sec.spdm.stage < 3 then s.spdmError 4 else f s

/-- A request that needs a signature: without an alias key it gets ERROR (R495). -/
def State.spdmSigned (s : State) (f : State → State) : State :=
  s.spdmReady fun s => if s.sec.hasAlias then f s else s.spdmError 5

/-- GET_DIGESTS (R498). -/
def execGetDigests (s : State) : Res :=
  s.live fun s => s.spdmReady fun s => s.answer "DIGESTS" (byteNats (sha256 s.chain))

/-- GET_CERTIFICATE: slot 0 only (R497, R498). -/
def execGetCertificate (slot off len : Nat) (s : State) : Res :=
  s.live fun s => s.spdmReady fun s =>
    if slot ≠ 0 ∨ s.chain.length < off then s.spdmError 1
    else
      let part := (s.chain.drop off).take len
      s.answer "CERTIFICATE" ([part.length, s.chain.length - off - part.length] ++ byteNats part)

/-- CHALLENGE (R498, R500). -/
def execChallenge (slot : Nat) (nonce : BitVec 256) (s : State) : Res :=
  s.live fun s => s.spdmSigned fun s =>
    if slot ≠ 0 then s.spdmError 1
    else s.sign "CHALLENGE_AUTH" (byteNats (sha256 s.chain) ++ [nonce.toNat] ++ byteNats s.opaqueData)

/-- GET_MEASUREMENTS: index 0 asks for the number of blocks, 0xFF for all of them; the blocks and the log values are
taken at one instant (R499, R500, R526). -/
def getMeasurements (index : Nat) (sign : Bool) (nonce : BitVec 256) (s : State) : State :=
  let block := fun i => [i] ++ byteNats ((s.measure i).getD [])
  let body :=
    if index = 0 then some [measureIndices.length]
    else if index = 0xff then some (measureIndices.flatMap block)
    else if (s.measure index).isSome then some (block index)
    else none
  match body with
  | none => s.spdmError 1
  | some ws =>
    if sign = false then s.answer "MEASUREMENTS" ws
    else s.spdmSigned fun s => s.sign "MEASUREMENTS" (ws ++ [nonce.toNat] ++ byteNats s.opaqueData)

/-- R499. -/
def execGetMeasurements (index : Nat) (sign : Bool) (nonce : BitVec 256) (s : State) : Res :=
  s.live fun s => s.spdmReady fun s => getMeasurements index sign nonce s

/-- Sessions become `f` of themselves. -/
def State.upSessions (s : State) (f : Tbl (Bool × Nat) → Tbl (Bool × Nat)) : State :=
  { s with sec := { s.sec with spdm := { s.sec.spdm with sessions := f s.sec.spdm.sessions } } }

/-- A free responder half of a session number, 0 to 3. -/
def State.freeSession (s : State) : Option Nat :=
  [0, 1, 2, 3].find? fun i => s.sec.spdm.sessions.all fun e => e.1 / 65536 != i

/-- KEY_EXCHANGE: up to 4 sessions (R498). An object over 16 KiB is discarded with DOE Error (R318). -/
def execKeyExchange (reqSession : Nat) (share : Bytes) (s : State) : Res :=
  s.live fun s => if 16384 < share.length then s.doeError else s.spdmSigned fun s =>
    if share.length ≠ 384 then s.spdmError 1
    else match s.freeSession with
      | none => s.spdmError 0x0a
      | some i =>
        let id := reqSession % 65536 + 65536 * i
        (s.upSessions fun t => Tbl.put t id (false, 0)).sign "KEY_EXCHANGE_RSP" [id]

/-- A message inside an established session; another gets ERROR. -/
def State.inSession (s : State) (session : Nat) (f : State → State) : State :=
  match Tbl.find s.sec.spdm.sessions session with
  | some (true, _) => f s
  | _ => s.spdmError 2

/-- FINISH: the handshake ends with the requester's MAC (R498). -/
def execFinish (session : Nat) (macOk : Bool) (s : State) : Res :=
  s.live fun s => match Tbl.find s.sec.spdm.sessions session with
    | some (false, n) =>
      if macOk then (s.upSessions fun t => Tbl.put t session (true, n)).answer "FINISH_RSP" [session]
      else (s.upSessions fun t => Tbl.del t session).spdmError 6
    | _ => s.spdmError 2

/-- HEARTBEAT (R498). -/
def execHeartbeat (session : Nat) (s : State) : Res :=
  s.live fun s => s.inSession session fun s => s.answer "HEARTBEAT_ACK" [session]

/-- KEY_UPDATE: operations 1 to 3 update the requester's key, update all keys, and verify the new key (R498). -/
def execKeyUpdate (session op : Nat) (s : State) : Res :=
  s.live fun s => s.inSession session fun s =>
    if op = 0 ∨ 3 < op then s.spdmError 1
    else
      let n := (Tbl.get (true, 0) s.sec.spdm.sessions session).2
      (s.upSessions fun t => Tbl.put t session (true, if op = 3 then n else n + 1)).answer "KEY_UPDATE_ACK" [session, op]

/-- END_SESSION (R498). -/
def execEndSession (session : Nat) (s : State) : Res :=
  s.live fun s => s.inSession session fun s => (s.upSessions fun t => Tbl.del t session).answer "END_SESSION_ACK" [session]

/-- VENDOR_DEFINED_REQUEST: only the PCI-SIG registry, and only inside a session (R498); the IDE_KM or TDISP message it
carries is a command of its own. An object over 16 KiB is discarded with DOE Error (R318). -/
def execVendorDefinedRequest (session registry : Nat) (payload : Bytes) (s : State) : Res :=
  s.live fun s =>
    if 16384 < payload.length then s.doeError
    else s.inSession session fun s =>
      if registry = 3 then s.answer "VENDOR_DEFINED_RESPONSE" [session] else s.spdmError 7

/-! ### IDE (R501) -/

/-- Stream `n`. -/
def State.ide (s : State) (n : Nat) : IdeStream := Tbl.get {} s.sec.ide n

/-- That stream becomes `f` of itself. -/
def State.upIde (s : State) (n : Nat) (f : IdeStream → IdeStream) : State :=
  { s with sec := { s.sec with ide := Tbl.set {} s.sec.ide n (f (s.ide n)) } }

/-- QUERY reports the link stream and the eight selective streams: whether each is Secure. -/
def execQuery (session _port : Nat) (s : State) : Res :=
  s.live fun s => s.inSession session fun s =>
    s.answer "QUERY_RESP" ((List.range 9).map fun n => if (s.ide n).secure then 1 else 0)

/-- A key change: it takes effect with its log entry, or is refused (R518, R521). DEDUCED, log entry 84. -/
def State.ideChange (s : State) (stream sub set : Nat) (ok : Bool) (f : State → State) : State :=
  if 9 ≤ stream ∨ 2 ≤ sub ∨ 2 ≤ set ∨ ok = false then s.answer "KP_ACK" [1]
  else s.logged (stream * 65536) 2 0 (sub * 2 + set) (fun s => (f s).answer "KP_ACK" [0]) (fun s => s.answer "KP_ACK" [1])

/-- KEY_PROG. -/
def execKeyProg (session stream sub keySet : Nat) (key : BitVec 256) (iv : BitVec 96) (s : State) : Res :=
  s.live fun s => s.inSession session fun s => s.ideChange stream sub keySet true fun s =>
    s.upIde stream fun x => { x with keys := Tbl.put x.keys (sub * 2 + keySet) (key.toNat * 2 ^ 96 + iv.toNat) }

/-- K_SET_GO: the key set comes into use in its sub-stream, and the stream is Secure. -/
def execKSetGo (session stream sub keySet : Nat) (s : State) : Res :=
  s.live fun s => s.inSession session fun s =>
    s.ideChange stream sub keySet (Tbl.find (s.ide stream).keys (sub * 2 + keySet)).isSome fun s =>
      s.upIde stream fun x => { x with secure := true, active := (sub * 2 + keySet) :: x.active.filter fun k => k / 2 != sub }

/-- K_SET_STOP: the key set goes out of use; a stream without one is Insecure. -/
def execKSetStop (session stream sub keySet : Nat) (s : State) : Res :=
  s.live fun s => s.inSession session fun s => s.ideChange stream sub keySet true fun s =>
    s.upIde stream fun x =>
      let left := x.active.filter fun k => k != sub * 2 + keySet
      { x with keys := Tbl.del x.keys (sub * 2 + keySet), active := left, secure := x.secure && left != [] }

/-- IDE_INTEGRITY_FAILURE: the stream becomes Insecure, and the locked or running TDIs whose stream it is go to ERROR
(R501, R504). -/
def execIdeIntegrityFailure (stream : Nat) (s : State) : Res :=
  s.live fun s =>
    let s := s.upIde stream ideFailed
    [1, 2, 3, 4].foldl (fun s fn =>
      if (s.tdi fn).stream = stream ∧ ((s.tdi fn).state = 1 ∨ (s.tdi fn).state = 2) then s.setTdi fn 3 else s) s

/-! ### TDISP (R502 to R504) -/

/-- A TDISP message about function `fn`, inside a session. PRESUMED, log entry 81. -/
def State.tdisp (s : State) (session fn : Nat) (f : State → State) : State :=
  s.inSession session fun s => if fn = 0 ∨ 4 < fn then s.answer "TDISP_ERROR" [0x101] else f s

/-- GET_TDISP_VERSION: 1.0. -/
def execGetTdispVersion (session fn : Nat) (s : State) : Res :=
  s.live fun s => s.tdisp session fn fun s => s.answer "TDISP_VERSION" [0x10]

/-- GET_TDISP_CAPABILITIES: the seven messages of R502. -/
def execGetTdispCapabilities (session fn : Nat) (s : State) : Res :=
  s.live fun s => s.tdisp session fn fun s => s.answer "TDISP_CAPABILITIES" [0x81, 0x82, 0x83, 0x84, 0x85, 0x86, 0x87]

/-- LOCK_INTERFACE_REQUEST: refused for an absent partition and for a function without a selective stream in Secure state
(R501, R502); `nonce` is the one the module draws. COUNT and HEAD are those after the lock's own entry (R503, R521). DEDUCED, log entry 82. -/
def lockInterface (fn stream : Nat) (nonce : BitVec 256) (s : State) : State :=
  if (s.tdi fn).state ≠ 0 then s.answer "TDISP_ERROR" [4]
  else if s.present (fn - 1) = false ∨ stream = 0 ∨ 8 < stream ∨ ideFunction (s.ide stream) ≠ some fn ∨ (s.ide stream).secure = false ∨
      s.canLog = false then
    s.answer "TDISP_ERROR" [1]
  else
    let s := { s with sec := { s.sec with tdi := Tbl.set {} s.sec.tdi fn { s.tdi fn with stream := stream, nonce := nonce.toNat } } }
    let s := s.setTdi fn 1
    let s := { s with sec := { s.sec with tdi := Tbl.set {} s.sec.tdi fn { s.tdi fn with count := s.log.count, head := s.logHead } } }
    s.answer "LOCK_INTERFACE_RESPONSE" [nonce.toNat]

/-- R502. -/
def execLockInterfaceRequest (session fn stream : Nat) (nonce : BitVec 256) (s : State) : Res :=
  s.live fun s => s.tdisp session fn fun s => lockInterface fn stream nonce s

/-- The interface report: BAR0, BAR2 and BAR4 ranges, the MSI-X table and pending bits, and the 128 bytes of device
information (R503, R312, R317). -/
def State.report (s : State) (fn : Nat) : Bytes :=
  let t := s.tdi fn
  leBytes 8 (s.barSize fn 0) ++ leBytes 8 (s.barSize fn 2) ++ leBytes 8 (s.barSize fn 4) ++ leBytes 8 0x1F00000 ++ leBytes 8 0x1F80000 ++
    leBytes 1 (fn - 1) ++ leBytes 1 (s.fld rMgtPtnShape 0 0 3 2) ++ leBytes 6 0 ++ leBytes 8 t.count ++ t.head ++
    s.jobBlock (fn - 1) ++ leBytes 8 0

/-- GET_DEVICE_INTERFACE_REPORT: only of a locked or running TDI (R503). -/
def execGetDeviceInterfaceReport (session fn off len : Nat) (s : State) : Res :=
  s.live fun s => s.tdisp session fn fun s =>
    if (s.tdi fn).state ≠ 1 ∧ (s.tdi fn).state ≠ 2 then s.answer "TDISP_ERROR" [4]
    else if (s.report fn).length < off then s.answer "TDISP_ERROR" [1]
    else
      let part := ((s.report fn).drop off).take len
      s.answer "DEVICE_INTERFACE_REPORT" ([part.length, (s.report fn).length - off - part.length] ++ byteNats part)

/-- GET_DEVICE_INTERFACE_STATE. -/
def execGetDeviceInterfaceState (session fn : Nat) (s : State) : Res :=
  s.live fun s => s.tdisp session fn fun s => s.answer "DEVICE_INTERFACE_STATE" [(s.tdi fn).state]

/-- START_INTERFACE_REQUEST: a locked TDI moves to RUN if the nonce is the lock's and its stream has keys in both
sub-streams (R502). -/
def startInterface (fn : Nat) (nonce : BitVec 256) (s : State) : State :=
  let t := s.tdi fn
  if t.state ≠ 1 then s.answer "TDISP_ERROR" [4]
  else if nonce.toNat ≠ t.nonce then s.answer "TDISP_ERROR" [0x102]
  else if [0, 1].all (fun sub => (s.ide t.stream).keys.any fun k => k.1 / 2 == sub) = false ∨ s.canLog = false then
    s.answer "TDISP_ERROR" [1]
  else (s.setTdi fn 2).answer "START_INTERFACE_RESPONSE" []

/-- R502. -/
def execStartInterfaceRequest (session fn : Nat) (nonce : BitVec 256) (s : State) : Res :=
  s.live fun s => s.tdisp session fn fun s => startInterface fn nonce s

/-- STOP_INTERFACE_REQUEST: the TDI returns to CONFIG_UNLOCKED and its partition's job is discarded as an FLR would (R504). -/
def execStopInterfaceRequest (session fn : Nat) (s : State) : Res :=
  s.live fun s => s.tdisp session fn fun s =>
    let s := if (s.tdi fn).state = 0 then s else (s.setTdi fn 0).startDiscard (fn - 1) 2
    s.answer "STOP_INTERFACE_RESPONSE" []

/-- TDI_PROTECTED_WRITE: a write to a locked or running function's base address registers, Command register or MSI-X
capability moves its TDI to ERROR (R504). -/
def execTdiProtectedWrite (fn : Nat) (s : State) : Res :=
  s.live fun s => if (s.tdi fn).state = 1 ∨ (s.tdi fn).state = 2 then s.setTdi fn 3 else s

/-! ### Signed envelopes (R492, R493) -/

/-- Body and envelope of an image or package. -/
def bodyOf (img : Bytes) : Bytes := img.take (img.length - 1024)
/-- See `bodyOf`. -/
def envOf (img : Bytes) : Bytes := img.drop (img.length - 1024)

/-- A little-endian field of a byte string. -/
def bfld (bs : Bytes) (o n : Nat) : Nat := leNat ((bs.drop o).take n)

/-- BODY_DIGEST as a number. -/
def bodyDigest (img : Bytes) : Nat := beNat (sha256 (bodyOf img))

/-- Does the envelope verify, with `keyOk` the accepted key hashes (R493)? -/
def envelopeOk (img : Bytes) (cls : Nat) (sigOk : Bool) (keyOk : Nat → Bool) : Bool :=
  let e := envOf img
  decide (1024 ≤ img.length) && bfld e 0 4 == 0x53475947 && bfld e 4 2 == cls && leNat (e.drop 0x330) == 0 &&
  bfld e 8 8 + 1024 == img.length && sigOk && keyOk (beNat (sha256 ((e.drop 0x30).take 384))) &&
  (e.drop 0x10).take 32 == sha256 (bodyOf img)

/-- SVN of the envelope. -/
def envSvn (img : Bytes) : Nat := bfld (envOf img) 6 2

/-- Is this the hash of a firmware key that is not revoked (R493)? -/
def State.firmwareKey (s : State) (h : Nat) : Bool :=
  [0, 1, 2, 3].any fun i => Config.ruiloKey i == h && s.fld rSecStatus 0 0 (12 + i) (12 + i) == 0

/-- Is this hash in the publisher key table (R511)? -/
def State.publisherKey (s : State) (h : Nat) : Bool := s.sec.pubKeys.any fun e => e.2 == h

/-! ### SEC operations (R495, R511, R515, R516, R520, R523) -/

/-- RESULT of the last operation. -/
def State.secResult (s : State) (c : Nat) : State := s.setFld rSecOp 0 0 63 48 c

/-- A SEC operation: SEC_OP takes the write; `f` runs when OP is `op`; each ends at once (DESIGN CHOICE, log entry 44). -/
def State.secOp (s : State) (op : Nat) (v : W64) (f : State → State) : State :=
  if bits v.toNat 3 0 ≠ op then s
  else f ((((s.unstage rSecOp 0 0).setFld rSecOp 0 0 39 32 (bits v.toNat 39 32)).setFld rSecOp 0 0 31 8 (bits v.toNat 31 8)).setFld rSecOp 0 0 3 0 op)

/-- An accepted operation is logged, or refused with RESOURCE_HELD (R518, R521). -/
def State.secLogged (s : State) (op old new : Nat) (f : State → State) : State :=
  s.logged op 1 old new (fun s => (f s).secResult Code.done) fun s => s.secResult Code.resourceHeld

/-- ARG of a SEC operation. -/
def secArg (v : W64) : Nat := bits v.toNat 39 32

/-- Alias keys for pairs of class 1 and class 2 slot contents, up to four (R495). -/
def Sec.addPairs (c : Sec) : Sec :=
  let one := Tbl.get {} c.fw 1
  let two := Tbl.get {} c.fw 2
  let ds := fun (x : FwClass) => ([x.a, x.b].filter FwSlot.verified).map fun y => y.digest.toNat
  { c with pairs := (ds one).flatMap fun a => (ds two).map fun b => (a, b) }

/-- FW_STAGE: a verified image goes into the older slot of its class, which becomes the newer one (R495). -/
def fwStage (v : W64) (image : Bytes) (sig : SigVerdict) (s : State) : State :=
  let c := secArg v
  if c = 0 ∨ 5 < c ∨ image.length ≠ bits v.toNat 31 8 * 1024 ∨ image.length < 1024 then s.secResult Code.invalidOperand
  else if envelopeOk image c sig.sigOk s.firmwareKey = false then s.secResult Code.authFailed
  else if envSvn image < s.svn c then s.secResult Code.svnRollback
  else
    let x := s.fw c
    let d := bodyDigest image
    s.secLogged 1 0 (d / 2 ^ 192) fun s =>
      let slot := fun (n : Nat) => ({ staging := n, svn := envSvn image, verified := true, digest := BitVec.ofNat 256 d } : FwSlot)
      let x := if x.a.staging < x.b.staging then { x with a := slot (x.b.staging + 1) } else { x with b := slot (x.a.staging + 1) }
      let sec := { s.sec with fw := Tbl.put s.sec.fw c x }
      { s with sec := if c ≤ 2 then sec.addPairs else sec }

/-- R495. -/
def execFwStage (v : W64) (image : Bytes) (sig : SigVerdict) (s : State) : Res :=
  s.live fun s => s.secOp 1 v fun s => fwStage v image sig s

/-- Is the image that runs that of the newer slot? An image staged since is newer. -/
def FwClass.newer (x : FwClass) : Bool := decide (x.a.staging ≤ x.image.staging) && decide (x.b.staging ≤ x.image.staging)

/-- SVN_COMMIT: the fuse, of 64 bits, rises to the running image's SVN, which must be from the newer slot (R494, R523). -/
def execSvnCommit (v : W64) (s : State) : Res :=
  s.live fun s => s.secOp 2 v fun s =>
    let c := secArg v
    if c = 0 ∨ 5 < c ∨ (s.fw c).newer = false then s.secResult Code.invalidOperand
    else
      let n := Nat.max (s.svn c) (Nat.min 64 (s.fw c).running.svn)
      s.secLogged 2 (s.svn c) n fun s => s.setFld rSecSvn 0 0 (8 * c + 7) (8 * c) n

/-- Is handle `h` used by an open job? -/
def State.handleUsed (s : State) (h : Nat) : Bool :=
  (List.range 4).any fun p => (s.pt p).job != .noJob && (s.pt p).info.keyHandle == h

/-- JOBKEY_LOAD (R516). -/
def jobkeyLoad (blob : Bytes) (s : State) : State :=
  match Config.unwrapJobKey blob with
  | none => s.secResult Code.authFailed
  | some k =>
    let h := bfld k 32 1
    let m := bfld k 33 1 % 16
    if blob.length ≠ 384 ∨ k.length ≠ 48 ∨ h = 0 ∨ 63 < h ∨ leNat (k.drop 34) ≠ 0 then s.secResult Code.authFailed
    else if s.handleUsed h then s.secResult Code.resourceHeld
    else s.secLogged 3 (match Tbl.find s.sec.jobKeys h with | some e => h * 16 + e.mask | none => 0) (h * 16 + m) fun s =>
      { s with sec := { s.sec with jobKeys := Tbl.put s.sec.jobKeys h { key := beNat (k.take 32), mask := m } } }

/-- R516. -/
def execJobkeyLoad (v : W64) (blob : Bytes) (s : State) : Res := s.live fun s => s.secOp 3 v fun s => jobkeyLoad blob s

/-- JOBKEY_ERASE (R516). -/
def execJobkeyErase (v : W64) (s : State) : Res :=
  s.live fun s => s.secOp 4 v fun s =>
    let h := secArg v
    if h = 0 ∨ 63 < h then s.secResult Code.invalidOperand
    else if s.handleUsed h then s.secResult Code.resourceHeld
    else s.secLogged 4 (h * 16 + (Tbl.get {} s.sec.jobKeys h).mask) 0 fun s =>
      { s with sec := { s.sec with jobKeys := Tbl.del s.sec.jobKeys h } }

/-- PUBKEY_SET (R511). -/
def execPubkeySet (v : W64) (hash : BitVec 256) (s : State) : Res :=
  s.live fun s => s.secOp 5 v fun s =>
    if 7 < secArg v then s.secResult Code.invalidOperand
    else s.secLogged 5 (Tbl.get 0 s.sec.pubKeys (secArg v) / 2 ^ 192) (hash.toNat / 2 ^ 192) fun s =>
      { s with sec := { s.sec with pubKeys := Tbl.put s.sec.pubKeys (secArg v) hash.toNat } }

/-- PUBKEY_CLEAR (R511). -/
def execPubkeyClear (v : W64) (s : State) : Res :=
  s.live fun s => s.secOp 6 v fun s =>
    if 7 < secArg v then s.secResult Code.invalidOperand
    else s.secLogged 6 (Tbl.get 0 s.sec.pubKeys (secArg v) / 2 ^ 192) 0 fun s =>
      { s with sec := { s.sec with pubKeys := Tbl.del s.sec.pubKeys (secArg v) } }

/-- LOG_READ: COUNT entries from START are written to the buffer; it is not logged (R518, R520). -/
def execLogRead (v : W64) (s : State) : Res :=
  s.live fun s => s.secOp 7 v fun s =>
    let n := bits v.toNat 31 8
    let start := s.rd rSecOpArg2 0 0
    if n = 0 ∨ 65536 < n ∨ s.log.count < start + n ∨ start + s.log.entries.length < s.log.count then s.secResult Code.invalidOperand
    else
      let es := ((s.log.entries.reverse.drop (start - (s.log.count - s.log.entries.length))).take n).flatMap LogEntry.bytes
      (s.postHost (s.rd rSecOpAddr 0 0) es).secResult Code.done

/-- SEC_LOG_COUNT_READ: COUNT, and HEAD latched into SEC_LOG_HEAD0 to SEC_LOG_HEAD3 (R524). -/
def execSecLogCountRead (s : State) : Res :=
  s.live fun s =>
    let h := s.logHead
    let s := (List.range 4).foldl (fun s w => s.wr rSecLogHead 0 w (bfld h (8 * w) 8)) s
    s.emit (.readData 0 0x200100 8 (BitVec.ofNat 64 s.log.count))

/-! ### Link authentication (R392 to R394, R517) -/

/-- Link authentication at port `n`. -/
def State.lauth (s : State) (n : Nat) : LinkAuth := Tbl.get {} s.sec.auth n

/-- It becomes `f` of itself. -/
def State.upLauth (s : State) (n : Nat) (f : LinkAuth → LinkAuth) : State :=
  { s with sec := { s.sec with auth := Tbl.set {} s.sec.auth n (f (s.lauth n)) } }

/-- A failed authentication sets the port FAILED and raises LINK_AUTH (R517). -/
def State.linkAuthFailed (s : State) (n : Nat) : State :=
  ((s.upLauth n fun a => { tAuth := a.tAuth, peer := a.peer }).failPort n).raiseAt 0 0x051 n 0 Code.authFailed s.mgmt.beat

/-- A draw of 256 bits from the root of trust's generator. -/
def State.fresh256 (s : State) : Nat × State :=
  (List.range 4).foldl (fun (r : Nat × State) _ => let x := r.2.freshW64; (r.1 * 2 ^ 64 + x.1.toNat, x.2)) (0, s)

/-- A port begins to authenticate: it sends its AUTH_HELLO with a nonce of its own. -/
def State.startAuth (s : State) (n : Nat) : State :=
  let r := s.fresh256
  let s := (r.2.upLauth n fun a => { own := r.1, tAuth := a.tAuth, peer := a.peer }).setPState n PS.authenticating
  s.emit (.message "AUTH_HELLO" n [r.1, beNat (sha256 s.chain), s.chain.length])

/-- AUTH_HELLO: the peer's nonce, chain hash and length; the chain goes out in answer, in chunks of 256 bytes. -/
def execAuthHello (port : Nat) (nonce chainHash : BitVec 256) (chainLen : Nat) (s : State) : Res :=
  s.live fun s =>
    if s.pstate port ≠ PS.authenticating then s
    else ((List.range (ceilDiv s.chain.length 256)).foldl (fun t i =>
        t.emit (.message "AUTH_CERT" port (i :: byteNats ((s.chain.drop (256 * i)).take 256)))) (s.upLauth port fun a =>
          { stage := 1, own := a.own, nonce := nonce.toNat, hash := chainHash.toNat, len := chainLen, tAuth := a.tAuth, peer := a.peer }))

/-- AUTH_CERT: the next chunk of the peer's chain. -/
def execAuthCert (port chunk : Nat) (data : Bytes) (s : State) : Res :=
  s.live fun s =>
    let a := s.lauth port
    if s.pstate port ≠ PS.authenticating ∨ a.stage ≠ 1 ∨ chunk * 256 ≠ a.chain.length ∨ 256 < data.length ∨
        a.len < a.chain.length + data.length then s
    else s.upLauth port fun a => { a with chain := a.chain ++ data }

/-- AUTH_KEX: this end's public value and signature, whose bytes are the signer's (R497), go out; the peer's chain must be the one announced and lead to the root, its signature verify, and its fused versions
be no lower than the local ones (R517). -/
def authKex (n : Nat) (share : Bytes) (sigOk chainOk : Bool) (peerSvn : Nat) (s : State) : State :=
  let a := s.lauth n
  let old := [1, 2, 3, 4, 5].any fun c => decide (bits peerSvn (8 * c + 7) (8 * c) < s.svn c)
  if s.pstate n ≠ PS.authenticating ∨ a.stage ≠ 1 then s
  else if a.chain.length ≠ a.len ∨ beNat (sha256 a.chain) ≠ a.hash ∨ share.length ≠ 384 ∨ sigOk = false ∨ chainOk = false ∨
      old ∨ s.sec.hasAlias = false then s.linkAuthFailed n
  else
    let t := s.upLauth n fun a => { a with stage := 2, share := share, draw := s.free }
    let r := { t with free := t.free + 1 }.freshW64
    r.2.emit (.message "AUTH_KEX" n (byteNats (Config.kexShare s.free) ++ [r.1.toNat]))

/-- R517. -/
def execAuthKex (port : Nat) (share : Bytes) (sigOk chainOk : Bool) (peerSvn : W64) (s : State) : Res :=
  s.live (authKex port share sigOk chainOk peerSvn.toNat)

/-- One end's part of a transcript: its nonce, its chain's hash and length, its chain and its public value (R517). -/
def authPart (nonce hash len : Nat) (chain share : Bytes) : Bytes :=
  beBytes 32 nonce ++ beBytes 32 hash ++ leBytes 8 len ++ chain ++ share

/-- The transcript of the link authentication at port `n`, which both ends hold: the parts of both, that of the lower serial first (R392,
R517). DESIGN CHOICE, log entry 192. -/
def State.transcript (s : State) (n : Nat) : Bytes :=
  let a := s.lauth n
  let mine := authPart a.own (beNat (sha256 s.chain)) s.chain.length s.chain (Config.kexShare a.draw)
  let theirs := authPart a.nonce a.hash a.len a.chain a.share
  if s.mgmt.serial.toNat < Config.chainSerial a.chain then mine ++ theirs else theirs ++ mine

/-- The MAC of AUTH_FINISH at port `n` (R517). -/
def State.finishMac (s : State) (n : Nat) : Nat :=
  beNat (hmac (Config.finishKey (Config.linkSecret (s.lauth n).share (s.lauth n).draw)) (s.transcript n))

/-- Keys of the open jobs are installed again at a port (R393, R394). -/
def State.reinstallKeys (s : State) (n : Nat) : State :=
  (List.range 4).foldl (fun s p =>
    let k := (s.pt p).info.keyId
    if k = 0 then s else s.upPort n fun q => { q with keys := Tbl.put q.keys p (s.slotKeys n p k) }) s

/-- Key slot 4 of port `n`: the management key of each direction, from the shared secret (R517). RFC 5869 takes 32 zero bytes where no salt
is given. -/
def State.mgmtKeys (s : State) (n : Nat) (secret : Bytes) : KeySlot :=
  let salt := List.replicate 32 0#8
  { tx := s.portKey n secret salt "GY9650-MGMT" true, rx := s.portKey n secret salt "GY9650-MGMT" false }

/-- AUTH_FINISH: the transcript MAC is checked; the management key and the hop keys are derived, the flit counters restart with them, and the
port is UP, where KEY_READY goes out (R391 to R394, R517). -/
def authFinish (n : Nat) (mac : BitVec 256) (s : State) : State :=
  let a := s.lauth n
  if s.pstate n ≠ PS.authenticating ∨ a.stage ≠ 2 then s
  else if mac.toNat ≠ s.finishMac n then s.linkAuthFailed n
  else
    let s := s.emit (.message "AUTH_FINISH" n [s.finishMac n])
    let s := s.upLauth n fun a => { tAuth := beNat (sha256 (s.transcript n)), peer := Config.chainSerial a.chain }
    let s := s.upPort n fun q => { q with txCtr := 0, rxCtr := 0, rxLast := [], auth := (0, 0), ready := [] }
    let s := s.upPort n fun q => { q with keys := Tbl.put q.keys 4 (s.mgmtKeys n (Config.linkSecret a.share a.draw)) }
    ((s.reinstallKeys n).portUp n (s.port n).lanes).announceAt n

/-- R517. -/
def execAuthFinish (port : Nat) (mac : BitVec 256) (s : State) : Res := s.live (authFinish port mac)

end Sys2Proof.Machine
end

