-- ==== Sys2Proof/Machine/JobOpen.lean ====
section
/-! DEFINITION. JOB_OPEN, what its packages hold and how they are checked, buddy journaling and restore (R222 to R224,
R251, R343 to R345, R451 to R455, R507 to R516). -/

namespace Sys2Proof.Machine

/-! ### The program package (R343, R344) -/

/-- A section of a weight package (R512). -/
structure WSection where
  num : Nat
  region : Nat
  pageOff : Nat
  pages : Nat
  data : Nat
deriving DecidableEq, Repr

/-- What a program package asks for, once its fields have been read. -/
structure Plan where
  code : Bytes := []
  entries : List Nat := []
  regions : List Region := []
  cores : Nat := 0
  bars : List Nat := []
  scratch : Nat := 0
  seqBase : Nat := 0
  seqEntries : Nat := 0
  trqBase : Nat := 0
  trqEntries : Nat := 0
deriving DecidableEq, Repr

/-- The region descriptors of the package: base page, kind and pages; unused descriptors keep their place (R222). -/
def regionTable (b : Bytes) (off count : Nat) : List Region :=
  (List.range count).map fun i =>
    { base := bits (bfld b (off + 16 * i) 8) 47 18, kind := bits (bfld b (off + 16 * i) 8) 3 0,
      pages := bits (bfld b (off + 16 * i + 8) 8) 30 0 }

/-- Are the reserved fields of the region descriptors zero? -/
def regionReserved (b : Bytes) (off count : Nat) : Bool :=
  (List.range count).all fun i =>
    bits (bfld b (off + 16 * i) 8) 63 48 == 0 && bits (bfld b (off + 16 * i) 8) 17 4 == 0 && bits (bfld b (off + 16 * i + 8) 8) 63 31 == 0

/-- Does the region table keep R222 and R223? -/
def regionsOk (rs : List Region) : Bool :=
  let used := rs.filter fun r => r.kind != 0
  used.all (fun r => decide (r.kind ≤ 3) && decide (1 ≤ r.pages) && decide (r.pages ≤ 2 ^ 30) && decide (r.base + r.pages ≤ 2 ^ 30)) &&
  (List.range used.length).all fun i => (List.range i).all fun j =>
    let a := used.getD i {}
    let b := used.getD j {}
    decide (a.base + a.pages ≤ b.base) || decide (b.base + b.pages ≤ a.base)

/-- Is a barrier context entry valid in a partition of `k` dies (R343)? -/
def barrierOk (k e : Nat) : Bool :=
  bits e 30 5 == 0 && (bits e 31 31 == 0 || (bits e 2 1 != 0 && (bits e 0 0 == 1 || decide (bits e 4 3 < k))))

/-- Is `n` a power of two from 64 to 65,536? -/
def trqSize (n : Nat) : Bool := (List.range 11).any fun i => n == 2 ^ (i + 6)

/-- Have bytes `o` to `o + n` of the package been read? -/
def gotBytes (img : Bytes) (o n : Nat) : Bool := decide (o + n ≤ img.length)

/-- Has the field been read, and does it break its rule? -/
def fieldBad (img : Bytes) (o n : Nat) (ok : Nat → Bool) : Bool := gotBytes img o n && !ok (bfld img o n)

/-- Is a value from `lo` to `hi`? -/
def inSpan (lo hi v : Nat) : Bool := decide (lo ≤ v) && decide (v ≤ hi)

/-- What the bytes read of a program package ask for: `img` is its start, which is all of it when the read did not fail (R343). -/
def planOf (img : Bytes) : Plan :=
  let regOff := bfld img 0x18 4
  let regs := (List.range (bfld img 0x16 2)).filter fun i => gotBytes img (regOff + 16 * i) 16
  { code := (img.drop (bfld img 8 4)).take (bfld img 0x0C 4)
    entries := (List.range (bfld img 0x14 2)).map fun i => bfld img (bfld img 0x10 4 + 4 * i) 4
    regions := regionTable img regOff regs.length, cores := bfld img 0x1C 2
    bars := (List.range 8).map fun i => bfld img (bfld img 0x20 4 + 4 * i) 4
    scratch := bfld img 0x24 4, seqBase := bfld img 0x28 4, seqEntries := bfld img 0x2C 2, trqBase := bfld img 0x30 4,
    trqEntries := bfld img 0x34 4 }

/-- Do the fields of the program package's header that have been read break R343 or R344 step 1? -/
def headerBad (img : Bytes) : Bool :=
  ([(0x00, 4, (· == 0x4B505947)), (0x04, 2, (· == 1)), (0x06, 2, (· == 0)), (0x08, 4, (· % 64 == 0)), (0x0C, 4, inSpan 4 196608),
    (0x14, 2, inSpan 1 256), (0x16, 2, inSpan 1 16), (0x18, 4, (· % 16 == 0)), (0x1C, 2, (1 ≤ ·)), (0x1E, 2, (· == 0)),
    (0x28, 4, (· % 64 == 0)), (0x2C, 2, inSpan 1 4096), (0x2E, 2, (· == 0)), (0x30, 4, (· % 64 == 0)), (0x34, 4, trqSize),
    (0x38, 8, (· == 0))] : List (Nat × Nat × (Nat → Bool))).any fun f => fieldBad img f.1 f.2.1 f.2.2

/-- Do its tables lie beyond the body of `n` bytes, as far as their places have been read? -/
def tablesBeyond (img : Bytes) (n : Nat) : Bool :=
  (gotBytes img 0x08 8 && decide (n < bfld img 0x08 4 + bfld img 0x0C 4)) ||
  (gotBytes img 0x10 6 && decide (n < bfld img 0x10 4 + 4 * bfld img 0x14 2)) ||
  (gotBytes img 0x16 6 && decide (n < bfld img 0x18 4 + 16 * bfld img 0x16 2)) ||
  (gotBytes img 0x20 4 && decide (n < bfld img 0x20 4 + 32))

/-- Do the tables' entries that have been read break R222, R223, R343 or R344 step 1? -/
def tablesBad (img : Bytes) (k : Nat) : Bool :=
  let x := planOf img
  (gotBytes img 0x10 6 && (List.range (bfld img 0x14 2)).any fun i =>
    fieldBad img (bfld img 0x10 4 + 4 * i) 4 fun e => decide (e < bfld img 0x0C 4) && e % 2 == 0) ||
  (gotBytes img 0x20 4 && (List.range 8).any fun i => fieldBad img (bfld img 0x20 4 + 4 * i) 4 (barrierOk k)) ||
  !regionReserved img (bfld img 0x18 4) x.regions.length || !regionsOk x.regions

/-- The program package's header and tables, of a package of `len` bytes of which `img` has been read, unless something read breaks R343 or R344
step 1. -/
def readProgram (img : Bytes) (len k : Nat) : Option Plan :=
  if headerBad img ∨ tablesBeyond img (len - 1024) ∨ tablesBad img k then none else some (planOf img)

/-! ### The weight package (R512, R513) -/

/-- The sections of a weight package of `len` bytes, of which `img` has been read, unless something read breaks R512 for the program's
regions. -/
def readWeights (img : Bytes) (len : Nat) (regions : List Region) : Option (List WSection) :=
  let body := len - 1024
  let n := bfld img 6 2
  let ws := ((List.range n).filter fun i => gotBytes img (16 + 16 * i) 16).map fun i =>
    let o := 16 + 16 * i
    ({ num := i, region := bfld img o 1, pageOff := bfld img (o + 4) 4, pages := bfld img (o + 8) 4, data := bfld img (o + 12) 4 * 4096 } : WSection)
  let apart := fun (x y : WSection) => x.region != y.region || decide (x.pageOff + x.pages ≤ y.pageOff) || decide (y.pageOff + y.pages ≤ x.pageOff)
  let bad :=
    fieldBad img 0 4 (· == 0x57505947) || fieldBad img 4 2 (· == 1) || fieldBad img 6 2 (inSpan 1 256) || fieldBad img 8 2 (inSpan 0 4096) ||
    fieldBad img 0x0A 6 (· == 0) || (gotBytes img 6 4 && decide (body < 16 + 16 * n + 416 * bfld img 8 2)) ||
    ws.any (fun w => bfld img (16 + 16 * w.num + 1) 3 != 0 || (regions.getD w.region {}).kind != 2 ||
      decide ((regions.getD w.region {}).pages < w.pageOff + w.pages) || decide (body < w.data + w.pages * 262144)) ||
    !(List.range ws.length).all (fun i => (List.range i).all fun j =>
        match ws[i]?, ws[j]? with
        | some x, some y => apart x y
        | _, _ => true)
  if bad then none else some ws

/-- WRAPS of a weight package. -/
def wraps (img : Bytes) : Nat := bfld (bodyOf img) 8 2

/-- The content key of a bound package, if this module is in its wrap table (R513). -/
def contentKey (img : Bytes) : Option Bytes :=
  let b := bodyOf img
  let base := 16 + 16 * bfld b 6 2
  match (List.range (wraps img)).find? fun i => beNat ((b.drop (base + 416 * i)).take 32) == Config.fingerprint with
  | some i => Config.unwrapContentKey ((b.drop (base + 416 * i + 32)).take 384)
  | none => none

/-- `n` blocks of key stream under a key schedule from a counter block (R513). PRESUMED, log entry 89. -/
def keyStream (keys : List Bytes) (ctr : Nat) : Nat → Bytes
  | 0 => []
  | n + 1 => aesBlock keys (beBytes 16 ctr) ++ keyStream keys (ctr + 1) n

/-- Page `i` of a section as it is loaded: decrypted under the content key of a bound package (R513). -/
def pageBytes (b : Bytes) (key : Option Bytes) (w : WSection) (i : Nat) : Bytes :=
  let raw := (b.drop (w.data + 262144 * i)).take 262144
  match key with
  | none => raw
  | some k =>
    (raw.zip (keyStream (aesKeys k) (beNat (leBytes 2 w.num ++ leBytes 4 i ++ leBytes 10 0)) 16384)).map fun x => x.1 ^^^ x.2

/-! ### The checks of R344 -/

/-- Pages of the program's regions of the kinds given. -/
def Plan.pages (x : Plan) (ok : Nat → Bool) : Nat := x.regions.foldl (fun n r => n + if ok r.kind then r.pages else 0) 0

/-- Frames of the save area and the tier table (R226, R254). -/
def Plan.sysFrames (x : Plan) (k : Nat) : Nat := 2 * ceilDiv (x.pages fun c => c != 0) 32768 + 8320 * k

/-- Scratchpad bytes needed (R344 step 3). -/
def Plan.need (x : Plan) : Nat := Nat.max x.scratch (Nat.max (x.seqBase + 64 * x.seqEntries) (x.trqBase + 64 + 8 * x.trqEntries))

/-- What an open has found: the program, the weight sections with their body and content key. -/
structure OpenFound where
  plan : Plan := {}
  sections : List WSection := []
  wbody : Bytes := []
  key : Option Bytes := none
  bound : Bool := false
  progDigest : Nat := 0
  weightDigest : Nat := 0
deriving DecidableEq, Repr

/-- May the job use KEY_HANDLE `h` (R510, R516)? -/
def State.handleOk (s : State) (p h : Nat) : Bool :=
  if h = 0 then s.fld rMemBuddyPtn 0 p 0 0 == 0
  else match Tbl.find s.sec.jobKeys h with
    | some k => bits k.mask p p == 1
    | none => false

/-- Step 3 of R344. -/
def State.limitOk (s : State) (p : Nat) (x : Plan) : Bool :=
  decide (x.need ≤ s.scratchSize p) && decide (x.cores ≤ 1280 * s.k) && (List.range x.cores).all (fun lc => s.mapped p lc) &&
  decide (s.allFrames p ≤ 2 * (s.allFrames p - x.sysFrames s.k))

/-- The checks of R344 in their order, on the bytes that could be read: the failing status with its cause, or what was
found. A package is read from its start; where fewer bytes than its length came, the read failed after them, and the checks that these bytes
already fail come before that failure. -/
def State.checkOpen (s : State) (p : Nat) (d : ADesc) (prog wpkg : Option Bytes) (psig wsig : Bool) : Except (Nat × Nat) OpenFound :=
  let len := bits (d.w 3) 31 0
  let wlen := d.w 5
  let h := bits (d.w 7) 31 0
  let img := (prog.getD []).take len
  let w := (wpkg.getD []).take wlen
  let failed : Except (Nat × Nat) OpenFound := .error (Code.aborted, 5)
  if len < 64 ∨ 268435456 < len ∨ len < 1088 ∨ (wlen ≠ 0 ∧ wlen < 1040) then .error (Code.invalidDescriptor, 0)
  else match readProgram img len s.k with
    | none => .error (Code.invalidDescriptor, 0)
    | some x =>
      let charge := x.pages fun c => c == 1 || c == 2
      let fits := fun (r : Except (Nat × Nat) OpenFound) =>
        if s.limitOk p x = false then .error (Code.limitExceeded, 0)
        else if s.canCharge p charge = false then .error (Code.poolExhausted, 0)
        else r
      let pok := envelopeOk img 0x10 psig s.publisherKey
      let tail := fun (r : Except (Nat × Nat) OpenFound) => if s.handleOk p h = false then .error (Code.authFailed, 0) else fits r
      let base : OpenFound := { plan := x, progDigest := bodyDigest img }
      if img.length < len then fits failed
      else if wlen = 0 then (if pok = false then .error (Code.authFailed, 0) else tail (.ok base))
      else match readWeights w wlen x.regions with
        | none => .error (Code.invalidDescriptor, 0)
        | some ws =>
          if pok = false then .error (Code.authFailed, 0)
          else if w.length < wlen then tail failed
          else if envelopeOk w 0x11 wsig s.publisherKey = false then .error (Code.authFailed, 0)
          else if wraps w = 0 then
            tail (.ok { base with sections := ws, wbody := bodyOf w, weightDigest := bodyDigest w })
          else match contentKey w with
            | none => .error (Code.authFailed, 0)
            | some k =>
              tail (.ok { base with sections := ws, wbody := bodyOf w, weightDigest := bodyDigest w, key := some k, bound := true })

/-! ### Setting up the job (R345, R507 to R509) -/

/-- key_id of a job key (R392). -/
def keyIdOf (key : Nat) : Nat := leNat ((hmac (beBytes 32 key) (ascii "GY9650-KEYID")).take 8)

/-- What JOB_OPEN fixes. -/
def OpenFound.info (f : OpenFound) (s : State) (d : ADesc) : JobInfo :=
  let x := f.plan
  let h := bits (d.w 7) 31 0
  { cores := x.cores, codeLen := x.code.length, entries := x.entries, regions := x.regions, scratch := x.scratch,
    seqBase := x.seqBase, seqEntries := x.seqEntries, trqBase := x.trqBase, trqEntries := x.trqEntries,
    seed := BitVec.ofNat 64 (d.w 6), keyHandle := h, keyId := if h = 0 then 0 else keyIdOf (Tbl.get {} s.sec.jobKeys h).key,
    progDigest := f.progDigest, weightDigest := f.weightDigest, bound := f.bound, sysFrames := x.sysFrames s.k }

/-- A barrier context as configured (R97, R343). -/
def barOf (e : Nat) : Bar :=
  { valid := bits e 31 31 == 1, whole := bits e 0 0 == 1, parts := bits e 2 1, die := bits e 4 3 }

/-- The job data of a new job: memories zero, generators seeded, the code in every dispatcher's memory, DATA pages in ZERO
state (R74, R223, R345, R507). -/
def State.freshJob (s : State) (p : Nat) (f : OpenFound) (seed : W64) : JobData :=
  let x := f.plan
  { pages := (x.regions.zip (List.range x.regions.length)).foldl (fun t r =>
      if r.1.kind = 1 then
        (List.range r.1.pages).foldl (fun t i => Tbl.put t (r.1.base + i) ({ state := 6, region := r.2 } : Page)) t
      else t) []
    cores := (List.range (1280 * s.k)).filterMap fun lc =>
      if s.mapped p lc then some (lc, ({ rng := seedOf seed lc } : Core)) else none
    disps := (List.range (4 * s.k)).map fun i => (i, ({ dlm := Memory.wrN [] 0x10000 x.code } : Disp))
    bars := (List.range 8).map fun c => (c, barOf (x.bars.getD c 0)) }

/-- One WEIGHTS page is loaded and capped; where no frame is free it goes to the store (R223, R245, R345). DEDUCED, log entry 88. -/
def State.loadPage (s : State) (p n region : Nat) (bs : Bytes) : State :=
  let s := s.upJob p fun j => { j with dv := j.dv.wrN (n * 262144) bs }
  match s.place p n with
  | some i => (s.takeFrame p n i fun g => { g with state := 1, dirty := true, region := region }).capPage p n
  | none => (s.upPage p n fun g => { g with state := 2, region := region, capped := true, touched := true, capWrite := true }).storeWrite p n 3

/-- The WEIGHTS pages, in package order, then those that no section covers, as zero (R512). -/
def State.loadWeights (s : State) (p : Nat) (f : OpenFound) : State :=
  let rs := f.plan.regions
  let s := f.sections.foldl (fun s w => (List.range w.pages).foldl (fun s i =>
    s.loadPage p ((rs.getD w.region {}).base + w.pageOff + i) w.region (pageBytes f.wbody f.key w i)) s) s
  (rs.zip (List.range rs.length)).foldl (fun s r =>
    if r.1.kind ≠ 2 then s
    else (List.range r.1.pages).foldl (fun s i =>
      if (s.page p (r.1.base + i)).state = 0 then s.loadPage p (r.1.base + i) r.2 [] else s) s) s

/-- Fresh HBM and store key pairs for the job (R507 to R509). -/
def State.drawJobKeys (s : State) (p : Nat) : State :=
  let s := s.drawHbmKey p
  { s with free := s.free + 1, sec := { s.sec with storeKeys := Tbl.put s.sec.storeKeys p (s.free + 1) } }

/-- The open's work, in the order of R345, up to the initial cut, which is due at the next boundary. -/
def State.setUpJob (s : State) (p : Nat) (d : ADesc) (f : OpenFound) : State :=
  let info := f.info s d
  let s := (s.drawJobKeys p).clearStores p
  let s := s.upPt p fun q => { q with info := info, live := s.freshJob p f info.seed, stepNo := 0, cutInit := true, cutEpoch := s.epoch }
  let s := s.charge p (f.plan.pages fun c => c == 1 || c == 2)
  let s := (List.range info.seqEntries).foldl (fun s n => s.syncSeq p n) s
  let s := s.loadWeights p f
  if info.keyHandle = 0 then s else s.installKeys p info.keyId

/-- JOB_OPEN (R343 to R345). -/
def jobOpen (p : Nat) (d : ADesc) (prog wpkg : Option Bytes) (psig wsig : SigVerdict) (s : State) : State :=
  if (s.pt p).job ≠ .noJob then (s.started p d).finish p d Code.resourceHeld 0 0 0
  else if (s.pt p).splitNew.isSome then s
  else
    let s := (s.started p d).setJob p .opening
    match s.checkOpen p d prog wpkg psig.sigOk wsig.sigOk with
    | .error (c, cause) => (s.setJob p .noJob).finish p d c cause 0 0
    | .ok f => s.setUpJob p d f

/-- R343. -/
def execJobOpen (p n : Nat) (prog wpkg : Option Bytes) (progSig wpkgSig : SigVerdict) (s : State) : Res :=
  s.live fun s => s.startRow p n 1 (fun _ => true) fun d s => jobOpen p d prog wpkg progSig wpkgSig s

/-! ### Buddy journaling (R451 to R453) -/

/-- Is address `a` another module of this hive? -/
def State.otherMember (s : State) (a : Nat) : Bool :=
  a / 16 == s.addr / 16 && a != s.addr && bits s.mgmt.members (a % 16) (a % 16) == 1

/-- MEM_BUDDY_PTNp is written (R451). DEDUCED, log entry 90. -/
def memBuddyWrite (p v : Nat) (s : State) : State :=
  let old := s.rd rMemBuddyPtn 0 p
  let new := if bits old 0 0 = 1 then setBits old 0 0 v else setBits (setBits old 47 31 (bits v 47 31)) 0 0 v
  let res := fun (c : Nat) (s : State) => s.setFld rMemBuddyPtn 0 p 63 48 c
  if s.present p = false then s
  else if bits v 0 0 = 1 ∧ (s.otherMember (bits new 47 36) = false ∨ bits new 33 31 < 2) then res Code.invalidOperand s
  else if (s.pt p).job ≠ .noJob then res Code.resourceHeld s
  else s.logged (0x5010C0 + 8 * p) 0 old new
    (fun s => res Code.done (s.wr rMemBuddyPtn 0 p (setBits new 2 1 (bits v 0 0)))) (res Code.resourceHeld)

/-- R451. -/
def execMemBuddyWrite (p : Nat) (v : W64) (s : State) : Res := 
  s.live fun s => if 4 ≤ p then s else memBuddyWrite p v.toNat (s.unstage rMemBuddyPtn 0 p)

/-- BUDDY_LOST: flushes return to the local store, and no record waits for the buddy, when the buddy has refused an image or has been unreachable for 256 beats (R453). -/
def buddyLost (p : Nat) (refused : Bool) (s : State) : State :=
  if p < 4 ∧ s.mirroring p ∧ (refused ∨ 256 ≤ (s.pt p).buddyGone) then
    { s with store := { s.store with mirrorWait := s.store.mirrorWait.filter fun r => r.mirrored != some p } }.setFld rMemBuddyPtn 0 p 2 1 2
  else s

/-- R453. -/
def execBuddyLost (p : Nat) (refused : Bool) (s : State) : Res := s.live (buddyLost p refused)

/-- Is the buddy of partition `p` without a route (R453)? -/
def State.buddyCut (s : State) (p : Nat) : Bool :=
  (s.route (s.fld rMemBuddyPtn 0 p 47 36) 0 noSpan noSpan none false).isNone

/-- At a boundary the beats without a route to the buddy are counted, and the 256th loses it (R453). -/
def State.buddyBoundary (s : State) (p : Nat) : State :=
  buddyLost p false (s.upPt p fun q => { q with buddyGone := if s.mirroring p && s.buddyCut p then q.buddyGone + 1 else 0 })

/-! ### Restore (R454, R455, R510) -/

/-- Is the partition without a job and without an enabled ring (R454)? -/
def State.vacant (s : State) (p : Nat) : Bool :=
  (s.pt p).func == .ready && (s.pt p).job == .noJob && (List.range 64).all fun n => !s.sqOn p n && !s.cqOn p n

/-- A page of the restored cut: its image lies at the buddy, so it stands in STORE state (R455). -/
def Page.atBuddy (g : Page) : Page :=
  if g.state = 0 ∨ g.state = 6 then { g with pins := 0, wpins := 0, opins := 0 }
  else { g.unframe 2 with pins := 0, wpins := 0, opins := 0, dirty := false, cow := false, snap := none, touched := false,
                          capWait := false, capWrite := false, img := 0 }

/-- The job is taken over: its journal, its last durable cut, and each ring's accepted count; its pages move home to this module's store in the
background (R455). -/
def State.takeOver (s : State) (p : Nat) (d : ADesc) (f : OpenFound) (h : BuddyCopy) : State :=
  let s := (s.drawJobKeys p).clearStores p
  let s := s.upPt p fun q =>
    { q with
      info := f.info s d, job := .running, func := .resetting, rolling := some s.lastBeat, resetKind := 3, paused := some s.lastBeat
      live := { h.cut.data with
        pages := h.cut.data.pages.map fun (e : Nat × Page) => (e.1, e.2.atBuddy)
        cores := h.cut.data.cores.map fun (e : Nat × Core) => (e.1, e.2.restored) }
      durable := some h.cut, pend := none, step := h.cut.step, stepNo := h.cut.stepNo, startOrd := h.startOrd
      used := (h.cut.data.pages.filter fun e => e.2.state != 0).length
      descs := h.descs.map fun x => x.rolled h.cut q.readyOrd
      journal := (h.journal.filter fun e => !e.written).map fun e => { e with slot := none } }
  let s := s.wr rMemCutDonePtn 0 p h.cut.beat
  let s := ((s.pt p).live.pages.filter fun e => e.2.state == 2).foldl (fun s e => s.storeWrite p e.1 4) s
  (List.range 64).foldl (fun s n => s.give rPtnSqNext (p + 1) n (Tbl.get 0 h.accepted n)) s

/-- The key under which a store key lies in escrow with a buddy, for K_J and the source's serial and partition (R510). -/
def escrowKey (key serial p : Nat) : Bytes :=
  hkdf (beBytes 32 key) (List.replicate 32 0#8) (ascii "GY9650-ESCROW" ++ leBytes 8 serial ++ leBytes 1 p) 32

/-- RESTORE_GO: MEM_RESTORE_PTNp is written (R454, R455). DESIGN CHOICE, log entry 45. -/
def restoreGo (p v : Nat) (held : Option BuddyCopy) (prog wpkg : Option Bytes) (psig wsig : SigVerdict) (s : State) : State :=
  let old := s.rd rMemRestorePtn 0 p
  let res := fun (c st : Nat) (s : State) => (s.setFld rMemRestorePtn 0 p 63 48 c).setFld rMemRestorePtn 0 p 2 1 st
  if s.present p = false then s
  else if bits v 0 0 = 0 then
    s.logged (0x501100 + 8 * p) 0 old (bits v 47 32 * 2 ^ 32) (fun s => s.setFld rMemRestorePtn 0 p 47 32 (bits v 47 32))
      (fun s => s.setFld rMemRestorePtn 0 p 63 48 Code.resourceHeld)
  else if s.otherMember (bits v 47 36) = false then s.setFld rMemRestorePtn 0 p 63 48 Code.invalidOperand
  else if s.vacant p = false then s.setFld rMemRestorePtn 0 p 63 48 Code.resourceHeld
  else s.logged (0x501100 + 8 * p) 0 old (bits v 47 32 * 2 ^ 32 + 1)
    (fun s =>
      let s := s.setFld rMemRestorePtn 0 p 47 32 (bits v 47 32)
      match held with
      | none => res Code.aborted 3 s
      | some h => match h.descs.find? fun d => d.opcode == 1 with
        | none => res Code.aborted 3 s
        | some d =>
          let key := (Tbl.get {} s.sec.jobKeys (bits (d.w 7) 31 0)).key
          match s.checkOpen p d prog wpkg psig.sigOk wsig.sigOk with
          | .error (c, _) => if c = Code.aborted then res c 3 s else res Code.authFailed 3 s
          | .ok f =>
            if Config.unwrapEscrow (escrowKey key h.serial (bits v 33 32)) = false then res Code.authFailed 3 s
            else
              let s := (s.takeOver p d f h).raiseP p 0x103 2 0
              res Code.done 2 (if bits (d.w 7) 31 0 = 0 then s else s.installKeys p (s.pt p).info.keyId))
    (fun s => s.setFld rMemRestorePtn 0 p 63 48 Code.resourceHeld)

/-- R455. -/
def execRestoreGo (p : Nat) (v : W64) (held : Option BuddyCopy) (prog wpkg : Option Bytes) (progSig wpkgSig : SigVerdict) (s : State) : Res :=
  s.live fun s => if 4 ≤ p then s else restoreGo p v.toNat held prog wpkg progSig wpkgSig (s.unstage rMemRestorePtn 0 p)

end Sys2Proof.Machine
end

