-- ==== Sys2Proof/Machine/Power.lean ====
section
/-! DEFINITION. Power, heat and wear: the governor, the ladder of power states, the power brake, temperature and ageing, and
the fall of power-good (R304, R527 to R549). -/

namespace Sys2Proof.Machine

/-! ### Draw histories (R535) -/

/-- Watts summed over the newest `n` beats of a history. -/
def runSum : Nat → List (Nat × Nat) → Nat
  | _, [] => 0
  | n, (k, w) :: t => Nat.min n k * w + runSum (n - k) t

/-- The newest `n` beats of a history. -/
def runTake : Nat → List (Nat × Nat) → List (Nat × Nat)
  | _, [] => []
  | n, (k, w) :: t => if n = 0 then [] else (Nat.min n k, w) :: runTake (n - k) t

/-- One more beat, in a history of `n`. -/
def runPush (n w : Nat) (h : List (Nat × Nat)) : List (Nat × Nat) :=
  runTake n (match h with
    | (k, v) :: t => if v = w then (k + 1, v) :: t else (1, w) :: h
    | [] => [(1, w)])

/-! ### Dies (R456, R537, R548) -/

/-- Has any core of die `d` a tile queued or in flight (R48)? -/
def State.busyDie (s : State) (d : Nat) : Bool :=
  (s.pt (d / s.k)).live.cores.any fun e =>
    s.gcore (d / s.k) e.1 / 1280 == d && !e.2.idle

/-- Has the die's ageing allowance been spent (R549)? -/
def State.exhausted (s : State) (d : Nat) : Bool := s.fld rPwrAgeCd 0 d 63 63 == 1

/-- Thermal ceiling of a die in MHz (R543). -/
def State.thermalCeil (s : State) (d : Nat) : Nat := 3600 - Tbl.get 0 s.power.thermal d

/-- A die's ceiling in MHz (R456, R537). -/
def State.ceiling (s : State) (d : Nat) : Nat :=
  Nat.max 2400 (Nat.min (s.fld rPwrCeiling 0 0 15 0) (Nat.min (if s.exhausted d then 3400 else 3600)
    (Nat.min (3600 - 50 * s.failedPhases d) (s.thermalCeil d))))

/-- Allowance of a die in beats, and beats in an hour (R548). -/
def allowanceBeats : Nat := 7699218750000
/-- See `allowanceBeats`. -/
def hourBeats : Nat := 878906250

/-- PWR_AGE_CDn takes a used count (R549). -/
def State.setAge (s : State) (d used : Nat) : State :=
  s.wr rPwrAgeCd 0 d ((if allowanceBeats ≤ used then 2 ^ 63 else 0) + (allowanceBeats - used) / hourBeats * 2 ^ 43 + used)

/-- The threshold that a used count has reached: 50, 10 or 0 percent left, as 1, 2, 3 (R549). -/
def ageLevel (used : Nat) : Nat :=
  if allowanceBeats ≤ used then 3 else if 9 * allowanceBeats ≤ 10 * used then 2 else if allowanceBeats ≤ 2 * used then 1 else 0

/-- One beat of ageing for die `d`, with AGEING at a threshold (R548, R549). -/
def State.ageDie (s : State) (d : Nat) : State :=
  let used := s.fld rPwrAgeCd 0 d 42 0
  if s.fld rPwrCdClock 0 d 15 0 ≤ 3400 ∨ allowanceBeats ≤ used then s
  else
    let s := s.setAge d (used + 1)
    let fuse := (used + 1) * 64 / allowanceBeats
    let s := s.upPower fun w => { w with fuse := Tbl.set 0 w.fuse d (Nat.max fuse (Tbl.get 0 w.fuse d)) }
    let l := ageLevel (used + 1)
    if Tbl.get 0 s.power.aged d < l then
      (s.upPower fun w => { w with aged := Tbl.set 0 w.aged d l }).raiseM 0x043 (s.fld rPwrAgeCd 0 d 56 43) 0
    else s

/-- Ageing at the boundary that ends a beat (R548). -/
def State.ageBoundary (s : State) : State := (List.range 4).foldl (fun s d => s.ageDie d) s

/-! ### Temperature (R543 to R547) -/

/-- Throttle, release and trip points of a sensor in °C; no trip point for the coolant (R543). -/
def tempPoints (x : Nat) : Nat × Nat × Option Nat :=
  if x < 0x50 then (100, 98, some 115) else if x < 0x5c then (95, 93, some 105) else if x = 0x5c then (85, 83, some 95)
  else if x = 0x5d then (110, 107, some 125) else if x = 0x5e then (40, 39, none) else (56, 55, none)

/-- TEMP of a sensor, signed, in units of 0.125 °C. -/
def State.temp (s : State) (x : Nat) : Int := toSigned 16 (s.fld rPwrTemp 0 x 15 0)

/-- The STATE that a sensor's sample gives it; between its release point and its throttle point a sensor keeps the one it
had (R543, R545). DESIGN CHOICE, log entry 27. -/
def State.nextTempState (s : State) (x : Nat) : Nat :=
  let r := tempPoints x
  let t := s.temp x
  match r.2.2 with
  | some trip =>
    if (8 * trip : Int) ≤ t then 2 else if (8 * r.1 : Int) ≤ t then 1
    else if t < (8 * r.2.1 : Int) then 0 else s.tempState x
  | none =>
    if (8 * r.1 : Int) < t ∨ (x = 0x5f ∧ s.power.flowLow = true) then 3
    else if t < (8 * r.2.1 : Int) then 0 else s.tempState x

/-- Is SB3 driven low as the thermal alert output (R547, R577)? -/
def State.sb3Low (s : State) : Bool := s.fld rMgtSb3 0 0 1 0 == 2 && s.hotAny

/-- A level source's condition has ended at every on-module processor (R370). -/
def State.withdrawAll (s : State) (e : Nat) : State := (List.range 10).foldl (fun s q => s.withdraw q e) s

/-- A sensor's STATE is set, with THERMAL at a change (R543, R547). -/
def State.setTempState (s : State) (x : Nat) : State :=
  let v := s.nextTempState x
  if v = s.tempState x then s
  else
    let s := (s.setFld rPwrTemp 0 x 17 16 v).raiseM 0x040 x v
    if s.hotAny then s else s.withdrawAll 0x040

/-- A sensor's present reading takes the place of an older one that has not been sampled. -/
def putReading (l : List (Nat × Nat)) (t : Nat × Nat) : List (Nat × Nat) :=
  if l.any fun x => x.1 == t.1 then l.map fun x => if x.1 = t.1 then t else x else l ++ [t]

/-- Readings that a boundary takes: 64, and with every partition in L2 or L3 as many at two boundaries of each 256 beats (R53, R532). DESIGN
CHOICE, log entry 179. -/
def State.samples (s : State) : Nat :=
  if (List.range s.parts).all (fun p => decide (2 ≤ s.lstate p)) ∧ 2 ≤ s.mgmt.beat % 256 then 0 else 64

/-- A boundary samples 64 sensors: those whose readings have changed and wait longest are read into PWR_TEMP, so that each of the 96 is read
within two beats of a change, and the others read as they did (R53). `ts` holds the readings that are not as they were. DESIGN CHOICE, log
entry 179. -/
def State.takeTemps (s : State) (ts : List (Nat × BitVec 16)) : State :=
  let l := (ts.filter fun t => decide (t.1 < 96)).foldl (fun l t => putReading l (t.1, t.2.toNat)) s.power.unread
  ((l.take s.samples).foldl (fun s t => s.setFld rPwrTemp 0 t.1 15 0 t.2) s).upPower fun w => { w with unread := l.drop s.samples }

/-- Sensors that lower the ceiling of die `d` (R543). -/
def dieSensors (d : Nat) : List Nat :=
  (List.range 16).map (16 * d + ·) ++ (List.range 4).map (0x40 + 4 * d + ·) ++ (List.range 3).map (0x50 + 3 * d + ·) ++ [0x5c, 0x5d]

/-- Is some sensor of the die at or above its throttle point? -/
def State.dieHot (s : State) (d : Nat) : Bool :=
  (dieSensors d).any fun x => decide ((8 * (tempPoints x).1 : Int) ≤ s.temp x)

/-- Is every sensor of the die below its release point? -/
def State.dieCool (s : State) (d : Nat) : Bool :=
  (dieSensors d).all fun x => decide (s.temp x < (8 * (tempPoints x).2.1 : Int))

/-- The thermal ceiling of die `d` at a boundary (R543). -/
def State.thermalDie (s : State) (d : Nat) : State :=
  let off := Tbl.get 0 s.power.thermal d
  let n := Tbl.get 0 s.power.cool d
  s.upPower fun w =>
    if s.dieHot d then { w with thermal := Tbl.set 0 w.thermal d (Nat.min 1200 (off + 100)), cool := Tbl.set 0 w.cool d 0 }
    else if s.dieCool d then
      { w with cool := Tbl.set 0 w.cool d (Nat.min 16 (n + 1)),
               thermal := if 16 ≤ n + 1 then Tbl.set 0 w.thermal d (off - 25) else w.thermal }
    else { w with cool := Tbl.set 0 w.cool d 0 }

/-- Step 4 of a boundary for temperature (R543, R547). -/
def State.thermalBoundary (s : State) (ts : List (Nat × BitVec 16)) : State :=
  let s := (List.range 96).foldl (fun s x => s.setTempState x) (s.takeTemps ts)
  (List.range 4).foldl (fun s d => s.thermalDie d) s

/-! ### The governor (R535 to R541) -/

/-- A limit that binds: its code (R539), its cap in watts, and whether it is judged against the worst case (R536). -/
structure Cap where
  code : Nat
  watts : Int
  worst : Bool
deriving DecidableEq, Repr

/-- The caps on the next beat, once the draw of the beat that ends is in the histories (R536). DESIGN CHOICE, log entry 19. -/
def State.caps (s : State) (vin : Nat) : List Cap :=
  let w := s.power
  [⟨1, (2 ^ 20 * w.pl1 : Nat) - (runSum (2 ^ 20 - 1) w.hist1 : Nat), false⟩,
   ⟨2, (256 * w.pl2 : Nat) - (runSum 255 w.hist2 : Nat), false⟩,
   ⟨3, w.fast, true⟩] ++ (if s.mgmt.brake then [⟨4, 1400, false⟩] else []) ++ [⟨5, (95 * vin : Nat), true⟩]

/-- Junction temperatures as they read. -/
def State.junctions (s : State) : List Nat := (List.range 64).map fun x => s.fld rPwrTemp 0 x 15 0

/-- The caps that a choice of clocks is predicted to exceed. -/
def State.exceeded (s : State) (watts : Nat) (cs : List Cap) (clk : List (Option Nat)) : List Cap :=
  cs.filter fun c => decide (c.watts < (Config.predict c.worst watts clk s.junctions : Nat))

/-- The clocks the governor settles on: all busy dies go down together in steps of 25 MHz, no lower than 2,400 MHz, until no cap
is exceeded (R536). -/
def State.lower (s : State) (watts : Nat) (cs : List Cap) : Nat → List (Option Nat) → List (Option Nat)
  | 0, clk => clk
  | fuel + 1, clk =>
    if (s.exceeded watts cs clk).isEmpty ∨ clk.all (fun c => decide (c.getD 2400 ≤ 2400)) then clk
    else s.lower watts cs fuel (clk.map fun c => c.map fun f => Nat.max 2400 (f - 25))

/-- The least of the caps exceeded, the lowest code among equals. -/
def leastCap : List Cap → Option Cap → Option Cap
  | [], b => b
  | c :: t, none => leastCap t (some c)
  | c :: t, some b => leastCap t (if c.watts < b.watts then some c else some b)

/-- BINDING (R539): the least cap that the dies' ceilings would exceed, else a ceiling below 3,600 MHz, else none. -/
def State.binding (s : State) (watts : Nat) (cs : List Cap) (clk : List (Option Nat)) : Nat :=
  match leastCap (s.exceeded watts cs clk) none with
  | some c => c.code
  | none => if clk.any fun c => decide (c.getD 3600 < 3600) then 6 else 0

/-- POWER_BRAKE at a change of the brake as applied (R541). -/
def State.applyBrake (s : State) : State :=
  let b := if s.mgmt.brake then 1 else 0
  if s.fld rPwrStatus 0 0 15 15 = b then s
  else
    let s := (s.setFld rPwrStatus 0 0 15 15 b).raiseM 0x042 b 0
    if b = 0 then s.withdrawAll 0x042 else s

/-- Limits written take effect: PL2 and FAST at each boundary, PL1 at an epoch boundary (R535). -/
def State.takeLimits (s : State) (epoch : Bool) : State :=
  s.upPower fun w => { w with pl2 := s.fld rPwrLimits 0 0 31 16, fast := s.fld rPwrLimits 0 0 47 32,
                              pl1 := if epoch then s.fld rPwrLimits 0 0 15 0 else w.pl1 }

/-- A die whose thermal ceiling has reached 2,400 MHz is still at its throttle point: beats are idle (R543). -/
def State.thermalIdle (s : State) : Bool := (List.range 4).any fun d => s.thermalCeil d == 2400 && s.dieHot d

/-- Step 4 of the boundary (under the brake busy dies run at 2,400 MHz, R541) that ends a beat which drew `watts` at `vin` volts; `epoch` says that it ends an epoch (R536 to
R541). -/
def State.governor (s : State) (watts vin : Nat) (epoch : Bool) : State :=
  let s := (s.takeLimits epoch).upPower fun w =>
    { w with hist1 := runPush (2 ^ 20) watts w.hist1, hist2 := runPush 256 watts w.hist2 }
  let s := s.applyBrake
  let cs := s.caps vin
  let top := (List.range 4).map fun d => if s.busyDie d then some (s.ceiling d) else none
  let clk := if s.mgmt.brake then top.map fun c => c.map fun _ => 2400 else s.lower watts cs 49 top
  let idle := !(s.exceeded watts cs clk).isEmpty || s.thermalIdle
  let code := s.binding watts cs top
  let old := s.fld rPwrStatus 0 0 14 11
  let idles := (idle :: s.power.idles).take 256
  let s := { s.upPower (fun w => { w with idles := idles }) with mgmt := { s.mgmt with idleDies := if idle then [0, 1, 2, 3] else [] } }
  let s := (List.range 4).foldl (fun s d => s.wr rPwrCdClock 0 d (s.ceiling d * 65536 + (clk.getD d none).getD 0)) s
  let s := s.wr rPwrStatus 0 0 (Nat.min watts 65535 * 2 ^ 48 + runSum 256 s.power.hist2 / 256 * 2 ^ 32 +
    runSum (2 ^ 20) s.power.hist1 / 2 ^ 20 * 65536 + s.fld rPwrStatus 0 0 15 15 * 32768 + code * 2048 +
    Nat.min 511 (idles.filter id).length)
  if code = old then s else s.raiseM 0x041 code (clk.foldl (fun m c => Nat.max m (c.getD 0)) 0)

/-- BRAKE_ASSERT: the pin is recorded, and applied at step 4 of the boundary (R541). -/
def execBrakeAssert (s : State) : Res := s.live fun s => { s with mgmt := { s.mgmt with brake := true } }

/-- BRAKE_RELEASE (R541). -/
def execBrakeRelease (s : State) : Res := s.live fun s => { s with mgmt := { s.mgmt with brake := false } }

/-! ### The power registers (R533, R534, R540) -/

/-- PWR_LIMITS is written (R540). -/
def pwrLimitsWrite (v : Nat) (s : State) : State :=
  let pl1 := bits v 15 0
  let pl2 := bits v 31 16
  let fast := bits v 47 32
  let res := fun (c : Nat) (s : State) => s.setFld rPwrLimits 0 0 63 48 c
  if pl1 < 1400 ∨ pl2 < pl1 ∨ fast < pl2 ∨ 2800 < pl1 ∨ 3300 < pl2 ∨ 3600 < fast then res Code.invalidOperand s
  else s.logged 0x100000 0 (s.fld rPwrLimits 0 0 47 0) (bits v 47 0)
    (fun s => res Code.done (s.setFld rPwrLimits 0 0 47 0 v)) (res Code.resourceHeld)

/-- R540. -/
def execPwrLimitsWrite (v : W64) (s : State) : Res := s.live fun s => pwrLimitsWrite v.toNat (s.unstage rPwrLimits 0 0)

/-- PWR_CEILING is written: 2,400 to 3,600 MHz, a multiple of 25 (R537). -/
def pwrCeilingWrite (v : Nat) (s : State) : State :=
  let f := bits v 15 0
  let res := fun (c : Nat) (s : State) => s.setFld rPwrCeiling 0 0 31 16 c
  if f < 2400 ∨ 3600 < f ∨ f % 25 ≠ 0 then res Code.invalidOperand s
  else s.logged 0x100008 0 (s.fld rPwrCeiling 0 0 15 0) f
    (fun s => res Code.done (s.setFld rPwrCeiling 0 0 15 0 f)) (res Code.resourceHeld)

/-- R537. -/
def execPwrCeilingWrite (v : W32) (s : State) : Res := s.live (pwrCeilingWrite v.toNat)

/-- PWR_PTNp_STATE is written; a lowered MAX_DEPTH acts at the next boundary (R534). -/
def pwrPtnStateWrite (p v : Nat) (s : State) : State :=
  if 4 ≤ p ∨ s.present p = false then s
  else
    let new := setBits (setBits (s.rd rPwrPtnState 0 p) 31 16 (bits v 31 16)) 9 8 (bits v 9 8)
    s.logged (0x100040 + 8 * p) 0 (s.rd rPwrPtnState 0 p) new (fun s => s.wr rPwrPtnState 0 p new) id

/-- R534. -/
def execPwrPtnStateWrite (p : Nat) (v : W32) (s : State) : Res := s.live (pwrPtnStateWrite p v.toNat)

/-- Has any partition an open job or an enabled ring (R533)? -/
def State.l4Held (s : State) : Bool :=
  (List.range 4).any fun p => s.present p &&
    ((s.pt p).job != .noJob || (List.range 64).any fun n => s.sqOn p n || s.cqOn p n)

/-- PWR_MODULE is written (R533). DESIGN CHOICE, log entry 22. -/
def l4Req (v : Nat) (s : State) : State :=
  let res := fun (c : Nat) (s : State) => s.setFld rPwrModule 0 0 31 16 c
  if bits v 0 0 = 1 ∧ s.l4Held then res Code.resourceHeld s
  else s.logged 0x100060 0 0 (bits v 0 0)
    (fun s => if bits v 0 0 = 1 then res Code.done { s with mgmt := { s.mgmt with l4Req := some s.mgmt.beat } } else s)
    (res Code.resourceHeld)

/-- R533. -/
def execL4Req (v : W32) (s : State) : Res := s.live (l4Req v.toNat)

/-! ### The ladder of power states (R529 to R534) -/

/-- Is nothing of the partition busy: no tile queued or in flight, every hart waiting or stalled, no codec engine or forager
(R529)? A hart without a running part waits (DEDUCED, log entry 46). -/
def State.quiet (s : State) (p : Nat) : Bool :=
  let q := s.pt p
  (q.live.cores.all fun e => e.2.idle) &&
  (q.live.disps.all fun e => !e.2.running || e.2.stall.isSome || q.paused.isSome) && q.live.runs.isEmpty &&
  (q.live.pages.all fun e => e.2.opins == 0 && e.2.state != 4)

/-- Is the partition's tier work and cut flush idle (R529)? -/
def State.tierIdle (s : State) (p : Nat) : Bool :=
  let q := s.pt p
  (q.live.pages.all fun e => e.2.state != 4 && e.2.state != 5 && !e.2.capWait && !e.2.capWrite) && !q.trqReady &&
  q.cutPhase == .idle && q.pend.isNone && !(s.store.writes.any fun w => w.p == p)

/-- MAX_DEPTH. -/
def State.maxDepth (s : State) (p : Nat) : Nat := s.fld rPwrPtnState 0 p 9 8

/-- L1_ENTRY: 16 idle beats have passed (R529). -/
def execL1Entry (p : Nat) (s : State) : Res :=
  s.live fun s =>
    if s.present p ∧ s.lstate p = 0 ∧ 1 ≤ s.maxDepth p ∧ 16 ≤ (s.ladder p).quiet then s.setL p 1 else s

/-- May a partition without running work go deeper than L1 (R529)? -/
def State.dozes (s : State) (p : Nat) : Bool :=
  s.present p && ((s.pt p).job == .noJob || (s.pt p).job == .suspended) && s.quiet p && s.tierIdle p

/-- L2_ENTRY: L2_DELAY epochs in L1 (R529). -/
def execL2Entry (p : Nat) (s : State) : Res :=
  s.live fun s =>
    if s.lstate p = 1 ∧ 2 ≤ s.maxDepth p ∧ s.dozes p ∧
        s.fld rPwrPtnState 0 p 23 16 * 2 ^ 20 ≤ s.since (s.ladder p).since then s.setL p 2 else s

/-- L3_ENTRY: L3_DELAY epochs in L2; nothing is written, and the caches are dropped (R529, R530). -/
def execL3Entry (p : Nat) (s : State) : Res :=
  s.live fun s =>
    if s.lstate p = 2 ∧ s.maxDepth p = 3 ∧ s.dozes p ∧
        s.fld rPwrPtnState 0 p 31 24 * 2 ^ 20 ≤ s.since (s.ladder p).since then
      (s.setL p 3).dropLines fun x => x / 3221225472 / s.k == p
    else s

/-- WAKE: the partition leaves L2 or L3 for L1 (R531, R534). -/
def execWake (p : Nat) (s : State) : Res :=
  s.live fun s => if s.present p ∧ (s.lstate p = 2 ∨ s.lstate p = 3) then s.setL p 1 else s

/-- The ladder at a boundary: idle beats are counted, work ends L1, a lowered MAX_DEPTH wakes a deeper partition, and work of
the tier request queue wakes it too (R529, R531, R534). -/
def State.ladderBoundary (s : State) (p : Nat) : State :=
  if s.present p = false then s
  else
    let n := if s.quiet p then (s.ladder p).quiet + 1 else 0
    let s := s.upPower fun w => { w with ladder := Tbl.set {} w.ladder p { s.ladder p with quiet := Nat.min 16 n } }
    let l := s.lstate p
    if l = 1 ∧ (n = 0 ∨ s.maxDepth p = 0) then s.setL p 0
    else if 2 ≤ l ∧ s.maxDepth p < l then s.setL p (Nat.min 1 (s.maxDepth p))
    else if 2 ≤ l ∧ (s.pt p).trqReady then s.setL p 1
    else s

/-! ### The fall of power-good (R304, R528, R533, R544) -/

/-- Completions of partition `p` that the journal buffer has not acknowledged. -/
def Store.lostCompletions (t : Store) (p : Nat) : Nat := (t.records.filter fun r => r == .completion p).length

/-- A WEIGHTS page outlives the HBM in its store image; without one it is lost (R253, R442). -/
def Page.afterLoss (g : Page) : Page :=
  { state := if g.state = 6 then 6 else 2, capped := g.capped, region := g.region, refs := g.refs, img := g.img,
    lost := g.lost || (g.state != 6 && g.img == 0) }

/-- What is left of a partition when power-good falls: what the journal and the store hold. A record that was not acknowledged is
not durable: its completion is undone; a cut whose record was acknowledged is durable (R304). -/
def Ptn.afterLoss (q : Ptn) (lost : Nat) (cutLost : Bool) : Ptn :=
  let kept := q.journal.take (q.journal.length - lost)
  let gone := q.journal.drop (q.journal.length - lost)
  let undone := fun (d : ADesc) => gone.any fun e => e.sq == d.sq && (e.words.getD 0 0).toNat == d.seq
  let weights := (q.live.pages.filter fun e => q.kind e.1 == 2 && e.2.state != 0).map fun e => (e.1, e.2.afterLoss)
  let backed := (q.live.pages.filter fun e => q.kind e.1 != 2 && e.2.state != 0).length
  { job := if q.job = .opening ∧ q.cutSent ∧ cutLost = false then .running else q.job, info := q.info, used := q.used - backed, targetLost := q.targetLost, susp := q.susp,
    live := { pages := weights },
    durable := if q.cutSent ∧ cutLost = false then q.pend.orElse (fun _ => q.durable) else q.durable, older := q.older,
    descs := q.descs.map fun d => if undone d then { d with done := false, beat := 0 } else { d with beat := 0 },
    journal := kept,
    sqs := q.sqs.map fun (e : Nat × Sq) => (e.1, { e.2 with awaiting := [], target := 0, shadow := [0, 0, 0, 0] }),
    cqs := q.cqs.map fun (e : Nat × Cq) =>
      (e.1, { e.2 with given := e.2.given - (gone.filter fun x => x.cq == e.1 && x.slot.isSome).length }),
    accOrd := q.accOrd, startOrd := q.startOrd, readyOrd := q.readyOrd,
    abort := q.abort.map fun a => (a.1, a.2.1, 0), flr := q.flr.map fun _ => 0, endCause := q.endCause }

/-- Is the register one of those that the journal names a ring by (R555)? DEDUCED, log entry 26. -/
def ringKey (k : Nat) : Bool :=
  let fn := k / 0x4000000
  let off := k % 0x4000000
  decide (1 ≤ fn) && decide (fn ≤ 4) && decide (0x100000 ≤ off) && decide (off < 0x102000)

/-- Power-good falls: the SCD acknowledges nothing more and flushes the journal buffer into the journal region; what no non-volatile part holds
is lost (R40, R304, R528). The age of what the store holds goes on from the count's next start (R295). -/
def State.powerOff (s : State) (standby tripped : Bool) : State :=
  let t := s.drainRecords.store
  { (State.reset) with
    out := s.out, free := s.free, pending := s.pending, log := s.log
    mgmt := { serial := s.mgmt.serial, perst := s.mgmt.perst, brake := s.mgmt.brake, phases := s.mgmt.phases, standby := standby,
              tripped := tripped, dynAddr := if standby then s.mgmt.dynAddr else 0 }
    regs := s.regs.filter fun e => e.1 == rSecSvn.key 0 0
    flash := { s.flash with rings := s.regs.filter fun e => ringKey e.1, shape := s.fld rMgtPtnShape 0 0 3 2 }
    ptn := s.ptn.map fun (e : Nat × Ptn) => (e.1, e.2.afterLoss (t.lostCompletions e.1) (t.records.contains (.cut e.1)))
    store := { variant32 := t.variant32, credit := t.credit, charged := t.charged, avgPe := t.avgPe, spares := t.spares,
               otherPast := t.otherPast, lastFlush := t.lastFlush, rebuild := t.rebuild, rebuilt := t.rebuilt,
               nand := { t.nand.padStripe with reloc := [], drained := 0, stripes := t.nand.padStripe.stripes.map fun e =>
                 (e.1, { e.2 with beat := (2 ^ 64 - s.since e.2.beat) % 2 ^ 64 }) },
               guests := t.guests.filterMap s.guestAfterLoss, guestRecs := t.guestRecs, region := t.region, journalSpare := t.journalSpare,
               wearSeen := t.wearSeen, serial := t.serial, health := s.fld rStoHealth 0 0 3 0, lost := s.fld rStoHealth 0 0 55 40 }
    hbm := { repaired := s.hbm.repaired, fused := s.hbm.fused, spares := s.hbm.spares }
    cmap := { retired := s.cmap.retired }
    sec := { fw := s.sec.fw, revoked := s.sec.revoked, hasAlias := s.sec.hasAlias, pairs := s.sec.pairs, jobKeys := s.sec.jobKeys, pubKeys := s.sec.pubKeys,
             storeKeys := s.sec.storeKeys }
    power := { flash := s.power.flash, fuse := s.power.fuse } }

/-- A fall of power-good with bring-up at phase 9 not yet reached keeps the rings and the shape that the journal already named. -/
def State.fallPower (s : State) (standby tripped : Bool) : State :=
  let mounted := s.phase 9 == 2 || s.phase 9 == 3
  let r := s.powerOff standby tripped
  let r := if s.store.mounted then r else { r with store := { r.store with health := s.store.health, lost := s.store.lost } }
  if mounted then r else { r with flash := s.flash }

/-- POWER_LOSS: VIN has stayed below 36 V for 2 µs (R304, R528); with AUX present the module is then in L4 (R529). -/
def execPowerLoss (aux : Bool) (s : State) : Res :=
  .next (if s.mgmt.powerGood then s.fallPower aux false
    else { s with mgmt := { s.mgmt with standby := aux && s.mgmt.standby, tripped := aux && s.mgmt.tripped,
                                        dynAddr := if aux then s.mgmt.dynAddr else 0 } })

/-- THERMAL_TRIP: the power stage turns VINT off (R544). -/
def execThermalTrip (sensor : Nat) (s : State) : Res := s.live fun s => if sensor < 0x5e then s.fallPower true true else s

/-- L4_ENTRY: at a boundary after the request, with the journal buffer drained (R533). -/
def execL4Entry (s : State) : Res :=
  s.live fun s => match s.mgmt.l4Req with
    | some b => if s.past b ∧ s.store.records = [] ∧ s.store.buffered = 0 then s.fallPower true false else s
    | none => s

end Sys2Proof.Machine
end

