-- ==== Sys2Proof/Machine/Hive.lean ====
section
/-! DEFINITION. Bring-up phases as such, and the formation of hive and apiary with the choice of a time reference (R552, R553,
R559 to R566). -/

namespace Sys2Proof.Machine

/-! ### Phases (R552, R566) -/

/-- The straps give the module's position M (R550). -/
def State.pos (s : State) : Nat := s.mgmt.slot % 16

/-- Boot becomes `f` of itself. -/
def State.upBoot (s : State) (f : Boot → Boot) : State := { s with boot := f s.boot }

/-- Phase `n` starts. -/
def State.startPhase (s : State) (n : Nat) : State :=
  let s := s.wr rMgtBuPhase 0 (n - 1) (2 ^ 60 + s.mgmt.sincePg % 2 ^ 32)
  if s.fld rMgtBringup 0 0 15 12 < n then s.setFld rMgtBringup 0 0 15 12 n else s

/-- Phase `n` is skipped. -/
def State.skipPhase (s : State) (n : Nat) : State := s.wr rMgtBuPhase 0 (n - 1) (5 * 2 ^ 60)

/-- A cause is recorded, the first since power-good only (R566). -/
def State.bootCause (s : State) (n c : Nat) : State :=
  if s.fld rMgtBringup 0 0 63 56 = 0 then (s.setFld rMgtBringup 0 0 63 56 c).setFld rMgtBringup 0 0 55 52 n else s

/-- Phase `n` ends with a RESULT: its duration is recorded, with a record in the journal once the store is mounted, and BRINGUP is raised (R303,
R566). -/
def State.endPhase (s : State) (n result : Nat) : State :=
  let d := (s.mgmt.sincePg - s.fld rMgtBuPhase 0 (n - 1) 31 0) % 2 ^ 24
  let s := (s.setFld rMgtBuPhase 0 (n - 1) 63 60 result).setFld rMgtBuPhase 0 (n - 1) 55 32 d
  let s := if s.store.mounted then s.sendRecord .bringup [] else s
  s.raiseM 0x071 n d

/-- STATE of MGT_BRINGUP. -/
def State.bootState (s : State) : State :=
  let v := if s.phase 1 = 4 ∨ s.phase 5 = 4 then 3
    else if (List.range 12).all fun i => s.phaseOver (i + 1) then (if s.fld rMgtBringup 0 0 63 56 = 0 then 1 else 2)
    else 0
  s.setFld rMgtBringup 0 0 1 0 v

/-- The compute dies and stacks may be powered: the stagger release has fallen (R550). -/
def State.released (s : State) : Bool := s.mgmt.staggered

/-- Is some mesh port UP? -/
def State.meshUp (s : State) : Bool := (List.range 15).any fun n => s.pup n

/-- Is some torus port UP? -/
def State.torusUp (s : State) : Bool := (List.range 10).any fun i => s.pup (15 + i)

/-! ### Hive and apiary (R559 to R564) -/

/-- HIVE_HELLO at every mesh port that is UP (R561). -/
def State.sendHellos (s : State) : State :=
  (List.range 15).foldl (fun s n =>
    if s.pup n then s.sendMgmt n Msg.hiveHello ([s.mgmt.serial.toNat, s.pos] ++ s.boot.heard.flatMap fun (e : Nat × Nat) => [e.1, e.2])
    else s) s

/-- APIARY_ELECT at every port that is UP but one (R562). -/
def State.sendElect (s : State) (hops except : Nat) : State :=
  (List.range 25).foldl (fun s n =>
    if s.pup n ∧ n ≠ except then s.sendMgmt n Msg.apiaryElect [s.boot.cand.getD 0, hops] else s) s

/-- The torus ports. -/
def torusPortList : List Nat := (List.range 10).map (15 + ·)

/-- APIARY_COORD at those of some ports that are UP (R562). -/
def State.sendCoord (s : State) (ports : List Nat) : State :=
  match s.boot.coords with
  | none => s
  | some (x, y) => ports.foldl (fun s n => if s.pup n then s.sendMgmt n Msg.apiaryCoord [s.boot.origin, x, y] else s) s

/-- The hive has its coordinates, and tells them at some ports (R562). -/
def State.takeCoords (s : State) (x y : Nat) (ports : List Nat) : State :=
  if s.boot.coords.isSome then s else (s.upBoot fun b => { b with coords := some (x, y) }).sendCoord ports

/-- LNK_ADDR becomes VALID (R398). -/
def State.setAddr (s : State) (x y m : Nat) : State := s.wr rLnkAddr 0 0 (2 ^ 31 + y * 256 + x * 16 + m)

/-- The lower of two serials, if any. -/
def minSerial (v : Nat) : Option Nat → Nat
  | none => v
  | some c => Nat.min c v

/-- The lowest serial of a member set. -/
def lowest (t : Tbl Nat) : Option Nat := t.foldl (fun (m : Option Nat) (e : Nat × Nat) => some (minSerial e.2 m)) none

/-- The position of a serial in the hive. -/
def State.posOf (s : State) (serial : Nat) : Option Nat := (s.boot.heard.find? fun (e : Nat × Nat) => e.2 == serial).map (·.1)

/-- Is this the origin hive: the elected serial is one of its members (R562)? -/
def State.inOrigin (s : State) : Bool := (s.posOf s.boot.origin).isSome

/-- REF_PORT becomes the first port of the route to the reference; the exchanges begin anew when it changes (R563). -/
def State.chooseRef (s : State) : State :=
  match s.boot.refAddr with
  | none => s
  | some a =>
    let n := if a = s.addr then 31 else ((s.route a 0xffff noSpan noSpan none false).map (·.1)).getD 31
    if n = s.refPort then s else (s.setFld rMgtTimeAlign 0 0 20 16 n).upBoot fun b => { b with exch := 0 }

/-- This module becomes the time reference (R563). -/
def State.beReference (s : State) : State :=
  let s := (s.setFld rMgtTimeAlign 0 0 20 16 31).setFld rMgtTimeAlign 0 0 15 0 0
  let s := s.setAlign 2
  { s with mgmt := { s.mgmt with adopted := true },
           boot := { s.boot with ref := s.mgmt.serial.toNat, refAddr := some s.addr } }

/-- Phase 10 starts: the member set is this module alone, with what has been heard already (R561). -/
def State.startHive (s : State) : State :=
  (s.upBoot fun b => { b with heard := Tbl.put b.heard s.pos s.mgmt.serial.toNat }).sendHellos

/-- Phase 11 starts: the candidate is the hive leader, or a lower serial already received (R562); a module that has joined a formed
apiary holds no election (R564). -/
def State.startApiary (s : State) : State :=
  if s.boot.elected then s
  else
    let lead := if s.phase 10 = 5 then s.mgmt.serial.toNat else s.boot.leader
    let s := s.upBoot fun b =>
      { b with heard := Tbl.put b.heard s.pos s.mgmt.serial.toNat, leader := lead, cand := some (minSerial lead b.cand), candBeat := s.mgmt.sincePg }
    s.sendElect 0 31

/-- Phase 12 starts (R563). -/
def State.startTime (s : State) : State :=
  if s.boot.ref = s.mgmt.serial.toNat ∧ s.inOrigin then s.beReference.announce else s.chooseRef

/-- A module on its own: its own reference, at address 0 (R552, R563). DEDUCED, log entry 111. -/
def State.alone (s : State) : State :=
  let s := s.setAddr 0 0 (if s.boot.harness = [] then 0 else s.pos)
  s.beReference

/-- Phases 10 to 12 start or are skipped, each as soon as its condition holds (R552). -/
def State.advanceHive (s : State) : State :=
  let s := if s.phase 10 = 0 ∧ s.phaseOver 8 then (if s.meshUp then (s.startPhase 10).startHive else s.skipPhase 10) else s
  let s := if s.phase 11 = 0 ∧ s.phaseOver 10 then
      (if s.phase 10 ≠ 5 ∨ s.torusUp then (s.startPhase 11).startApiary else s.skipPhase 11) else s
  if s.phase 12 = 0 ∧ s.phaseOver 11 then (if s.phase 11 ≠ 5 then (s.startPhase 12).startTime else (s.skipPhase 12).alone) else s

/-- Every member whose mesh port to this module is UP reports the same set (R561). -/
def State.hiveAgrees (s : State) : Bool :=
  (List.range 15).all fun n => !s.pup n || decide (Tbl.find s.boot.reports n = some s.boot.heard)

/-- Is this module the member with serial `lead` (R561)? -/
def State.leads (s : State) (lead : Nat) : Bool := lead == s.mgmt.serial.toNat && s.posOf lead == some s.pos

/-- HIVE: the member set agrees, or 2 s have passed; the leader tells the mask, which is then
final (R561). -/
def hive (s : State) : State :=
  if s.phase 10 ≠ 1 ∨ (s.hiveAgrees = false ∧ s.mgmt.sincePg < s.fld rMgtBuPhase 0 9 31 0 + 488281) then s
  else
    let lead := (lowest s.boot.heard).getD 0
    let mask := s.boot.heard.foldl (fun m (e : Nat × Nat) => m + 2 ^ e.1) 0
    let s := if s.boot.hiveFixed then s
      else { s with boot := { s.boot with leader := lead, hiveFixed := s.leads lead }, mgmt := { s.mgmt with members := mask } }
    let s := if s.leads lead then
        (List.range 15).foldl (fun s n => if s.pup n then s.sendMgmt n Msg.hiveFormed [lead, mask] else s) s
      else s
    (s.endPhase 10 2).advanceHive.bootState

/-- R561. -/
def execHive (s : State) : Res := s.live hive

/-- A member's list as a set of (position, serial), with the sender. DEDUCED, log entry 112. -/
def helloSet (serial pos : Nat) (l : List (W64 × Nat)) : Tbl Nat :=
  l.foldl (fun t e => Tbl.put t e.2 e.1.toNat) [(pos, serial)]

/-- HIVE_HELLO: the sender and the members it has heard join the set; a change is told (R561). A module that comes after formation
joins the set as well (R564). -/
def hiveHello (port serial pos : Nat) (heard : List (W64 × Nat)) (s : State) : State :=
  if s.pup port = false ∨ 15 ≤ port ∨ 16 ≤ pos then s
  else
    let r := helloSet serial pos heard
    let old := s.boot.heard
    let now := r.foldl (fun t (e : Nat × Nat) => if e.1 < 16 then Tbl.put t e.1 e.2 else t) old
    let s := s.upBoot fun b => { b with heard := now, reports := Tbl.put b.reports port r }
    if now = old ∨ s.phase 10 = 0 then s
    else
      let s := if s.phaseOver 10 then
          { s with mgmt := { s.mgmt with members := now.foldl (fun m (e : Nat × Nat) => setBits m e.1 e.1 1) s.mgmt.members } }
        else s
      s.sendHellos

/-- R561. -/
def execHiveHello (port : Nat) (serial : W64) (pos : Nat) (heard : List (W64 × Nat)) (s : State) : Res :=
  s.live (hiveHello port serial.toNat pos heard)

/-- HIVE_FORMED: the leader's mask is final (R561). -/
def hiveFormedIn (leader mask : Nat) (s : State) : State :=
  if s.phase 10 = 0 ∨ s.phase 10 = 5 ∨ s.boot.hiveFixed then s
  else { s with boot := { s.boot with leader := leader, hiveFixed := true }, mgmt := { s.mgmt with members := mask } }

/-- R561. -/
def execHiveFormed (leader : W64) (mask : BitVec 16) (s : State) : Res := s.live (hiveFormedIn leader.toNat mask.toNat)

/-- APIARY_ELECT: a lower serial becomes the candidate and is told on (R562). -/
def apiaryElect (port serial hops : Nat) (s : State) : State :=
  if s.pup port = false ∨ s.boot.elected then s
  else
    let v := minSerial serial s.boot.cand
    if s.boot.cand = some v then s
    else
      let s := s.upBoot fun b => { b with cand := some v, candBeat := s.mgmt.sincePg }
      if s.phase 11 = 1 then s.sendElect (hops + 1) port else s

/-- R562. -/
def execApiaryElect (port : Nat) (serial : W64) (hops : Nat) (s : State) : Res := s.live (apiaryElect port serial.toNat hops)

/-- The reference is known to be the elected module; in the origin hive its address is known too. -/
def State.originRef (s : State) : State :=
  s.upBoot fun b => { b with ref := b.origin, refAddr := match s.posOf b.origin with
    | some m => some m
    | none => b.refAddr }

/-- ELECTION_END: the candidate has not changed for 680 ms; the members of the origin hive take X = Y = 0 and tell it at their torus
ports (R562). -/
def electionEnd (s : State) : State :=
  if s.phase 11 ≠ 1 ∨ s.boot.elected ∨ s.mgmt.sincePg < s.boot.candBeat + 166016 then s
  else
    let s := (s.upBoot fun b => { b with elected := true, origin := b.cand.getD b.leader }).originRef
    if s.boot.origin = s.boot.leader then s.takeCoords 0 0 torusPortList else s

/-- R562. -/
def execElectionEnd (s : State) : Res := s.live electionEnd

/-- The coordinates that a neighbour's imply: the next hive along the ring of a torus port, the same hive at a mesh port (R562). -/
def impliedCoords (port x y : Nat) : Nat × Nat :=
  if port < 15 then (x, y)
  else if port = 15 ∨ port = 19 ∨ port = 23 then ((x + 15) % 16, y)
  else if port = 16 ∨ port = 20 ∨ port = 24 then ((x + 1) % 16, y)
  else if port = 17 ∨ port = 21 then (x, (y + 15) % 16)
  else (x, (y + 1) % 16)

/-- A port whose harness or coordinates are wrong is FAILED; no spare can mend that. DEDUCED, log entry 109. -/
def State.cableFail (s : State) (n phase cause : Nat) : State :=
  (s.portChange n fun s =>
    ((s.setFld rLnkPStatus 0 n 2 0 PS.failed).setFld rLnkPStatus 0 n 15 12 0).setFld rLnkPStatus 0 n 30 26 31).bootCause phase cause

/-- APIARY_COORD: the first one gives the hive its coordinates; the leader's word prevails in the hive; a later one that implies
others fails its port (R562). DEDUCED, log entry 113. -/
def apiaryCoord (port origin x y : Nat) (s : State) : State :=
  if s.pup port = false ∨ s.phase 11 = 5 then s
  else
    let c := impliedCoords port x y
    match s.boot.coords with
    | none =>
      let s := if s.boot.elected then s else (s.upBoot fun b => { b with elected := true, origin := origin }).originRef
      s.takeCoords c.1 c.2 ((List.range 25).erase port)
    | some old =>
      if c = old then s
      else if 15 ≤ port then s.cableFail port 11 0x0b
      else if s.phaseOver 11 = false ∧ (s.posOf s.boot.leader).map (meshPort s.pos) = some port then
        s.upBoot fun b => { b with coords := some c }
      else s

/-- R562. -/
def execApiaryCoord (port : Nat) (origin : W64) (x y : Nat) (s : State) : Res := s.live (apiaryCoord port origin.toNat x y)

/-- APIARY: the hive has its coordinates, and LNK_ADDR becomes VALID (R562). -/
def apiary (s : State) : State :=
  match s.boot.coords with
  | none => s
  | some (x, y) =>
    if s.phase 11 ≠ 1 then s
    else ((s.setAddr x y s.pos).endPhase 11 2).announce.advanceHive.bootState

/-- R562. -/
def execApiary (s : State) : Res := s.live apiary

/-- APIARY_STATE: a neighbour's adoption is noted; a module that is late takes coordinates and reference from it, and a new reference
makes the module choose its REF_PORT again and tell it on (R563, R564). DEDUCED, log entry 115. -/
def apiaryState (port : Nat) (formed : Bool) (origin refSerial refAddr : Nat) (adopted : Bool) (s : State) : State :=
  if s.pup port = false then s
  else
    let s := s.upBoot fun b => { b with nbrs := if adopted then port :: b.nbrs.erase port else b.nbrs.erase port }
    if formed = false then s
    else
      let late := s.boot.coords.isNone && !s.phaseOver 11 && !s.boot.elected
      let peer := s.fld rLnkPStatus 0 port 47 36
      let s := if late then
          let c := impliedCoords port (bits peer 7 4) (bits peer 11 8)
          s.upBoot fun b => { b with elected := true, origin := origin, coords := some c }
        else s
      if s.boot.refAddr = some refAddr ∧ s.boot.ref = refSerial then s
      else
        let s := s.upBoot fun b => { b with ref := refSerial, refAddr := some refAddr }
        if s.phaseOver 11 ∧ s.phase 11 ≠ 5 then s.chooseRef.announce else s

/-- R564. -/
def execApiaryState (port : Nat) (formed : Bool) (origin refSerial : W64) (refAddr : BitVec 12) (adopted : Bool) (s : State) : Res :=
  s.live (apiaryState port formed origin.toNat refSerial.toNat refAddr.toNat adopted)

/-- TIME: phase 12 ends at the adoption, which the neighbours are told (R563). -/
def time (s : State) : State :=
  if s.phase 12 = 1 ∧ s.mgmt.adopted then ((s.endPhase 12 2).announce).bootState else s

/-- R563. -/
def execTime (s : State) : Res := s.live time

/-- When the reference is lost to every member of the origin hive, the lowest serial left becomes the reference (R564). DESIGN CHOICE, log entry 32. -/
def State.refBoundary (s : State) : State :=
  match s.boot.refAddr with
  | none => s
  | some a =>
    let m := a % 16
    let left := s.boot.heard.filter fun (e : Nat × Nat) => e.1 != m
    let gone := a != s.addr && a / 16 == s.addr / 16 && !s.pup (meshPort s.pos m) && left.all fun (e : Nat × Nat) =>
      e.1 == s.pos || s.knownDown (s.addr - s.pos + e.1) (meshPort e.1 m)
    if s.phaseOver 12 ∧ s.phase 12 ≠ 5 ∧ s.inOrigin ∧ gone ∧ lowest left = some s.mgmt.serial.toNat then s.beReference.announce else s

end Sys2Proof.Machine
end

