-- ==== Sys2Proof/Machine/Bringup.lean ====
section
/-! DEFINITION. Power-good and the bring-up of one module: the stagger, the phases 1 to 9, link training and authentication, and
harnesses mated in service (R491 to R495, R550 to R558, R582). -/

namespace Sys2Proof.Machine

/-! ### Port training (R388, R557, R558) -/

/-- The port that a torus port meets (R400). -/
def torusPair (n : Nat) : Nat := if n % 2 = 1 then n + 1 else n - 1

/-- Are the fields of a harness identity memory valid (R558)? -/
def harnessValid (h : Harness) : Bool :=
  h.magicOk && h.version == 1 && h.crcOk && decide (h.loss ≤ 3) && decide (50 ≤ h.lengthCm) && decide (h.lengthCm ≤ 300) && decide (h.kind ≤ 1)

/-- Do a harness's positions and ports fit a port of the module at position `m` (R399, R400, R558)? `torus` says that spare 23 or 24
is a torus path. -/
def harnessFits (h : Harness) (m n : Nat) (torus : BitVec 2) : Bool :=
  (if h.endB then h.bPos == m && h.bPort == n else h.aPos == m && h.aPort == n) &&
  (if h.kind = 0 then
    h.aPos != h.bPos && decide (h.aPos < 16) && decide (h.bPos < 16) && h.aPort == meshPort h.aPos h.bPos && h.bPort == meshPort h.bPos h.aPos
   else
    h.aPos == h.bPos && decide (15 ≤ h.aPort) && decide (h.aPort ≤ 24) && h.bPort == torusPair h.aPort &&
      (decide (n < 23) || torus.getLsbD (n - 23)))

/-- A port that fails training or the harness checks (R558). DEDUCED, log entry 116. -/
def State.noteCabled (s : State) (n : Nat) : State :=
  (s.upBoot fun b => { b with cabled := n :: b.cabled.erase n }).bootCause 7 0x0a

/-- Does the harness at port `n` pass the checks that need no peer? -/
def State.harnessPasses (s : State) (n : Nat) (h : Harness) : Bool := harnessValid h && harnessFits h s.pos n s.links.torus

/-- A trained port: its peer, its lanes and width, and its AUTH_HELLO (R428, R517). -/
def State.trained (s : State) (n : Nat) (t : TrainIn) : State :=
  let by_ := if s.standsFor 23 = n then 23 else if s.standsFor 24 = n then 24 else n
  let s := s.upBoot fun b => { b with cabled := b.cabled.erase n }
  ((s.portChange n fun s => s.wr rLnkPStatus 0 n (t.peerAddr.toNat * 2 ^ 36 + t.peerPort % 32 * 2 ^ 31 + by_ * 2 ^ 26 +
    (255 - t.lanes.toNat) * 65536 + ones 8 t.lanes.toNat * 4096 + PS.training)).upPort n fun q => { q with lanes := t.lanes }).startAuth n

/-- Training of port `n` ends: `t` is what it found, none when it did not train (R386, R558). -/
def State.trainPort (s : State) (n : Nat) (t : Option TrainIn) : State :=
  if s.pstate n ≠ PS.training then s
  else match Tbl.find s.boot.harness n, t with
    | none, _ => s.setPState n PS.down
    | some h, t =>
      if s.harnessPasses n h = false then (s.cableFail n 7 0x0a).noteCabled n
      else match t with
        | none => (s.failPort n).noteCabled n
        | some t =>
          if t.peerSerial ≠ h.serial then (s.cableFail n 7 0x0a).noteCabled n
          else if ones 8 t.lanes.toNat < 4 then (s.failPort n).noteCabled n
          else s.trained n t

/-- Phase 7 starts: spares take the mode that the settings record gives them, and every port with a harness trains. DEDUCED, log entry 31. DEDUCED, log entry 110. -/
def State.startTraining (s : State) : State :=
  let mode := BitVec.ofNat 2 (Tbl.get 0 s.flash.settings 0x300010).toNat
  let s := { s with links := { s.links with torus := mode } }
  (List.range 25).foldl (fun s n =>
    if (Tbl.find s.boot.harness n).isSome then s.setPState n PS.training
    else if 23 ≤ n ∧ mode.getLsbD (n - 23) = false then s.setPState n PS.spareIdle
    else s) s

/-! ### The order of the phases (R552) -/

/-- Phases 2 to 12 start or are skipped, each as soon as its condition holds. Without a harness phases 7 and 8 end at once. -/
def State.advance (s : State) : State :=
  let go := fun (n : Nat) (ready : Bool) (s : State) => if s.phase n = 0 ∧ ready then s.startPhase n else s
  let s := go 2 (s.phaseOver 1 && s.phase 1 != 4) s
  let s := go 3 (s.phaseOver 2) s
  let s := go 5 (s.phaseOver 3) s
  let s := if s.phase 4 = 0 ∧ s.phase 5 = 4 then s.skipPhase 4 else go 4 (s.phaseOver 5 && s.released) s
  let s := go 6 (s.phaseOver 3 && s.released) s
  let s := if s.phase 7 = 0 ∧ s.phaseOver 3 then
      (if s.boot.harness = [] then
        (((s.startPhase 7).endPhase 7 2).startPhase 8).endPhase 8 2
       else (s.startPhase 7).startTraining)
    else s
  let s := go 8 (s.phaseOver 7) s
  let s := if s.phase 9 = 0 ∧ s.phase 5 = 4 then s.skipPhase 9 else go 9 (s.phaseOver 4 && s.phaseOver 5 && s.phaseOver 6) s
  s.advanceHive.bootState

/-- The row of a phase: its work while it runs, its end with the RESULT the work gives, and what may then start. -/
def State.phaseRow (s : State) (n : Nat) (f : State → State × Nat) : State :=
  if s.phase n ≠ 1 then s
  else
    let r := f s
    (r.1.endPhase n r.2).advance

/-- POWER_GOOD: the beat counter starts at 0 and phase 1 starts (R40, R550, R551). Stand-by is left first (R533). DESIGN CHOICE, log entry 11. -/
def execPowerGood (slot : Nat) (s : State) : Res :=
  .next (if s.mgmt.powerGood ∨ s.mgmt.standby then s
    else
      let s : State := { s with
        mgmt := { s.mgmt with powerGood := true, slot := slot % 64, beat := 0, refCycle := 0, sincePg := 0 }
        power := { s.power with hist1 := [(2 ^ 20, 2800)], hist2 := [(256, 3300)] } }
      let s := s.wr rMgtBringup 0 0 (slot % 64 * 2 ^ 46 + slot % 64 * 15000 * 65536)
      s.startPhase 1)

/-- STAGGER_RELEASE: SLOT × 15,000 beats after power-good (R550). -/
def execStaggerRelease (s : State) : Res :=
  s.live fun s =>
    if s.mgmt.staggered ∨ s.mgmt.sincePg < s.fld rMgtBringup 0 0 35 16 then s
    else ({ s with mgmt := { s.mgmt with staggered := true } } : State).advance

/-! ### Phases 1 to 3 -/

/-- A firmware class boots: its newer slot if it verifies and is no older than the fuse, else the older one (R494). -/
def bootClass (svn : Nat) (a b : FwSlot) : Option FwClass :=
  let bNew := decide (a.staging < b.staging)
  let ok := fun (x : FwSlot) => x.verified && decide (svn ≤ x.svn)
  if ok (if bNew then b else a) then some { a := a, b := b, runsB := bNew, older := false, image := if bNew then b else a }
  else if ok (if bNew then a else b) then some { a := a, b := b, runsB := !bNew, older := true, image := if bNew then a else b }
  else none

/-- The five classes of a boot, in order; none if some class has no slot to boot. -/
def bootAll (svn : Nat → Nat) : Nat → List (FwSlot × FwSlot) → Option (Tbl FwClass)
  | _, [] => some []
  | c, x :: t => match bootClass (svn c) x.1 x.2, bootAll svn (c + 1) t with
    | some f, some r => some ((c, f) :: r)
    | _, _ => none

/-- The class 1 image that runs has the keys revoked that it names; a blown fuse stays blown (R493). DESIGN CHOICE, log entry 106. -/
def State.revokeKeys (s : State) : State :=
  let r := s.sec.revoked ||| (Config.revokes (s.fwDigest 1)).toNat
  { s with sec := { s.sec with revoked := r } }.setFld rSecStatus 0 0 15 12 r

/-- ROOT_OF_TRUST (R491 to R495). -/
def rootOfTrust (slots : List (FwSlot × FwSlot)) (aliasKey : Bool) (s : State) : State :=
  if s.phase 1 ≠ 1 ∨ slots.length ≠ 5 then s
  else match bootAll s.svn 1 slots with
    | none => ((s.setFld rMgtBuPhase 0 0 63 60 4).bootCause 1 1).bootState
    | some fw =>
      let s := { s with sec := { s.sec with fw := fw, hasAlias := aliasKey } }
      let pair := (s.fwDigest 1, s.fwDigest 2)
      let pairs := if aliasKey then (if s.sec.pairs.contains pair then s.sec.pairs else pair :: s.sec.pairs) else s.sec.pairs.erase pair
      let s := { s with sec := { s.sec with pairs := pairs } }
      let fall := fw.foldl (fun v (e : Nat × FwClass) => if e.2.older then v + 2 ^ (e.1 - 1) else v) 0
      let s := (s.setFld rSecStatus 0 0 11 7 fall).setFld rSecStatus 0 0 1 0 (if aliasKey = false then 3 else if fall = 0 then 1 else 2)
      s.revokeKeys.phaseRow 1 fun s => (s, 2)

/-- R491. DESIGN CHOICE, log entry 107. -/
def execRootOfTrust (slots : List (FwSlot × FwSlot)) (aliasKey : Bool) (s : State) : Res := s.live (rootOfTrust slots aliasKey)

/-- The used ageing count that a boot finds: the count in boot flash, and no less than the fuses show (R548, R549). -/
def State.loadAge (s : State) (d : Nat) : State :=
  let used := Nat.max (Tbl.get 0 s.power.flash d) (Tbl.get 0 s.power.fuse d * allowanceBeats / 64)
  (s.setAge d used).upPower fun w => { w with aged := Tbl.set 0 w.aged d (ageLevel used) }

/-- MGMT_FW: straps, settings record, spare map and failed regulator phases are read (R552). -/
def execMgmtFw (settingsOk : Bool) (s : State) : Res :=
  s.live fun s => s.phaseRow 2 fun s =>
    let s := (List.range 4).foldl (fun s d => s.loadAge d) s
    if settingsOk then (s, 2)
    else (({ s with flash := { s.flash with settings := [] }, boot := { s.boot with settingsOk := false } } : State).bootCause 2 9, 3)

/-- IDENTITY: the carrier's and the harnesses' identity memories are read (R552). -/
def execIdentity (carrier : Option CarrierIn) (ports : List (Nat × Harness)) (s : State) : Res :=
  s.live fun s => s.phaseRow 3 fun s =>
    let near := ports.foldl (fun t (e : Nat × Harness) => if e.1 < 25 then Tbl.put t e.1 e.2 else t) []
    (s.upBoot fun b => { b with carrier := carrier, harness := near }, 2)

/-! ### Phase 4 (R269, R270) -/

/-- A stack after training: the pseudo-channels that failed, its frames and its state (R270). -/
def State.trainStack (s : State) (failed : List (Nat × Nat)) (dead : List Nat) (h : Nat) : State :=
  let bad := (List.range 64).filter fun c => dead.contains h || failed.contains (h, c)
  let live := 64 - bad.length
  let s := s.wr rMemHbmPcfailH 0 h (bad.foldl (fun v c => v + 2 ^ c) 0)
  let s := s.setFld rMemHbmH 0 h 23 5 (if live < 32 then 0 else 262144 * live / 64)
  let s := s.setFld rMemHbmH 0 h 2 0 (if live < 32 then 3 else if live < 64 then 2 else 1)
  if bad = [] then s else s.raiseM 0x011 h (s.rd rMemHbmPcfailH 0 h)

/-- Recorded soft repairs at training: up to four rows of a bank in all are fused, the others are repaired again and counted (R269).
A row's key is that of its bank times 16,384, plus the row. -/
def State.redoRepair (s : State) (row : Nat) : State :=
  let mine := (s.hbm.fused.filter fun r => r / 16384 == row / 16384).length
  if s.hbm.fused.contains row then s
  else if mine < 4 then { s with hbm := { s.hbm with fused := row :: s.hbm.fused } }
  else
    let h := row / 16384 / 4096
    (s.setFld rMemHbmH 0 h 31 24 (satAdd 255 (s.fld rMemHbmH 0 h 31 24) 1)).raiseM 0x012 h (row % (16384 * 4096))

/-- HBM_TRAIN (R552). -/
def execHbmTrain (failed : List (Nat × Nat)) (failedStacks : List Nat) (s : State) : Res :=
  s.live fun s => s.phaseRow 4 fun s =>
    let s := (List.range 12).foldl (fun s h => s.trainStack failed failedStacks h) s
    let s := s.hbm.repaired.foldl (fun s r => s.redoRepair r) s
    if failed = [] ∧ failedStacks = [] then (s, 2) else (s.bootCause 4 7, 3)

/-! ### Phase 5 (R286, R292, R304, R305, R556) -/

/-- Does the carrier identity memory pass R556? -/
def carrierOk (c : CarrierIn) : Bool :=
  let b := c.bytes
  b.length == 640 && bfld b 0 4 == 0x52435947 && bfld b 4 2 == 1 && c.sigOk &&
  ((bfld b 6 1 == 0 && bfld b 0x15 1 == 8 && bfld b 0x20 4 == 61035156) ||
   (bfld b 6 1 == 1 && bfld b 0x15 1 == 16 && bfld b 0x20 4 == 122070312))

/-- The mount: what the identity memory says of the carrier, its health, its wear, the pool's size (R239, R286, R301, R556). -/
def State.mountStore (s : State) (c : CarrierIn) (m : MountIn) : State :=
  let b := c.bytes
  let big := bfld b 6 1 == 1
  let fresh := bfld b 8 8 != s.store.serial
  let t := s.store
  let t : Store := if fresh then
      { mounted := true, variant32 := big, credit := m.creditMiB * 1048576, charged := m.chargedBytes, serial := bfld b 8 8, heldUp := t.heldUp }
    else { t with mounted := true, variant32 := big }
  let spares := ((List.range m.spares.length).zip m.spares).foldl (fun t e => Tbl.set (0, 0) t e.1 e.2) []
  let s : State := { s with store := { t with
    avgPe := m.avgPe, spares := spares, journalSpare := m.journalSpare,
    nand := { t.nand with thirds := 0, patrol := 0 } }, boot := { s.boot with newCarrier := fresh } }
  let lost : Nat := if fresh then 0 else s.store.lost
  let st : Nat := if fresh then 1 else if s.store.health = 5 ∨ s.store.health = 4 then s.store.health
    else if s.store.rebuild ≠ [] then 2 else if lost ≠ 0 then 3 else 1
  let s := s.wr rStoGeom 0 0 ((if big then 1 else 0) * 2 ^ 56 + bfld b 0x15 1 * 2 ^ 48 + bfld b 0x20 4)
  let s := s.wr rMemPoolSize 0 0 (1572864 * 2 ^ 32 + if big then 120431912 else 59396756)
  let s := s.setStoreState fun s => s.wr rStoHealth 0 0
    (s.spareMin * 2 ^ 56 + lost * 2 ^ 40 + (if s.store.rebuild = [] then 100 else 0) * 2 ^ 32 + st)
  (s.wr rStoWear 0 0 (ofSigned 32 (s.store.credit / 1048576) * 2 ^ 32)).noteWear.checkReadOnly

/-- STORE_MOUNT (R38, R552). -/
def storeMount (m : MountIn) (s : State) : State × Nat :=
  let fail := fun (s : State) (c : Nat) => (s.bootCause 5 c, 4)
  match s.boot.carrier with
  | none => fail s 2
  | some c =>
    if carrierOk c = false then fail s 3
    else if c.bbmDigest.toNat ≠ beNat ((c.bytes.drop 0x30).take 32) then fail s 4
    else
      let s := holdupTest m.energy { s with store := { s.store with heldUp := s.mgmt.beat } }
      if m.energy * 100 / 140 < 120 then fail s 5
      else if m.journalOk = false then fail s 6
      else (s.mountStore c m, 2)

/-- R556. -/
def execStoreMount (m : MountIn) (s : State) : Res := s.live fun s => s.phaseRow 5 (storeMount m)

/-! ### Phase 6 (R112, R113, R456) -/

/-- A group's logical numbers go to its lowest-numbered working cores (R113). -/
def mapGroup (retired : List Nat) (die j : Nat) (t : Tbl Nat) : Tbl Nat :=
  (((groupCores die j).filter fun c => !retired.contains c).take 320).foldl
    (fun (r : Tbl Nat × Nat) c => (Tbl.put r.1 (die * 1280 + j * 320 + r.2) (c + 1), r.2 + 1)) (t, 0) |>.1

/-- CORE_TEST: cores that fail are retired, a die that fails, or that has 25 failed regulator phases, is declared failed (R113, R456,
R552). DEDUCED, log entry 124. The logical cores of a die that fails are mapped like those of any other; DESIGN CHOICE, log entry 157. A
core once retired stays retired at later power cycles; DESIGN CHOICE, log entry 171. -/
def execCoreTest (failedCores failedDies : List Nat) (s : State) : Res :=
  s.live fun s => s.phaseRow 6 fun s =>
    let retired := failedCores.foldl (fun l c => if l.contains c then l else c :: l) s.cmap.retired
    let dead := (List.range 4).filter fun d => failedDies.contains d || decide (25 ≤ s.failedPhases d)
    let map := (List.range 4).foldl (fun t d => (List.range 4).foldl (fun t j => mapGroup retired d j t) t) []
    let s := { s with cmap := { retired := retired, map := map }, mgmt := { s.mgmt with deadDies := dead } }
    let s := (List.range 4).foldl (fun s d => s.syncSpares d) s
    if dead = [] then (s, 2) else (s.bootCause 6 8, 3)

/-! ### Phases 7 and 8 -/

/-- PORT_TRAIN: every port in training is trained and checked; in service, those that a harness mated later has brought there
(R558, R582). -/
def portTrain (found : List (Nat × TrainIn)) (s : State) : State :=
  let train := fun (s : State) => (List.range 25).foldl (fun s n =>
    s.trainPort n ((found.find? fun e => e.1 == n).map (·.2))) s
  if s.phase 7 = 1 then s.phaseRow 7 fun s => let s := train s; (s, if s.boot.cabled = [] then 2 else 3)
  else if s.phaseOver 7 then train s
  else s

/-- R558. -/
def execPortTrain (found : List (Nat × TrainIn)) (s : State) : Res := s.live (portTrain found)

/-- LINK_AUTH: the phase ends; a port that has not authenticated its peer by then fails (R517, R552). DEDUCED, log entry 117. -/
def execLinkAuth (s : State) : Res :=
  s.live fun s => s.phaseRow 8 fun s =>
    let s := (List.range 25).foldl (fun s n => if s.pstate n = PS.authenticating then s.linkAuthFailed n else s) s
    (s, if (List.range 25).any fun n => s.pstate n == PS.failed && !s.boot.cabled.contains n then 3 else 2)

/-- HARNESS_MATE: an unmated port goes through FAILED; a mated one trains, if its harness passes the checks (R558, R582). Before phase
7 only the identity memory is read. -/
def harnessMate (n : Nat) (h : Option Harness) (s : State) : State :=
  if 25 ≤ n ∨ s.phaseOver 3 = false then s
  else
    let st := s.pstate n
    let s := s.upBoot fun b => { b with harness := match h with
      | some x => Tbl.put b.harness n x
      | none => Tbl.del b.harness n }
    if s.phase 7 = 0 then s
    else match h with
      | none => if st = PS.down ∨ st = PS.spareIdle then s else s.failPort n
      | some x =>
        if st ≠ PS.down ∧ st ≠ PS.failed ∧ st ≠ PS.spareIdle then s
        else if s.harnessPasses n x then s.setPState n PS.training
        else (s.cableFail n 7 0x0a).noteCabled n

/-- R582. -/
def execHarnessMate (port : Nat) (h : Option Harness) (s : State) : Res := s.live (harnessMate port h)

/-! ### Phase 9 (R554, R555) -/

/-- One field of the settings record is applied and logged with SOURCE 3 (R518, R554). -/
def State.applyField (s : State) (r : RegSpec) (i off v : Nat) (f : RegField) : State :=
  if f.acc ≠ .rw then s
  else
    let old := s.rd r 0 i
    let new := setBits old f.hi f.lo (bits v f.hi f.lo)
    (if s.canLog then s.logChange off 3 old new else s).give r 0 i new

/-- The settings record is applied in ascending offset, each register's fields from the lowest bit (R554; DEDUCED, log
entry 125). A shape request of phase 9 takes REQ_SHAPE over though a change is going on (DESIGN CHOICE, log entry 168). -/
def State.applySettings (s : State) : State :=
  s.flash.settings.foldl (fun s (e : Nat × W64) => match findReg 0 e.1 regMap with
    | some (r, i, _) => r.fields.reverse.foldl (fun s f => s.applyField r i e.1 e.2.toNat f) s
    | none => s) s

/-- What the settings bring into force beside their registers: the shape, the limits, SB3's owner and the buddies (R451, R535, R554,
R577, R578). -/
def State.settingsInForce (s : State) : State :=
  let s := s.setFld rMgtPtnShape 0 0 3 2 ((Tbl.get 0 s.flash.settings 0x200).toNat % 4)
  let s := s.takeLimits true
  let s := s.setFld rMgtPpsStatus 0 0 31 31 0
  (List.range 4).foldl (fun s p => if s.fld rMemBuddyPtn 0 p 0 0 = 1 then s.setFld rMemBuddyPtn 0 p 2 1 1 else s) s

/-- Has partition `p` a die that is declared failed? -/
def State.ptnDead (s : State) (p : Nat) : Bool := s.mgmt.deadDies.any fun d => d / s.k == p

/-- Is the journal state of partition `p` lost: another shape, a new carrier, a failed die, or images that cannot be restored (R555,
R556)? DESIGN CHOICE, log entry 30. -/
def State.journalLost (s : State) (p : Nat) : Bool :=
  let q := s.pt p
  s.flash.shape != s.fld rMgtPtnShape 0 0 3 2 || s.boot.newCarrier || s.ptnDead p ||
    (q.job != .noJob && q.job != .opening && (s.rollTarget p).isNone)

/-- The partition is formed without its journal state: what had no completion gets SHAPE_LOST, written when the host next enables the
ring (R322, R331, R555). -/
def State.shapeLost (s : State) (p : Nat) : State :=
  let s := s.upPt p fun q => { q with journal := q.journal.filterMap JEntry.atDiscard }
  let s := (s.disableRings p).discardAll p 8 fun _ => false
  let s := (s.releaseJob p).setJob p .noJob
  let s := s.upPt p fun q => { q with descs := [], flr := none, abort := none, rollReq := none, endCause := none }
  s.disableRings p

/-- A job whose initial cut the journal holds is open: MEM_CUT_DONE takes its last durable cut's beat again, and a JOB_OPEN whose completion was
not acknowledged before the power fell completes (R261, R304, R345). -/
def State.reopened (s : State) (p : Nat) : State :=
  match (s.pt p).durable with
  | none => s
  | some c =>
    let s := s.wr rMemCutDonePtn 0 p c.beat
    match (s.pt p).descs.find? fun d => d.opcode == 1 && d.start.isSome && !d.done with
    | some d => if (s.pt p).job = .running then s.finish p d Code.done 0 c.beat 0 else s
    | none => s

/-- Partition `p` is formed (R443, R508, R555). -/
def State.formAt (s : State) (p : Nat) : State :=
  let s := if s.journalLost p then s.shapeLost p else s
  if s.present p = false then s.setFunc p .absent
  else
    let s := (s.drawHbmKey p).setFunc p .resetting
    if s.ptnDead p then s
    else
      let s := if (s.pt p).job = .noJob then s else (s.rollNow p 8 s.lastBeat).reopened p
      s.upPt p fun q => { q with func := .resetting, rolling := some s.lastBeat }

/-- PARTITIONS (R554, R555). -/
def execPartitions (s : State) : Res :=
  s.live fun s => s.phaseRow 9 fun s =>
    let s := s.applySettings.settingsInForce
    let s := { s with regs := s.flash.rings.foldl (fun t (e : Nat × W64) => Tbl.put t e.1 e.2) s.regs }
    let s := (List.range 4).foldl (fun s p => s.formAt p) s
    let s := { s with flash := { s.flash with shape := s.fld rMgtPtnShape 0 0 3 2 } }
    (s, if (List.range 4).any fun p => s.present p && s.ptnDead p then 3 else 2)

end Sys2Proof.Machine
end

