-- ==== Sys2Proof/Machine/Telemetry.lean ====
section
/-! DEFINITION. Telemetry, the management I3C bus, PERST# and SB3 (R533, R545, R567, R568, R573, R576 to R579). -/

namespace Sys2Proof.Machine

/-! ### Sums over an epoch (R568) -/

/-- A temperature as a sum holds it: offset by 32,768. -/
def offTemp (t : Int) : Nat := (t + 32768).toNat

/-- The highest of some sensors, in the offset form, with what is held already. -/
def State.hottest (s : State) (xs : List Nat) (old : Nat) : Nat := xs.foldl (fun m x => Nat.max m (offTemp (s.temp x))) old

/-- The sums take the beat that ends, which drew `watts`. -/
def State.telBeat (s : State) (watts : Nat) : State :=
  s.tally fun t =>
    let clk := (List.range 4).map fun d => s.fld rPwrCdClock 0 d 15 0
    let dies := List.range 4
    { t with
      beats := t.beats + 1, energy := t.energy + watts, peak := Nat.max t.peak watts
      idle := t.idle + if s.mgmt.idleDies = [] then 0 else 1
      brake := t.brake + s.fld rPwrStatus 0 0 15 15
      clkSum := dies.foldl (fun u d => Tbl.upd 0 u d (· + clk.getD d 0)) t.clkSum
      clkN := dies.foldl (fun u d => Tbl.upd 0 u d (· + if clk.getD d 0 = 0 then 0 else 1)) t.clkN
      tj := dies.foldl (fun u d => Tbl.upd 0 u d (s.hottest ((List.range 16).map (16 * d + ·)))) t.tj
      hbmT := s.hottest ((List.range 12).map (0x50 + ·)) t.hbmT
      inSum := t.inSum + offTemp (s.temp 0x5e), inN := t.inN + 1
      outSum := t.outSum + offTemp (s.temp 0x5f), outN := t.outN + 1 }

/-- A mean, 0 of nothing. -/
def meanOf (sum n : Nat) : Nat := if n = 0 then 0 else sum / n

/-- A count in a field of `n` bytes, saturating. -/
def satBytes (n v : Nat) : Bytes := leBytes n (Nat.min v (2 ^ (8 * n) - 1))

/-- A temperature of the offset form in a field of two bytes; 0 where none was taken. -/
def tempBytes (v : Nat) : Bytes := leBytes 2 (if v = 0 then 0 else ofSigned 16 ((v : Int) - 32768))

/-- Mean draw of the epoch in watts. -/
def EpochSum.meanW (t : EpochSum) : Nat := meanOf t.energy t.beats

/-- Bit n set when port n is UP. -/
def State.portsUp (s : State) : Nat := (List.range 25).foldl (fun v n => v + if s.pup n then 2 ^ n else 0) 0

/-- Bytes 0x00 to 0x77 of the record of epoch `e` (R568). -/
def State.telBytes (s : State) (e : Nat) : Bytes :=
  let t := s.tel.sum
  let mb := fun (n : Nat) => n / 1000000
  leBytes 8 e ++ satBytes 4 (t.energy * 4096 / 1000000000) ++ satBytes 2 t.meanW ++ satBytes 2 t.peak ++
  satBytes 4 t.idle ++ satBytes 4 t.brake ++
  ((List.range 4).flatMap fun d => satBytes 2 (meanOf (Tbl.get 0 t.clkSum d) (Tbl.get 0 t.clkN d))) ++
  ((List.range 4).flatMap fun d => tempBytes (Tbl.get 0 t.tj d)) ++
  tempBytes t.hbmT ++ tempBytes (meanOf t.inSum t.inN) ++ tempBytes (meanOf t.outSum t.outN) ++ satBytes 2 s.tel.flow ++
  ((List.range 4).flatMap fun d => satBytes 2 (s.fld rPwrAgeCd 0 d 56 43)) ++
  satBytes 4 t.ce ++ satBytes 2 t.ue ++ leBytes 2 0 ++ satBytes 4 (mb t.stoRd) ++ satBytes 4 (mb t.stoWr) ++
  leBytes 4 (s.fld rStoWear 0 0 63 32) ++ leBytes 2 (s.fld rStoWear 0 0 31 16) ++ leBytes 1 (s.fld rStoHealth 0 0 3 0) ++
  leBytes 1 (s.fld rStoHoldup 0 0 15 8) ++ satBytes 4 t.retries ++ satBytes 4 t.corrected ++
  satBytes 4 (t.linkTx / 1000000000) ++ leBytes 4 s.portsUp ++
  satBytes 2 t.replays ++ satBytes 2 t.restores ++ satBytes 1 t.rollbacks ++ satBytes 1 t.remaps ++ satBytes 1 t.cuts ++ leBytes 1 0 ++
  leBytes 2 (s.fld rMgtTimeAlign 0 0 15 0) ++ leBytes 1 (s.fld rMgtTimeAlign 0 0 31 30) ++ leBytes 5 0 ++ leBytes 8 0

/-- The estimate of coolant flow at an epoch boundary, in 0.01 L/min: 1.51 × P / ΔT (R545). With no rise in temperature the spec states
no result: a free value. DESIGN CHOICE, log entry 118. -/
def State.flowEstimate (s : State) : State :=
  let t := s.tel.sum
  if t.meanW < 500 then s
  else
    let i := meanOf t.inSum t.inN
    let o := meanOf t.outSum t.outN
    let r : Nat × State := if i < o then (151 * t.meanW * 8 / (100 * (o - i)), s) else let f := s.freshW64; (f.1.toNat % 65536, f.2)
    { r.2 with tel := { r.2.tel with flow := r.1 }, power := { r.2.power with flowLow := decide (r.1 < 350) } }

/-- Telemetry at the boundary that ends epoch `e`: the flow is estimated, the record is made up if the ring is enabled, and the sums begin
anew (R41, R545, R567). -/
def State.telEpoch (s : State) (e : Nat) : State :=
  let s := s.flowEstimate
  let due := if s.fld rMgtTelCfg 0 0 31 31 = 1 ∧ s.tel.since < e then some (e, s.telBytes e) else none
  { s with tel := { s.tel with due := due, sum := {} } }

/-- TELEMETRY_RECORD: the record is written if the ring has room, else counted as lost (R567). DEDUCED, log entry 119. -/
def telemetryRecord (head : Option W64) (s : State) : State :=
  match s.tel.due with
  | none => s
  | some (e, bs) =>
    if s.fld rMgtTelCfg 0 0 31 31 = 0 ∨ s.busMaster 0 = false then s
    else
      let w := s.tel.written
      let h := (head.map (·.toNat)).getD s.tel.head
      let l := s.fld rMgtTelCfg 0 0 4 0
      let s := { s with tel := { s.tel with due := none, head := h } }
      if (w + 2 ^ 64 - h) % 2 ^ 64 < 2 ^ l then
        let status := (w / 2 ^ l + 1) % 2 * 2 ^ 63 + if s.tel.lostNext then 2 ^ 62 else 0
        let s := s.emit (.hostWrite 0 (s.rd rMgtTelBase 0 0 + 128 * (w % 2 ^ l)) (bs ++ leBytes 8 status))
        let s := { s with tel := { s.tel with written := (w + 1) % 2 ^ 64, lostNext := false } }
        s.raiseM 0x070 e ((w + 1) % 2 ^ 64)
      else
        { s.setFld rMgtTelCfg 0 0 15 8 (satAdd 255 (s.fld rMgtTelCfg 0 0 15 8) 1) with tel := { s.tel with lostNext := true } }

/-- R567. -/
def execTelemetryRecord (head : Option W64) (s : State) : Res := s.live (telemetryRecord head)

/-! ### The management I3C bus and PERST# (R533, R544, R573, R576) -/

/-- The module leaves stand-by; after a thermal trip only when every sensor reads below 90 °C (R533, R544). DESIGN CHOICE, log entry 23. -/
def State.leaveL4 (s : State) (cool : Bool) : State :=
  if s.mgmt.standby ∧ (s.mgmt.tripped = false ∨ cool) then { s with mgmt := { s.mgmt with standby := false, tripped := false } } else s

/-- I3C WAKE: leaves L4 and is ignored in any other state (R576). -/
def execI3cWake (cool : Bool) (s : State) : Res := .next (s.leaveL4 cool)

/-- I3C BRINGUP: MGT_BRINGUP, all zero in L4 (R576). -/
def execI3cBringup (s : State) : Res :=
  .next (s.emit (.message "I3C" 0 (byteNats (leBytes 8 (if s.mgmt.powerGood then s.rd rMgtBringup 0 0 else 0)))))

/-- The deepest state of any partition, 4 for L4 (R576). -/
def State.deepest (s : State) : Nat :=
  if s.mgmt.powerGood then (List.range s.parts).foldl (fun m p => Nat.max m (s.lstate p)) 0 else 4

/-- I3C POWER_STATE (R576). -/
def execI3cPowerState (s : State) : Res := .next (s.emit (.message "I3C" 0 [s.deepest]))

/-- SETDASA or ENTDAA gives the module a dynamic address (R576). -/
def execDynamicAddressAssignment (addr : Nat) (s : State) : Res :=
  .next { s with mgmt := { s.mgmt with dynAddr := addr % 128 } }

/-- PERST_DEASSERT: the link may train, and the module leaves L4 (R533, R573, R574). -/
def execPerstDeassert (cool : Bool) (s : State) : Res :=
  .next (State.leaveL4 { s with mgmt := { s.mgmt with perst := false } } cool)

/-! ### SB3 (R577 to R579) -/

/-- MGT_SB3 is written (R578). -/
def mgtSb3Write (v : Nat) (s : State) : State :=
  let new := bits v 1 0
  let cur := s.fld rMgtSb3 0 0 1 0
  let res := fun (c : Nat) (s : State) => s.setFld rMgtSb3 0 0 31 16 c
  if new = 3 then res Code.invalidOperand s
  else if new ≠ 0 ∧ cur ≠ 0 ∧ new ≠ cur then res Code.resourceHeld s
  else s.logged 0x700 0 cur new
    (fun s => res Code.done { s with mgmt := { s.mgmt with sb3Req := some (new, s.mgmt.beat) } }) (res Code.resourceHeld)

/-- R578. -/
def execMgtSb3Write (v : W32) (s : State) : Res := s.live (mgtSb3Write v.toNat)

/-- A change of SB3's owner takes effect at the boundary; VALID is cleared when the time input is taken or released (R578). Until phase 9 has
applied the settings record SB3 has no owner, and a change waits (R577). -/
def State.sb3Boundary (s : State) : State :=
  match s.mgmt.sb3Req with
  | none => s
  | some (o, _) =>
    let cur := s.fld rMgtSb3 0 0 1 0
    if s.phase 9 ≠ 2 ∧ s.phase 9 ≠ 3 then s
    else
    let s := { s with mgmt := { s.mgmt with sb3Req := none } }
    if o = cur then s
    else
      let s := (s.setFld rMgtSb3 0 0 1 0 o).noteSetting 0x700
      if o = 1 ∨ cur = 1 then s.setFld rMgtPpsStatus 0 0 31 31 0 else s

end Sys2Proof.Machine
end

