-- ==== Sys2Proof/Machine/Registers.lean ====
section
/-! DEFINITION. Reads and writes of BAR0 and local registers by access type (R7 to R11, R227, R309, R313, R363, R367, R518). -/

namespace Sys2Proof.Machine

/-! ### Registers as they read -/

/-- A tier page-table entry (R226). -/
def Page.entry (g : Page) : Nat :=
  Nat.min g.age 65535 * 2 ^ 48 + g.stack % 16 * 2 ^ 44 + g.frame % 2 ^ 18 * 2 ^ 26 + (if 0 < g.pins + g.opins then 2048 else 0) +
    (if g.cow then 1024 else 0) + (if g.dirty then 512 else 0) + (if g.capped then 256 else 0) + g.region % 16 * 16 + g.state % 8

/-- MEM_TIER_QRES: the selected entry at the most recent boundary (R227). -/
def State.tierRes (s : State) : Nat :=
  let p := s.fld rMemTierQsel 0 0 49 48
  let n := s.fld rMemTierQsel 0 0 47 18
  match if s.present p then (s.pt p).region n else none with
  | none => 2 ^ 64 - 1
  | some r => (Tbl.get { region := r.1, age := (s.pt p).idleSeen } (s.pt p).seen n).entry

/-- MGT_CORE_MAP: the selected logical core, once the self-test has mapped the cores (R113, R117). -/
def State.coreMapRes (s : State) : Nat :=
  let p := s.fld rMgtCoreMapSel 0 0 17 16
  let lc := s.fld rMgtCoreMapSel 0 0 12 0
  if s.phaseOver 6 = false ∨ s.present p = false ∨ 1280 * s.k ≤ lc then 0
  else match s.phys p lc with
    | some n => 2 ^ 31 + n
    | none => 2 ^ 31 + 2 ^ 30

/-- PTN_ACCEPT. -/
def State.acceptReg (s : State) (p : Nat) : Nat :=
  let n := (s.pt p).inFlight
  (if s.holdupStop then 2 ^ 33 else 0) + (if n = s.limit then 2 ^ 32 else 0) + s.limit % 65536 * 65536 + n % 65536

/-- MEM_CUT_PTNp: D as at the most recent boundary, and where flushes go (R260, R261). -/
def State.cutReg (s : State) (p : Nat) : Nat :=
  let d := (s.pt p).seen.foldl (fun n (e : Nat × Page) => if e.2.touched then n + 1 else n) 0
  setBits (setBits (s.rd rMemCutPtn 0 p) 63 32 d) 21 21 (if s.mirroring p then 1 else 0)

/-- Is the register one of a set of four, one for each partition? DEDUCED, log entry 120. -/
def RegSpec.perPtn (r : RegSpec) : Bool :=
  r.space == .mgmt && ([0x500, 0x100040, 0x300020, 0x500000, 0x501010, 0x501030, 0x501050, 0x501080, 0x5010A0, 0x5010C0, 0x5010E0, 0x501100] : List Nat).contains r.base

/-- A management register as it reads. -/
def State.viewMgmt (s : State) (r : RegSpec) (i : Nat) : Nat :=
  if r.perPtn && !s.present i then 0
  else if r.base = 0x100 then s.mgmt.beat % 2 ^ 64
  else if r.base = 0x328 then s.coreMapRes
  else if r.base = 0x200100 then s.log.count % 2 ^ 64
  else if r.base = 0x501030 then (s.pt i).freeSeen % 2 ^ 32 * 2 ^ 32 + (s.pt i).usedSeen % 2 ^ 32
  else if r.base = 0x501078 then s.tierRes
  else if r.base = 0x501080 then s.cutReg i
  else s.rd r 0 i

/-- Numbers of the event routes that read 0 and ignore writes: reserved ones, COMPLETION and TILE_ERROR (R359, R363). -/
def routed (fn e : Nat) : Bool :=
  if fn = 0 then ([1, 2, 3, 4, 0x10, 0x11, 0x12, 0x13, 0x20, 0x21, 0x22, 0x23, 0x30, 0x31, 0x40, 0x41, 0x42, 0x43, 0x50, 0x51, 0x70, 0x71] : List Nat).contains e
  else ([0x101, 0x102, 0x103, 0x110, 0x111, 0x112, 0x113, 0x114, 0x120, 0x130, 0x131, 0x140, 0x141, 0x142] : List Nat).contains (0x100 + e)

/-- A register of partition function PF(p + 1) as it reads. -/
def State.viewPtn (s : State) (r : RegSpec) (p i : Nat) : Nat :=
  if r.base = 0 then (s.funcState p).code
  else if s.funcState p = .absent then 0
  else if r.base = 0x100 then s.mgmt.beat % 2 ^ 64
  else if r.base = 0x100020 then s.sqStatus p i
  else if r.base = 0x102000 then s.acceptReg p
  else if r.base = 0x102008 then (s.pt p).job.code
  else if r.base = 0x400000 then s.ceStatus p i
  else if r.base = 0x400100 then s.sesStatus p i
  else s.rd r (p + 1) i

/-- Element `i` of register line `r` of function `fn` as it reads. -/
def State.view (s : State) (r : RegSpec) (fn i : Nat) : Nat :=
  match r.space with
  | .mgmt => s.viewMgmt r i
  | .ptn => s.viewPtn r (fn - 1) i
  | .local => s.rd r fn i

/-! ### Reads -/

/-- The RC fields that a read of bits `hi` to `lo` returns are cleared (R8, R11). R11 speaks of the half that holds a field; a field that
lies in both halves is cleared whole by a 32-bit read of either; DESIGN CHOICE, log entry 155. -/
def State.clearRc (s : State) (r : RegSpec) (fn i hi lo : Nat) : State :=
  r.fields.foldl (fun s f => if f.acc = .rc ∧ f.lo ≤ hi ∧ lo ≤ f.hi then s.setFld r fn i f.hi f.lo 0 else s) s

/-- A read of four bytes: the value, and what the read does. -/
def State.readHalf (s : State) (fn off : Nat) : Nat × State :=
  match findReg fn off regMap with
  | none => (0, s)
  | some (r, i, b) => (s.view r fn i / 2 ^ (8 * b) % 2 ^ 32, s.clearRc r fn i (8 * b + 31) (8 * b))

/-- A read of eight bytes: a 64-bit register at once, else its two words (R11, R313). DEDUCED, log entry 122. -/
def State.readWhole (s : State) (fn off : Nat) : Nat × State :=
  match findReg fn off regMap with
  | some (r, i, 0) =>
    if r.width = 8 then (s.view r fn i, s.clearRc r fn i 63 0)
    else
      let a := s.readHalf fn off
      let b := a.2.readHalf fn (off + 4)
      (a.1 + b.1 * 2 ^ 32, b.2)
  | _ =>
    let a := s.readHalf fn off
    let b := a.2.readHalf fn (off + 4)
    (a.1 + b.1 * 2 ^ 32, b.2)

/-- May an access of `width` bytes at `off` be served (R313)? -/
def alignedAccess (off width : Nat) : Bool := (width == 4 || width == 8) && off % width == 0

/-- Does `fn` name a space of registers: BAR0 of PF0 to PF4, the local interface of processor `fn` - 16, BAR2 of PF(`fn` - 32), or the
configuration space of PF(`fn` - 64)? DESIGN CHOICE, log entry 135. -/
def hasRegs (fn : Nat) : Bool :=
  decide (fn ≤ 4) || (decide (16 ≤ fn) && decide (fn < 26)) || (decide (33 ≤ fn) && decide (fn ≤ 36)) || (decide (64 ≤ fn) && decide (fn ≤ 68))

/-- The local interface takes a read of EVT_LCL_CLAIM as a claim, PF0 a read of SEC_LOG_COUNT as the latch of HEAD, and a 64-bit read of
MGT_BEAT latches REF_CYCLE (R42, R369, R524). -/
def State.readLatch (s : State) (fn off width : Nat) : State :=
  if fn = 0 ∧ off = 0x100 ∧ width = 8 then s.wr rMgtBeatFrac 0 0 s.mgmt.refCycle
  else if fn = 0 ∧ (off = 0x200100 ∨ off = 0x200104) then
    (List.range 4).foldl (fun s w => s.wr rSecLogHead 0 w (bfld s.logHead (8 * w) 8)) s
  else s

/-- Until phase 2 of bring-up has ended a configuration request completes with Request Retry Status and does nothing else (R573). -/
def State.retryStatus (s : State) (fn off : Nat) : State := s.emit (.message "REQUEST_RETRY_STATUS" (64 + fn) [off])

/-- A read of configuration space: one aligned word (R310). PRESUMED, log entry 141. -/
def configRead (fn off width : Nat) (s : State) : State :=
  if s.phaseOver 2 = false then s.retryStatus fn off
  else s.emit (.readData (64 + fn) off width (BitVec.ofNat 64
    (if width = 4 ∧ off % 4 = 0 ∧ off < 4096 then s.configWord fn off else 2 ^ (8 * width) - 1)))

/-- A read of a doorbell page: the doorbell is write-only and reads 0, as does the rest of the page (R313, R332). -/
def doorbellRead (fn off width : Nat) (s : State) : State :=
  if s.tdiOpen fn = false then s.refuseAccess fn off
  else s.emit (.readData (32 + fn) off width (BitVec.ofNat 64 (if alignedAccess off width then 0 else 2 ^ (8 * width) - 1)))

/-- Is BAR0 of function `fn` closed to the host: PF0's in D3hot, a partition function's also by its TDI (R310, R504)? -/
def State.hostShut (s : State) (fn : Nat) : Bool := if fn = 0 then s.d3hot 0 else !s.tdiOpen fn

/-- RC_REGISTER_READ: a read of a register returns its value and clears the RC fields it returns; one of another size or alignment
returns all ones (R8, R11, R313). DESIGN CHOICE, log entry 121. -/
def registerRead (fn off width : Nat) (s : State) : State :=
  if hasRegs fn = false then s
  else if 64 ≤ fn then configRead (fn - 64) off width s
  else if 32 ≤ fn then doorbellRead (fn - 32) off width s
  else if 16 ≤ fn ∧ off = 8 then evtLclClaim (fn - 16) s
  else if fn ≤ 4 ∧ s.hostShut fn then s.refuseAccess fn off
  else if alignedAccess off width = false then s.emit (.readData fn off width (BitVec.ofNat 64 (2 ^ (8 * width) - 1)))
  else
    let r := if width = 8 then s.readWhole fn off else s.readHalf fn off
    (r.2.readLatch fn off width).emit (.readData fn off width (BitVec.ofNat 64 r.1))

/-- R11. -/
def execRcRegisterRead (fn off width : Nat) (s : State) : Res := s.live (registerRead fn off width)

/-! ### Writes -/

/-- A register's RW fields take their values from `v`. -/
def State.setRw (s : State) (r : RegSpec) (fn i v : Nat) : State :=
  r.fields.foldl (fun s f => if f.acc = .rw then s.setFld r fn i f.hi f.lo (bits v f.hi f.lo) else s) s

/-- Is some field of the register RW? -/
def RegSpec.writable (r : RegSpec) : Bool := r.fields.any fun f => f.acc == .rw

/-- Registers outside the change log: selectors, the EVT block and MSI-X (R518). -/
def unlogged (off : Nat) : Bool :=
  off == 0x320 || off == 0x501070 || (decide (0x600000 ≤ off) && decide (off < 0x700000)) || decide (0x3F00000 ≤ off)

/-- MGT_TEL_CFG is written (R567). -/
def telCfgWrite (v : Nat) (s : State) : State :=
  let on := s.fld rMgtTelCfg 0 0 31 31 = 1
  let lg := bits v 4 0
  let old := s.rd rMgtTelCfg 0 0
  if bits v 31 31 = 1 ∧ (on ∨ lg < 4 ∨ 12 < lg) then s
  else s.logged 0x700010 0 old (rMgtTelCfg.rwBits v)
    (fun s =>
      let s := s.setFld rMgtTelCfg 0 0 31 31 (bits v 31 31)
      if on then s
      else
        let s := s.setFld rMgtTelCfg 0 0 4 0 lg
        if bits v 31 31 = 0 then s
        else { s with tel := { s.tel with written := 0, head := 0, since := s.epoch, due := none, lostNext := false } })
    id

/-- A write of SEC_OP whose OP is none of the table: 0 starts nothing, another is an invalid operand (R523). The operations come as rows
of their own. -/
def secOpWrite (v : Nat) (s : State) : State :=
  let op := bits v 3 0
  if 1 ≤ op ∧ op ≤ 7 then s
  else s.logged 0x200018 0 (rSecOp.rwBits (s.rd rSecOp 0 0)) (rSecOp.rwBits v)
    (fun s => let s := s.setRw rSecOp 0 0 v; if op = 0 then s else s.secResult Code.invalidOperand)
    (fun s => s.secResult Code.resourceHeld)

/-- A management register takes a written value (R8, R518); the registers with a row of their own are written as that row says. -/
def State.writeMgmt (s : State) (r : RegSpec) (i v : Nat) : State :=
  let off := r.base + r.stride * i
  if r.perPtn && !s.present i then s
  else if r.base = 0x200 then mgtPtnShapeWrite v s
  else if r.base = 0x408 then mgtResetWrite v s
  else if r.base = 0x700 then mgtSb3Write v s
  else if r.base = 0x100000 then pwrLimitsWrite v s
  else if r.base = 0x100008 then pwrCeilingWrite v s
  else if r.base = 0x100040 then pwrPtnStateWrite i v s
  else if r.base = 0x100060 then l4Req v s
  else if r.base = 0x200018 then secOpWrite v s
  else if r.base = 0x300010 then lnkSpareWrite v s
  else if r.base = 0x300018 then lnkVcwWrite v s
  else if r.base = 0x300020 then lnkSluiceWrite i v s
  else if r.base = 0x500000 then memSlmSplitWrite i v ((s.pt i).live.codec.any fun (e : Nat × CdcSes) => e.2.state == 1) s
  else if r.base = 0x501010 then memPoolPtnWrite i v s
  else if r.base = 0x501080 then memCutWrite i v s
  else if r.base = 0x5010C0 then memBuddyWrite i v s
  else if r.base = 0x501100 then (if bits v 0 0 = 1 then s else
    s.logged off 0 (s.rd r 0 i) (bits v 47 32 * 2 ^ 32) (fun s => s.setRw r 0 i v) fun s => s.setFld r 0 i 63 48 Code.resourceHeld)
  else if r.base = 0x700010 then telCfgWrite v s
  else if r.base = 0x700000 ∨ r.base = 0x700008 then
    (if s.fld rMgtTelCfg 0 0 31 31 = 1 then s else s.logged off 0 (s.rd r 0 i) (r.rwBits v) (fun s => s.setRw r 0 i v) id)
  else if r.base = 0x600030 then evtQCfgWrite 0 (i + 1) v s
  else if r.base = 0x600020 ∨ r.base = 0x600028 then (if s.evOn 0 (i + 1) then s else s.setRw r 0 i v)
  else if r.base = 0x601000 then (if routed 0 i then s.setRw r 0 i v else s)
  else if r.writable = false then s
  else if unlogged off then s.setRw r 0 i v
  else s.logged off 0 (s.rd r 0 i) (r.rwBits v) (fun s => s.setRw r 0 i v) id

/-- A register of partition function PF(p + 1) takes a written value. Ring and queue registers are fixed while the ring or queue is
enabled (R326, R362). -/
def State.writePtn (s : State) (r : RegSpec) (p i v : Nat) : State :=
  if s.funcState p = .absent then s
  else if r.base = 0x100010 then ptnSqCfgWrite p i v s
  else if r.base = 0x101010 then ptnCqCfgWrite p i v s
  else if r.base = 0x100000 ∨ r.base = 0x100008 ∨ r.base = 0x100018 then (if s.sqOn p i then s else s.setRw r (p + 1) i v)
  else if r.base = 0x101000 ∨ r.base = 0x101008 then (if s.cqOn p i then s else s.setRw r (p + 1) i v)
  else if r.base = 0x200010 then evtQCfgWrite (p + 1) i v s
  else if r.base = 0x200000 ∨ r.base = 0x200008 then (if s.evOn (p + 1) i then s else s.setRw r (p + 1) i v)
  else if r.base = 0x201000 then (if routed (p + 1) i then s.setRw r (p + 1) i v else s)
  else if r.base = 0x300000 then colGrpWrite p i v s
  else if r.base = 0x301000 then colCqWrite p i v s
  else if r.writable then s.setRw r (p + 1) i v
  else s

/-- Vector `i` sends the message that it has pending, once nothing masks it (R367). PRESUMED, log entry 123. -/
def State.sendPending (s : State) (fn i : Nat) : State :=
  let pba := if fn = 0 then s.fld rMsixPf0Pba 0 0 i i else s.fld rMsixPba fn (i / 64) (i % 64) (i % 64)
  if s.vecMasked fn i = false ∧ pba = 1 then
    (if fn = 0 then s.setFld rMsixPf0Pba 0 0 i i 0 else s.setFld rMsixPba fn (i / 64) (i % 64) (i % 64) 0).msix fn i
  else s

/-- A vector whose entry is written unmasked sends what it has pending (R367). -/
def State.unmasked (s : State) (r : RegSpec) (fn i : Nat) : State :=
  if r.base = 0x3F00008 ∨ (r.space = .ptn ∧ r.base = 0x1F00008) then s.sendPending fn i else s

/-- Element `i` of register line `r` of function `fn` is written whole. A SPLIT above 8 is ignored (R370). -/
def State.writeReg (s : State) (r : RegSpec) (fn i v : Nat) : State :=
  match r.space with
  | .mgmt => (s.writeMgmt r i v).unmasked r 0 i
  | .ptn => (s.writePtn r (fn - 1) i v).unmasked r fn i
  | .local =>
    if r.base = 0x10 then (if bits v 11 0 ∈ (s.lclOf (fn - 16)).active then evtLclComplete (fn - 16) (bits v 11 0) s else s)
    else if r.base = 0 ∧ 8 < bits v 3 0 then s
    else if r.writable then s.setRw r fn i v
    else s

/-- A write of four bytes: a 32-bit register, or a half of a 64-bit one. The low half waits for the high half (R11). -/
def State.writeHalf (s : State) (fn off v : Nat) : State :=
  match findReg fn off regMap with
  | none => s
  | some (r, i, b) =>
    let key := r.key fn i
    if r.width = 4 then s.writeReg r fn i (v % 2 ^ 32)
    else if b = 0 then { s with stage := Tbl.put s.stage key (BitVec.ofNat 32 v) }
    else
      let low := match Tbl.find s.stage key with
        | some x => x.toNat
        | none => s.rd r fn i % 2 ^ 32
      { s with stage := Tbl.del s.stage key }.writeReg r fn i (v % 2 ^ 32 * 2 ^ 32 + low)

/-- A write of eight bytes: a 64-bit register at once, else its two words (R11, R313). -/
def State.writeWhole (s : State) (fn off v : Nat) : State :=
  match findReg fn off regMap with
  | some (r, i, 0) =>
    if r.width = 8 then { s with stage := Tbl.del s.stage (r.key fn i) }.writeReg r fn i v
    else (s.writeHalf fn off v).writeHalf fn (off + 4) (v / 2 ^ 32)
  | _ => (s.writeHalf fn off v).writeHalf fn (off + 4) (v / 2 ^ 32)

/-- A write of a doorbell page: 8 bytes at its start are the doorbell, the rest ignores writes (R313, R332). -/
def pageWrite (p off width v : Nat) (s : State) : State :=
  if alignedAccess off width ∧ off % 4096 = 0 ∧ off < 262144 then doorbell p (off / 4096) v width s else s

/-- What a write of configuration word `off` does beyond its bits: Bus Master Enable, a function-level reset, MSI-X vectors that it unmasks, the
size of BAR4, and the DOE mailbox (R312, R317 to R319, R321). -/
def configActs (fn off v : Nat) (s : State) : State :=
  if off = 0x04 then s.setMaster fn (bits v 2 2 == 1)
  else if off = 0x44 then s.setMaster fn (if fn = 0 then s.mgmt.busMaster else (s.pt (fn - 1)).busMaster)
  else if off = 0x50 then (List.range (lastVector fn + 1)).foldl (fun s i => s.sendPending fn i) s
  else if off = 0x78 ∧ bits v 15 15 = 1 then
    (if fn = 0 then flrPf0 s else flrPartitionFunction (fn - 1) s)
  else if fn ≠ 0 ∧ off = 0x168 then
    (if 10 ≤ bits v 13 8 ∧ bits v 13 8 ≤ 20 then s.upPt (fn - 1) fun q => { q with winBits := bits v 13 8 + 20 } else s)
  else if fn = 0 ∧ off = 0x2C8 then (if bits v 0 0 = 1 then s.doeAbort else if bits v 31 31 = 1 then s.doeGo else s)
  else if (ideReg fn off).isSome then s.ideWrite (ideReg fn off) v
  else if fn = 0 ∧ off = 0x2D0 then
    { s with sec := { s.sec with spdm := { s.sec.spdm with inbox := (s.sec.spdm.inbox ++ [BitVec.ofNat 32 v]).take 4097 } } }
  else s

/-- Does a write there move a locked or running TDI to ERROR: the function's BARs, Command register or MSI-X capability (R504)? -/
def tdiGuards (off : Nat) : Bool := off == 0x04 || (decide (0x10 ≤ off) && decide (off ≤ 0x24)) || (decide (0x50 ≤ off) && decide (off ≤ 0x58))

/-- A write of configuration space: one aligned word. A power state other than D0 and D3hot is not taken (R310). PRESUMED, log entry 141. -/
def configWrite (fn off width v : Nat) (s : State) : State :=
  if s.phaseOver 2 = false then s.retryStatus fn off
  else if width ≠ 4 ∨ off % 4 ≠ 0 ∨ 4096 ≤ off ∨ (off = 0x44 ∧ (bits v 1 0 = 1 ∨ bits v 1 0 = 2)) then s
  else
    let locked := fn ≠ 0 ∧ ((s.tdi fn).state = 1 ∨ (s.tdi fn).state = 2)
    let s := if locked ∧ tdiGuards off then s.setTdi fn 3 else s
    configActs fn off v (s.cfgStore fn off v)

/-- REGISTER_WRITE (R8, R11, R313). -/
def registerWrite (fn off width v : Nat) (s : State) : State :=
  if hasRegs fn = false then s
  else if 64 ≤ fn then configWrite (fn - 64) off width (v % 2 ^ 32) s
  else if 32 ≤ fn then pageWrite (fn - 33) off width v s
  else if alignedAccess off width = false ∨ (fn ≤ 4 ∧ s.hostShut fn) then s
  else if width = 8 then s.writeWhole fn off v
  else s.writeHalf fn off v

/-- R8. -/
def execRegisterWrite (fn off width : Nat) (v : W64) (s : State) : Res := s.live (registerWrite fn off width v.toNat)

end Sys2Proof.Machine
end

