-- ==== Sys2Proof/Machine/Boundary.lean ====
section
/-! DEFINITION. The beat boundary in its order (R39 to R54), with patrol scrub and row repair (R268, R269), memory upsets (R86, R267,
R281), and the epoch boundary (R41). -/

namespace Sys2Proof.Machine

/-- Do `f` for every partition of the shape, in ascending number. -/
def State.eachPtn (s : State) (f : State → Nat → State) : State := (List.range s.parts).foldl f s

/-! ### What strikes and is found in a beat (R86, R266 to R270, R281, R434, R439) -/

/-- The save copy in use reads uncorrectable: an undurable cut is abandoned; a SUSPENDED job keeps its last durable cut (R439). -/
def State.loseSaveCopy (s : State) (p : Nat) : State :=
  let q := s.pt p
  if q.pend.isSome then s.abandonCut p
  else if q.job = .suspended ∧ q.resumeRoll.isNone then s.upPt p fun q => { q with saved := q.durable, resumeRoll := some 0x0c }
  else s

/-- HBM_UNCORRECTABLE for a sector of the system area, whose place the spec leaves open: free values name it. DESIGN CHOICE, log entry 94. -/
def State.systemSector (s : State) (p : Nat) : State :=
  let a := s.freshW64
  let h := s.hstack p (a.1.toNat % (3 * s.k))
  let b := a.2.freshW64
  let s := b.2.raiseM 0x010 h (b.1.toNat % 2 ^ 30)
  (s.setFld rMemHbmH 0 h 39 32 (satAdd 255 (s.fld rMemHbmH 0 h 39 32) 1)).tally fun t => { t with ue := t.ue + 1 }

/-- The sector at `va` reads uncorrectable from now on. -/
def State.spoil (s : State) (p va bank row : Nat) : State :=
  let u := va / 64
  let s := s.upPage p (va / 262144) fun g => if g.bad.contains u then g else { g with bad := u :: g.bad }
  { s with hbm := { s.hbm with badBank := Tbl.put s.hbm.badBank (p * 2 ^ 48 + u) (bank % 64 * 16384 + row % 16384 + 1) } }

/-- Sector number of the byte at `va` in the stack that holds it, as the cache names it (R280). -/
def State.lineAt (s : State) (p va : Nat) : Nat := s.lineOf p (s.page p (va / 262144)) (va / 64)

/-- An upset of the beat that ends. An error that the sector's code corrects changes nothing; more symbols than it is sure to detect read as
uncorrectable or as other data, which is free (R265). DEDUCED, log entry 93. -/
def State.upset (s : State) : Upset → State
  | .coreWord p lc a =>
    if s.present p ∧ s.mapped p lc ∧ a < 524288 then
      s.upCore p lc fun c => if c.bad.contains (a / 8) then c else { c with bad := (a / 8) :: c.bad }
    else s
  | .sector p va bank row symbols wrongAddr =>
    if s.present p = false ∨ (s.page p (va / 262144)).framed = false ∨ (symbols ≤ 3 ∧ wrongAddr = false) then s
    else if symbols ≤ 5 ∨ wrongAddr then s.spoil p va bank row
    else
      let r := s.freshW64
      if r.1.toNat % 2 = 0 then r.2.spoil p va bank row
      else
        let t := (List.range 8).foldl (fun (t : State × Bytes) _ => let x := t.1.freshW64; (x.2, t.2 ++ leBytes 8 x.1.toNat)) (r.2, [])
        t.1.upJob p fun j => { j with dv := j.dv.wrN (va / 64 * 64) t.2 }
  | .cacheWord p va =>
    if s.present p = false ∨ (s.page p (va / 262144)).framed = false ∨ s.cached p (va / 64) = false then s
    else (s.dropLine (s.lineAt p va)).countCorrected (s.hstack p (s.page p (va / 262144)).stack)
  | .slmWord p o =>
    if s.present p ∧ o < s.scratchSize p then
      s.upJob p fun j => if j.slmBad.contains (o / 8) then j else { j with slmBad := (o / 8) :: j.slmBad }
    else s
  | .ticket p i =>
    if s.present p ∧ i < 8192 * s.k then s.upJob p fun j => if j.tktBad.contains i then j else { j with tktBad := i :: j.tktBad } else s
  | .dlm d =>
    let p := (s.dispPos d).1
    if 16 ≤ d ∨ s.present p = false ∨ (s.pt p).job = .noJob then s
    else (s.upDisp d fun x => { x with stopped := true }).wantRollback p 5
  | .codecStore p e off =>
    if s.present p ∧ e < 2 * s.k ∧ off < s.fld rMemSlmSplitPtn 0 p 11 8 * 33554432 then
      s.upEng p e fun g => if g.badStore.contains (off / 8 * 8) then g else { g with badStore := off / 8 * 8 :: g.badStore }
    else s
  | .saveCopy p =>
    if s.present p = false ∨ (s.pt p).job = .noJob then s else (s.systemSector p).loseSaveCopy p
  | .tierEntry p _ copies =>
    if s.present p = false ∨ (s.pt p).job = .noJob then s
    else if copies < 2 then s.systemSector p
    else ((s.systemSector p).systemSector p).wantRollback p 0x0a

/-- Key of a row: its bank's key, and the row. -/
def rowKey (c : Correction) : Nat := (c.stack * 4096 + c.pc % 64 * 64 + c.bank % 64) * 16384 + c.row % 16384

/-- A corrected sector is counted and noted; 16 added to its number marks a correction of more than one symbol; the code corrects no more than
three (R265, R266, R269). DESIGN CHOICE, log entry 96. -/
def State.corrected (s : State) (c : Correction) : State :=
  if 12 ≤ c.stack ∨ c.symbols = 0 ∨ 3 < c.symbols then s
  else
    let s := s.countCorrected c.stack
    let note := ((rowKey c), c.sector % 16, s.epoch) :: if 1 < c.symbols then [((rowKey c), 16 + c.sector % 16, s.epoch)] else []
    { s with hbm := { s.hbm with corrected := note ++ s.hbm.corrected.filter fun x => !(x.1 == (rowKey c) && x.2.1 == c.sector % 16) } }

/-- Does a sector of the row read uncorrectable (R269)? -/
def State.rowBad (s : State) (row : Nat) : Bool :=
  let h := row / 67108864
  (List.range s.parts).any fun p => (s.pt p).live.pages.any fun (e : Nat × Page) => e.2.framed && s.hstack p e.2.stack == h &&
    e.2.bad.any fun u => s.channelOf h u == row / 1048576 % 64 && Tbl.get 0 s.hbm.badBank (p * 2 ^ 48 + u) == row % 1048576 + 1

/-- A weak row is soft-repaired while its bank has a spare row left of its eight (R262, R269). DEDUCED, log entry 95. -/
def State.repairRow (s : State) (row : Nat) : State :=
  let bank := row / 16384
  let used := Tbl.get 0 s.hbm.spares bank
  if 8 ≤ used ∨ s.rowBad row then s
  else
    let h := bank / 4096
    let s := { s with hbm := { s.hbm with
      spares := Tbl.put s.hbm.spares bank (used + 1), corrected := s.hbm.corrected.filter fun x => x.1 != row,
      repaired := if s.hbm.repaired.contains row then s.hbm.repaired else row :: s.hbm.repaired } }
    (s.setFld rMemHbmH 0 h 31 24 (satAdd 255 (s.fld rMemHbmH 0 h 31 24) 1)).raiseM 0x012 h (row % (16384 * 4096))

/-- Is the row weak: two of its sectors corrected within 16 epochs, or one correction of more than one symbol (R269)? -/
def State.weakRow (s : State) (row : Nat) : Bool :=
  let mine := s.hbm.corrected.filter fun x => x.1 == row && decide (16 ≤ x.2.1 ∨ s.epoch < x.2.2 + 16)
  mine.any (fun x => decide (16 ≤ x.2.1)) || decide (2 ≤ mine.length)

/-- A weak row whose repair waits for an uncorrectable sector is noted as such, so that it is repaired once that sector has been written whole
(R269). -/
def State.holdRepair (s : State) (row : Nat) : State :=
  if s.rowBad row = false ∨ (s.hbm.corrected.any fun x => x.1 == row && decide (16 ≤ x.2.1)) then s
  else { s with hbm := { s.hbm with corrected := (row, 16, s.epoch) :: s.hbm.corrected } }

/-- Row repairs of the boundary: a correction counts for 16 epochs, and what makes a row weak by itself for ever (R269). -/
def State.repairRows (s : State) : State :=
  let s := { s with hbm := { s.hbm with corrected := s.hbm.corrected.filter fun x => decide (16 ≤ x.2.1 ∨ s.epoch < x.2.2 + 16) } }
  (s.hbm.corrected.foldl (fun (t : Tbl Unit) x => Tbl.put t x.1 ()) []).foldl (fun s e => if s.weakRow e.1 then (s.holdRepair e.1).repairRow e.1 else s) s

/-! ### Patrol scrub (R53, R268, R532) -/

/-- Slice `b` of HBM patrol scrub: 4 KiB of each stack in ascending order, a full pass in as many beats as the stack has slices. An
uncorrectable sector found there is reported and left as it is (R267, R268). -/
def State.scrubHbm (s : State) (p b : Nat) : State :=
  (s.pt p).live.pages.foldl (fun s (e : Nat × Page) =>
    let total := s.stackFrames p e.2.stack * 64
    if e.2.framed ∧ 0 < total then
      e.2.bad.foldl (fun s u => if (e.2.frame * 64 + u % 4096 / 64) % total = b % total then s.meetBad p u else s) s
    else s) s

/-- Slice `b` of core-memory patrol scrub: 256 bytes of each core (R86, R437). -/
def State.scrubCores (s : State) (p b : Nat) : State :=
  (s.pt p).live.cores.foldl (fun s (e : Nat × Core) => if e.2.bad.any fun u => u / 32 == b % 2048 then s.failCore p e.1 3 else s) s

/-- Slice `b` of SLM patrol scrub: 32 KiB of each base die, the scratchpad first, then the codec reference store and the cache, and a word
of the ticket region with every third slice, in a pass of 12,288 beats (R53, R281). DEDUCED, log entry 92. -/
def State.scrubSlm (s : State) (p b : Nat) : State :=
  let u := s.slmUnit p
  let here := fun o => o / 32768 == b % 12288
  let s := (s.pt p).live.slmBad.foldl (fun s w => if 0 < u ∧ here (w * 8 % u) then s.meetSlmBad p w else s) s
  let s := (s.pt p).live.tktBad.foldl (fun s i => if i / 2 % 4096 * 3 = b % 12288 then s.meetTktBad p (i / 2) else s) s
  (List.range (2 * s.k)).foldl (fun s e =>
    (s.eng p e).badStore.foldl (fun s o => if here (u + o) then s.raiseM 0x013 (p * s.k + e / 2) (u + o) else s) s) s

/-- Patrol scrub in the slices of beat `b`: HBM and cores in L0 and L1, SLM down to L2 (R532). DESIGN CHOICE, log entry 91. -/
def State.scrub (s : State) (p b : Nat) : State :=
  let l := s.lstate p
  let s := if l ≤ 1 then (s.scrubHbm p b).scrubCores p b else s
  if l ≤ 2 then s.scrubSlm p b else s

/-! ### The boundary (R43) -/

/-- Offsets beyond ±8 ns in a row (R59). -/
def State.countDrift (s : State) : State :=
  { s with mgmt := { s.mgmt with drift := if s.offBeyond then Nat.min 16 (s.mgmt.drift + 1) else 0 } }

/-- A rollback that this boundary's own work calls for takes effect at this boundary (R444). DEDUCED, log entry 101. -/
def State.rollNowDue (s : State) (p b : Nat) : State :=
  s.upPt p fun q => { q with rollReq := q.rollReq.map fun r => (r.1, Nat.min r.2 b) }

/-- What a stack that has failed held of the save copy and of the undurable cut's snapshots is lost (R270, R439), DESIGN CHOICE, log entry
161; where the stacks that are left no longer hold the save area, the job ends (R441). -/
def State.checkArea (s : State) (p : Nat) : State :=
  let s := if (s.pt p).areaLost then (s.loseSaveCopy p).upPt p fun q => { q with areaLost := false } else s
  if (s.pt p).job ≠ .noJob ∧ s.allFrames p < (s.pt p).info.sysFrames then s.wantEnd p 6 else s

/-- A job that a fault ends, ends (R429). -/
def State.endBoundary (s : State) (p : Nat) : State :=
  match (s.pt p).endCause with
  | some c => s.endJob p c
  | none => s

/-- A cut at the boundary, with its buddy back in the mirror if it can be (R251, R453). -/
def State.cutStep (s : State) (p b : Nat) : State :=
  let s' := s.cutBoundary p b
  if (s.pt p).cutPhase = .idle ∧ (s'.pt p).cutPhase = .saving then s'.buddyBack p else s'

/-- The frames of partition `p` that have called for a drop before this boundary are acted on, and those that no unit holds pinned are dropped
(R439). -/
def State.restoreBoundary (s : State) (p : Nat) : State :=
  (s.pt p).live.pages.foldl (fun s (e : Nat × Page) => if e.2.drop then frameDrop p e.1 (pageRestore p e.1 s) else s) s

/-- A suspension or a resumption that cannot act at this boundary is considered again at the next (R45, R352, R354). -/
def State.holdControl (s : State) (p : Nat) : State :=
  s.upPt p fun q => { q with descs := q.descs.map fun d =>
    if (d.opcode = 5 ∨ d.opcode = 6) ∧ d.start.isSome ∧ d.done = false then { d with beat := s.mgmt.beat } else d }

/-- Pre-emptions of partition `p` other than suspensions: an abort and a function-level reset (R322, R357). -/
def State.preemptBoundary (s : State) (p : Nat) : State := functionDiscard p (abortEffect p s)

/-- Faults of partition `p`: what a boundary restores, remaps, ends and rolls back, for beat `b` that ends (R115, R429, R439, R444). -/
def State.faultBoundary (s : State) (p b : Nat) : State :=
  rollback p (((((s.checkArea p).restoreBoundary p).remapBoundary p).rollNowDue p b).endBoundary p)

/-- Cuts of partition `p`, and the group's (R251, R448). A group cut is considered once in a beat (R45). -/
def State.cutsBoundary (s : State) (p b : Nat) : State :=
  (groupCut p (s.cutStep p b)).upCol p fun c => { c with judged := s.mgmt.beat }

/-- Step 5 after the boundary that ends beat `b`: suspensions, pre-emptions, remaps and recovery, cuts and resumptions, shape requests, each
over every partition (R43). Resumptions have no place in R43's list; DESIGN CHOICE, log entry 4. -/
def State.preemptStep (s : State) (b : Nat) : State :=
  let s := s.eachPtn fun s p => suspensionEffect p s
  let s := s.eachPtn fun s p => s.preemptBoundary p
  let s := s.eachPtn fun s p => s.faultBoundary p b
  let s := s.eachPtn fun s p => s.cutsBoundary p b
  let s := s.eachPtn fun s p => (resumptionEffect p s).holdControl p
  shapeChange s

/-- Entries of the tier request queue that are refused whole, up to 64 in a beat (R235). -/
def State.trqRefuseAll (s : State) (p : Nat) : Nat → State
  | 0 => s
  | fuel + 1 =>
    let q := s.pt p
    if q.trqReady = true ∧ q.entryBad q.trqEntry = true then (s.trqRefuse p).trqRefuseAll p fuel else s

/-- Waits for frames that pages no longer call for end, and the beat's counts of the slices begin anew (R238, R243); a page that a forager
has moved in part when the partition is pre-empted is abandoned (R54). -/
def State.settleTier (s : State) (p : Nat) : State :=
  let s := if (s.pt p).dispatches then s else s.upJob p fun j => { j with pages := j.pages.map fun e => (e.1, { e.2 with bursts := 0, got := 0 }) }
  s.upPt p fun q => { q with trqTaken := 0, moved := [], wants := q.wants.filter fun w =>
    let g := q.live.page w.2
    g.state == 2 || g.state == 6 || g.cow }

/-- Step 6 for partition `p`: the background grants of beat `b` (R52, R53, R235, R238, R243). -/
def State.grantStep (s : State) (p b : Nat) : State :=
  let s := s.settleTier p
  let s := if s.awake p then (s.trqRefuseAll p 64).trqMeet p else s
  let s := (((s.scanPages p).evict p (s.pt p).live.pages.length).hastenDemotions p).promote p
  (((((s.scrub p b).stopEngines p b).agePages p).settleSave p).sendCut p).colBoundary p

/-- Step 6 for the store: relocations and rebuilt units whose copies are acknowledged are switched to, the tier's writes, the rebuild, wear
levelling and the patrol are served, and what nothing holds any more is freed (R52, R53, R259, R293, R295, R297). -/
def State.grantStore (s : State) (patrol : Option LadderIn) : State :=
  if s.store.mounted = false then s
  else
    let s := ((((s.settleReloc).settleGuests).serveReads).serveStore).rebuildStep
    (((s.relocate).patrolStore patrol).collect).noteWear.checkReadOnly

/-- The classes that no partition owns: every port that is up and not in low-power idle adapts its lanes by one step, the base-die
regulators calibrate their next phase, and the store's window of 256 beats begins anew (R53, R456, R532). -/
def State.grantModule (s : State) : State :=
  let up := (List.range 25).filter fun n => s.pup n && !s.portRests n
  let window := s.mgmt.beat % 256 == 0
  let ports := s.links.ports.map fun e => (e.1, { e.2 with still := Nat.min 17 (e.2.still + 1) })
  { s with links := { s.links with ports := ports }, slices := {
      adapt := up.foldl (fun t n => Tbl.set 0 t n (Tbl.get 0 t n + 1)) s.slices.adapt
      phase := (s.slices.phase + 1) % 64
      stoRd := if window then 0 else s.slices.stoRd
      stoWr := if window then 0 else s.slices.stoWr } }

/-- What registers report as at the most recent boundary (R227, R241, R261). DESIGN CHOICE, log entry 103. -/
def State.noteSeen (s : State) (p : Nat) : State :=
  s.upPt p fun q => { q with usedSeen := s.usedOf p, freeSeen := s.freeFrames p, seen := q.live.pages, idleSeen := q.live.idle }

/-- The journal buffer drains into the store while the store can be written (R302, R303). DESIGN CHOICE, log entry 24. -/
def State.drainJournal (s : State) : State :=
  if s.storeWritable then s.drainRecords else s

/-- The count passes to the next beat (R39, R40); 1,024 stands in the reference cycle while the boundary's work is done. -/
def State.countBeat (s : State) : State :=
  { s with mgmt := { s.mgmt with beat := (s.mgmt.beat + 1) % 2 ^ 64, sincePg := s.mgmt.sincePg + 1, refCycle := 1024 } }

/-- A forager reports how many of a page's 64 bursts it has moved (R54). -/
def State.foragerReport (s : State) (r : Nat × Nat × Nat) : State :=
  let g := s.page r.1 r.2.1
  if s.present r.1 ∧ (s.pt r.1).dispatches ∧ (g.state = 4 ∨ (g.move ∧ g.framed)) then
    s.upPage r.1 r.2.1 fun g => { g with bursts := Nat.max g.bursts (Nat.min (if g.state = 4 then Nat.min 63 (g.got / 4096) else 63) r.2.2) }
  else s

/-- The store controller reports the commands completed in the beat, by partition (R43, R54). -/
def State.storeReport (s : State) : State :=
  { s with store := { s.store with ended := [], done := s.store.ended.foldl (fun t e => Tbl.upd 0 t e.1 (· + e.2)) s.store.done } }

/-- Step 1: what struck, was corrected, failed and came in the beat that ends, and how far long engines are (R43, R54, R86, R266, R292, R293,
R452). -/
def State.arriveStep (s : State) (i : BeatIn) : State :=
  let s := i.corrections.foldl State.corrected (i.upsets.foldl State.upset s.retryPackets)
  let s := i.codec.foldl State.codecReport (i.buddy.foldl State.buddyIn (i.nand.foldl State.nandEvent s))
  ((i.foragers.foldl State.foragerReport s).storeReport).countDrift

/-- Step 2 for partition `p`: its operations, groups, watchdogs, checks and lost buddy that fall due at the end of beat `b` (R43, R50,
R453). -/
def State.timeoutPtn (s : State) (p b : Nat) : State :=
  ((((s.opTimeouts p).groupTimeouts p).watchdogBoundary p b).stallBoundary p).buddyBoundary p

/-- Step 2: every timeout that falls due at the end of beat `b0` fires, and coalescing timers advance (R43, R45, R50). -/
def State.timeoutStep (s : State) (b0 : Nat) : State :=
  let s := { s with timers := markDue b0 s.timers }
  let s := (s.fireTimers s.timers.length).eachPtn fun s p => s.timeoutPtn p b0
  stripeClose (ppsMissed s.coalesce.evBoundary)

/-! ### The epoch boundary (R41) -/

/-- Each die's used count goes to boot flash (R548). -/
def State.saveAge (s : State) : State :=
  s.upPower fun w => { w with flash := (List.range 4).foldl (fun t d => Tbl.set 0 t d (s.fld rPwrAgeCd 0 d 42 0)) w.flash }

/-- Is the boundary's epoch work still to be done: BEAT[19:0] became 0 at it (R41)? -/
def State.epochDue (s : State) : Bool := s.mgmt.beat % 2 ^ 20 == 0 && s.mgmt.epochSeen != s.epoch && s.mgmt.beat != 0

/-- The epoch's work of step 4: telemetry, the used counts and the wear governor (R41, R299, R300, R548, R567). -/
def State.epochGovern (s : State) : State := ((s.telEpoch (s.epoch - 1)).saveAge).wearGovernor

/-- The epoch's work of step 6, after which it is done: the migration policy and the group's waggles (R41, R237, R448). -/
def State.epochGrant (s : State) : State :=
  let s := { s with mgmt := { s.mgmt with epochSeen := s.epoch } }
  s.eachPtn fun s p => (s.migrate p).ownWaggles p

/-- EPOCH_BOUNDARY: the work of the boundary at which BEAT[19:0] became 0, once (R41). BEAT_BOUNDARY does it in its place among the steps of
R43, so that the row finds none left. DESIGN CHOICE, log entry 133. -/
def epochBoundary (s : State) : State := if s.epochDue then s.epochGovern.epochGrant else s

/-- R41. -/
def execEpochBoundary (s : State) : Res := s.live epochBoundary

/-! ### The steps in order (R43) -/

/-- Step 4: temperature, the beat's draw and ageing, the governor's decisions, and the epoch's work among them (R41, R536, R543, R548). -/
def State.governorStep (s : State) (i : BeatIn) : State :=
  let s := (((s.thermalBoundary i.temps).telBeat i.watts).ageBoundary).governor i.watts i.vin (decide (s.mgmt.beat % 2 ^ 20 = 0))
  let s := s.eachPtn fun s p => s.ladderBoundary p
  if s.epochDue then s.epochGovern else s

/-- Step 6 of beat `b`, and what else a boundary brings: the grants, the start of opened steps, registers and links (R43, R52, R247). -/
def State.grantsStep (s : State) (b : Nat) (patrol : Option LadderIn) : State :=
  let s := { s with store := { s.store with read := [] } }
  -- a STEP that waited for a pre-emption to end, or for Bus Master Enable, completes (R49, R321)
  let s := s.eachPtn fun s p => s.checkStep p
  let s := (s.repairRows.eachPtn fun s p => (s.grantStep p b).shadowBoundary p).grantModule
  let s := (s.grantStore patrol).eachPtn fun s p => (s.noteFrames p).enterDue p
  let s := if s.epochDue then s.epochGrant else s
  let s := ((((s.sb3Boundary).linksBoundary).refBoundary).timeReqBoundary).drainJournal
  s.eachPtn fun s p => s.noteSeen p

/-- BEAT_BOUNDARY: the steps of R43 in their order. DESIGN CHOICE, log entry 4. -/
def beatBoundary (i : BeatIn) (s : State) : State :=
  let b0 := s.mgmt.beat
  let s := (s.countBeat.arriveStep i).timeoutStep b0
  let s := (s.eachPtn fun s p => s.versionsBoundary p).governorStep i
  let s := (s.preemptStep b0).grantsStep s.mgmt.beat i.patrol
  { s with mgmt := { s.mgmt with refCycle := 0 } }

/-- R43. -/
def execBeatBoundary (i : BeatIn) (s : State) : Res := s.live (beatBoundary i)

end Sys2Proof.Machine
end

