-- ==== Sys2Proof/Machine/Conv.lean ====
section
/-! DEFINITION. Convolution: the window parameter block, the gathered operand, dense and depthwise CONV (R195 to
R205). The line buffers and the window register hold what this gathering reads and are not visible (R205). -/

namespace Sys2Proof.Machine

/-- A dimension of the window (R195): output extent, valid extent, kernel, stride, dilation, pads and input extent. -/
structure WinDim where
  out : Nat
  val : Nat
  k : Nat
  s : Nat
  d : Nat
  lo : Nat
  hi : Nat
  inp : Nat
deriving DecidableEq, Repr

/-- A window parameter block (R195). -/
structure WinBlock where
  dims : List WinDim
  mode : Nat
  pad : Nat
  cin : Nat
  cout : Nat
  vcin : Nat
  vcout : Nat
  /-- Some reserved byte or PAD_MODE bit is set. -/
  reserved : Bool
deriving DecidableEq, Repr

/-- The block at byte `a` of a core's memory (R195). -/
def readWinBlock (m : Memory) (a : Nat) : WinBlock :=
  let b := fun (o n : Nat) => m.rdLe (a + o) n
  { dims := (List.range 3).map fun i =>
      { out := b (2 * i) 2, val := b (6 + 2 * i) 2, k := b (0x0C + i) 1, s := b (0x10 + i) 1, d := b (0x14 + i) 1,
        lo := b (0x18 + 2 * i) 1, hi := b (0x19 + 2 * i) 1, inp := b (0x24 + 2 * i) 2 }
    mode := b 0x1E 1 % 2
    pad := b 0x20 4
    cin := b 0x2C 2
    cout := b 0x2E 2
    vcin := b 0x30 2
    vcout := b 0x32 2
    reserved := b 0x0F 1 != 0 || b 0x13 1 != 0 || b 0x17 1 != 0 || b 0x1F 1 != 0 || b 0x2A 2 != 0 ||
      b 0x34 4 != 0 || b 0x38 8 != 0 || decide (2 ≤ b 0x1E 1) }

namespace WinBlock

/-- Dimension `i`. -/
def dim (b : WinBlock) (i : Nat) : WinDim := b.dims.getD i ⟨1, 0, 1, 1, 1, 0, 0, 1⟩

/-- M, the output positions (R196). -/
def m (b : WinBlock) : Nat := (b.dim 0).out * (b.dim 1).out * (b.dim 2).out

/-- KT, the taps (R196). -/
def kt (b : WinBlock) : Nat := (b.dim 0).k * (b.dim 1).k * (b.dim 2).k

/-- C_IN rounded up to a multiple of 32 (R199). -/
def c32 (b : WinBlock) : Nat := ceilDiv b.cin 32 * 32

/-- Coordinates of output row `r` (R196). -/
def outAt (b : WinBlock) (r : Nat) : List Nat :=
  [r / (b.dim 2).out / (b.dim 1).out, r / (b.dim 2).out % (b.dim 1).out, r % (b.dim 2).out]

/-- Is output row `r` valid (R196)? -/
def rowValid (b : WinBlock) (r : Nat) : Bool :=
  ((b.outAt r).zip b.dims).all fun x => decide (x.1 < x.2.val)

/-- Coordinates of tap `t` (R196). -/
def tapAt (b : WinBlock) (t : Nat) : List Nat :=
  [t / (b.dim 2).k / (b.dim 1).k, t / (b.dim 2).k % (b.dim 1).k, t % (b.dim 2).k]

/-- One coordinate of what a tap reads, when it lies in the input region (R196). -/
def coord (x : WinDim) (o t : Nat) : Option Nat :=
  let c := o * x.s + t * x.d
  if x.lo ≤ c ∧ c - x.lo < x.inp then some (c - x.lo) else none

/-- Input position that tap `t` of output row `r` reads, or none for a padding element (R196). -/
def pos (b : WinBlock) (r t : Nat) : Option Nat :=
  let o := b.outAt r
  let k := b.tapAt t
  match coord (b.dim 0) (o.getD 0 0) (k.getD 0 0), coord (b.dim 1) (o.getD 1 0) (k.getD 1 0),
        coord (b.dim 2) (o.getD 2 0) (k.getD 2 0) with
  | some d, some h, some w => some ((d * (b.dim 1).inp + h) * (b.dim 2).inp + w)
  | _, _, _ => none

/-- The reach rule of R197 in one dimension. -/
def reachOk (x : WinDim) : Bool :=
  x.val == 0 || decide ((x.val - 1) * x.s + (x.k - 1) * x.d ≤ x.inp - 1 + x.hi + x.lo)

/-- Every field in its range, and no valid extent above its shape (R195). -/
def fieldsOk (b : WinBlock) : Bool :=
  (b.dims.all fun x => decide (1 ≤ x.out) && decide (x.out ≤ 128) && decide (x.val ≤ x.out) && decide (1 ≤ x.k) &&
    decide (x.k ≤ 7) && decide (1 ≤ x.s) && decide (x.s ≤ 4) && decide (1 ≤ x.d) && decide (x.d ≤ 4) &&
    decide (x.lo ≤ 7) && decide (x.hi ≤ 7) && decide (1 ≤ x.inp)) &&
  decide (1 ≤ b.cin) && decide (b.cin ≤ 256) && decide (1 ≤ b.cout) && decide (b.cout ≤ 128) &&
  decide (b.vcin ≤ b.cin) && decide (b.vcout ≤ b.cout)

/-- Valid output coordinates of a dimension. -/
def live (x : WinDim) : Nat := Nat.min x.val x.out

/-- The greatest input coordinate that a tap of a valid output reaches. -/
def far (x : WinDim) : Option Nat :=
  ((List.range (live x)).flatMap fun o => (List.range x.k).filterMap fun t => coord x o t).max?

/-- The greatest input position that a tap of a valid output reaches: each coordinate is at its greatest (R196). -/
def farPos (b : WinBlock) : Option Nat :=
  match far (b.dim 0), far (b.dim 1), far (b.dim 2) with
  | some d, some h, some w => some ((d * (b.dim 1).inp + h) * (b.dim 2).inp + w)
  | _, _, _ => none

/-- The greatest valid output row, when there is one. -/
def lastRow (b : WinBlock) : Option Nat :=
  let n := b.dims.map live
  if n.any (· == 0) then none
  else some (((n.getD 0 1 - 1) * (b.dim 1).out + n.getD 1 1 - 1) * (b.dim 2).out + n.getD 2 1 - 1)

/-- The least distance between two valid output rows, when there are two. -/
def rowGap (b : WinBlock) : Option Nat :=
  if b.lastRow.isNone then none
  else if 2 ≤ live (b.dim 2) then some 1
  else if 2 ≤ live (b.dim 1) then some (b.dim 2).out
  else if 2 ≤ live (b.dim 0) then some ((b.dim 1).out * (b.dim 2).out)
  else none

/-- Valid output rows, ascending. -/
def rows (b : WinBlock) : List Nat := (List.range b.m).filter b.rowValid

/-- Input positions that taps of valid rows reach, each once (R202). -/
def positions (b : WinBlock) : List Nat :=
  (b.rows.foldl (fun acc r => (List.range b.kt).foldl (fun (acc : Tbl Unit) t => match b.pos r t with
    | some x => Tbl.put acc x ()
    | none => acc) acc) ([] : Tbl Unit)).map (·.1)

end WinBlock

/-- Byte ranges of elements `c` to `c + n − 1` of row `r` of an operand, with their scale bytes (R138). -/
def Opnd.elemRanges (o : Opnd) (r c n : Nat) : List (Nat × Nat) :=
  if n = 0 then []
  else
    let b0 := c * o.fmt.bits / 8
    let b1 := ((c + n) * o.fmt.bits + 7) / 8
    (o.addr + r * o.stride + b0, b1 - b0) ::
      (if o.fmt.isMx then [(o.scaleAddr + r * o.scaleStride + c / 32, (c + n - 1) / 32 + 1 - c / 32)] else [])

/-- Ranges of X, W and Y that a CONV touches (R202): read, and written. DEDUCED, log entry 64. -/
def convRanges (b : WinBlock) (dense acc : Bool) (x wt y : Opnd) : List (Nat × Nat) × List (Nat × Nat) :=
  let xs := b.positions.flatMap fun r => x.elemRanges r 0 b.vcin
  let ws := if dense then
      (List.range b.vcout).flatMap fun n => (List.range b.kt).flatMap fun t => wt.elemRanges n (t * b.cin) b.vcin
    else (List.range b.vcin).flatMap fun c => wt.elemRanges c 0 b.kt
  let ys := b.rows.flatMap fun r => y.elemRanges r 0 (if dense then b.vcout else b.vcin)
  (xs ++ ws ++ (if acc then ys else []), ys)

/-- Do two valid rows of Y share a byte (R126)? -/
def convYClash (b : WinBlock) (n : Nat) (y : Opnd) : Bool :=
  match b.rowGap with
  | some g => decide (g * y.stride < 4 * n)
  | none => false

/-- The last bytes of X, W and Y that a CONV touches (R202). The footprint lies in core memory when these do (R203). -/
def convEnds (b : WinBlock) (dense : Bool) (x wt y : Opnd) : List (Nat × Nat) :=
  let n := if dense then b.vcout else b.vcin
  (match b.farPos with
    | some r => x.elemRanges r 0 b.vcin
    | none => []) ++
  (if n = 0 ∨ b.kt = 0 ∨ b.vcin = 0 then []
    else if dense then wt.elemRanges (n - 1) ((b.kt - 1) * b.cin) b.vcin else wt.elemRanges (n - 1) 0 b.kt) ++
  (match b.lastRow with
    | some r => y.elemRanges r 0 n
    | none => [])

/-- Operand X's element for a tap and channel: masked and padded channels, padding elements and input elements without
their block scale (R196, R200, R201). -/
def convX (j : JobData) (b : WinBlock) (x : Opnd) (pad : Fv) (ps : Option Nat) (c : Nat) : Fv :=
  if b.vcin ≤ c then .zero
  else match ps with
    | some r => x.bare j r c
    | none => if b.mode = 1 then pad else .zero

/-- The gathered row of output row `r` (R200). -/
def convRowX (j : JobData) (b : WinBlock) (x : Opnd) (pad : Fv) (r : Nat) : GRow :=
  (List.range b.kt).flatMap fun t =>
    let ps := b.pos r t
    (List.range (b.c32 / 32)).map fun g =>
      ((List.range 32).map fun i => convX j b x pad ps (32 * g + i),
       match ps with
       | some q => if 32 * g < b.vcin then x.scaleExp j q (32 * g) else some 0
       | none => some 0)

/-- Row `n` of W as the gathered product reads it (R198, R200). -/
def convRowW (j : JobData) (b : WinBlock) (wt : Opnd) (n : Nat) : GRow :=
  (List.range b.kt).flatMap fun t => (List.range (b.c32 / 32)).map fun g =>
    ((List.range 32).map fun i => if 32 * g + i < b.vcin then wt.bare j n (t * b.cin + 32 * g + i) else .zero,
     if 32 * g < b.vcin then wt.scaleExp j n (t * b.cin + 32 * g) else some 0)

/-- Write rows of FP32 values at the given rows of Y (R202). -/
def State.writeY (s : State) (p lc : Nat) (w : TDesc) (y : Opnd) (rows : List (Nat × List Fv)) : State × Nat :=
  rows.foldl (fun a r =>
    let x := a.1.writeAcc p lc w { y with addr := y.addr + r.1 * y.stride } [r.2]
    (x.1, if a.2 = Code.done then x.2 else a.2)) (s, Code.done)

/-- Y as it is read: zero without ACC. -/
def convY (j : JobData) (acc : Bool) (y : Opnd) (r n : Nat) : List Fv :=
  if acc then y.row j r n else List.replicate n Fv.zero

/-- Dense CONV's effect (R200, R204). -/
def convDenseRun (p lc : Nat) (w : TDesc) (b : WinBlock) (s : State) : State × Nat :=
  let j := (s.pt p).live
  onOpnd (w.opnd lc 0) s fun x => onOpnd (w.opnd lc 1) s fun wt => onOpnd (w.opnd lc 2) s fun y =>
    let pad := x.fmt.decode (x.fmt.encode1 true .even (ofW32 b.pad)) 127
    let ar := b.rows.map fun r => convRowX j b x pad r
    let br := (List.range b.vcout).map fun n => convRowW j b wt n
    let cin := b.rows.map fun r => convY j w.acc y r b.vcout
    let cout := (ar.zip cin).map fun q => (br.zip q.2).map fun z => growDot q.1 z.1 z.2
    if w.ck ∧ ckPass ar br cin cout w.tol = false then (s, Code.checksumMismatch)
    else s.writeY p lc w y (b.rows.zip cout)

/-- Depthwise CONV's effect (R201). -/
def convDepthRun (p lc : Nat) (w : TDesc) (b : WinBlock) (s : State) : State × Nat :=
  let j := (s.pt p).live
  onOpnd (w.opnd lc 0) s fun x => onOpnd (w.opnd lc 1) s fun wt => onOpnd (w.opnd lc 2) s fun y =>
    s.writeY p lc w y (b.rows.map fun r => (r, ((convY j w.acc y r b.vcin).zip (List.range b.vcin)).map fun z =>
      (List.range b.kt).foldl (fun a t =>
        let v := match b.pos r t with
          | some q => let e := x.elem j q z.2; if x.fmt.code = 0x0D then e.r32 else e
          | none => if b.mode = 1 then ofW32 b.pad else Fv.zero
        ffma (wt.elem j z.2 t) v a) z.1))

/-- Limits of R199. -/
def convLimits (b : WinBlock) (dense : Bool) (cl : Nat) (mx : Bool) : Bool :=
  decide (b.m ≤ 128) &&
  if dense then
    decide (b.cin * cl ≤ 1024) && (!mx || b.cin % 32 == 0) && decide (b.m * b.cout * b.c32 * b.kt * cl ≤ 2 ^ 24)
  else decide (b.cin ≤ 128) && b.cout == b.cin && decide (b.cin * ceilDiv b.m 64 * b.kt ≤ 8192)

/-- The window parameter block that slot 3 names in the core's own memory; one of zeros where slot 3 names another place, which step 2 of
R136 refuses, or a word of the block reads uncorrectable, by which nothing is judged (R86). -/
def State.winBlock (s : State) (p lc : Nat) (w : TDesc) : WinBlock :=
  match w.block lc with
  | some a => if s.blockBad p lc w 64 then readWinBlock [] 0 else readWinBlock (s.core p lc).mem a
  | none => readWinBlock [] 0

/-- A CONV (R195 to R204). -/
def convSpec (dense : Bool) (p lc : Nat) (s : State) (w : TDesc) : TileSpec :=
  let b := s.winBlock p lc w
  let inF := if dense then fmtMatrix else fmtVector
  let wF := if dense then fmtMatrix else [0x01, 0x02]
  let f0 := fmtOf (w.fmt 0)
  let f1 := fmtOf (w.fmt 1)
  let isMx := fun (f : Option Fmt) => (f.map Fmt.isMx).getD false
  let bad := s.blockBad p lc w 64
  let lim := b.fieldsOk && convLimits b dense (classBits f0 f1) (isMx f0 || isMx f1)
  let rw := match w.opnd lc 0, w.opnd lc 1, w.opnd lc 2 with
    | some x, some wt, some y => if lim && !bad then convRanges b dense w.acc x wt y else ([], [])
    | _, _, _ => ([], [])
  let ends := match w.opnd lc 0, w.opnd lc 1, w.opnd lc 2 with
    | some x, some wt, some y => convEnds b dense x wt y
    | _, _, _ => []
  let yn := if dense then b.vcout else b.vcin
  { uses := [{ slot := 0, fmts := inF, rows := 1, cols := b.cin, vr := 0, vc := 0 },
             { slot := 1, fmts := wF, rows := 1, cols := if dense then b.kt * b.cin else b.kt, vr := 0, vc := 0 },
             { slot := 2, fmts := fmtF32, rd := w.acc, wr := true, rows := b.m, cols := b.cout, vr := 0, vc := 0 },
             { slot := 3, fmts := fmtBytes, rows := 1, cols := 64, vr := 1, vc := 64 }]
    zeroDims := [0, 1, 2]
    header := bad || !b.reserved
    operands :=
      (match w.opnd lc 3 with
        | some o => o.stride == 0
        | none => true) &&
      (bad ||
        ((match w.opnd lc 0 with
          | some x => decide (x.fmt.rowBytes b.cin ≤ x.stride) && !(b.mode == 1 && x.fmt.isMx)
          | none => true) &&
        (match w.opnd lc 2 with
          | some y => !convYClash b yn y
          | none => true) &&
        (b.mode == 0 || (ofW32 b.pad).finite) && s.inSpace p 1 ends))
    limits := bad || (lim && (b.dims.all WinBlock.reachOk))
    reads := rw.1
    writes := rw.2
    run := fun _ _ _ s => plain (if dense then convDenseRun p lc w b s else convDepthRun p lc w b s) }

/-- CONV, dense (R198). -/
def execConvDense (p lc ck : Nat) (s : State) : Res := s.live fun s => s.tileRow p lc .convDense ck (convSpec true p lc)

/-- CONV, depthwise (R198). -/
def execConvDepthwise (p lc : Nat) (s : State) : Res :=
  s.live fun s => s.tileRow p lc .convDepthwise 0 (convSpec false p lc)

end Sys2Proof.Machine
end

