-- ==== Sys2Proof/Machine/Move.lean ====
section
/-! DEFINITION. The move-class rows: MOVE, COMMIT, TKT_FAA, BARRIER and KV_PRUNE (R129, R132 to R135, R194). -/

namespace Sys2Proof.Machine

/-- Spaces of an operand that may lie anywhere (R125). -/
def anySpace : List Nat := [1, 2, 3]

/-! ### MOVE (R132) -/

/-- MOVE copies the valid bytes of slot 0 to slot 1; what it reads of the device virtual range allocates cache lines (R132, R280). -/
def moveRun (p lc : Nat) (w : TDesc) (s : State) : State × Nat :=
  let j := (s.pt p).live
  onOpnd (w.opnd lc 0) s fun a => onOpnd (w.opnd lc 1) s fun d =>
    (if a.space = 3 then s.allocate p (a.ranges (w.val 0) (w.val 1)) else s).writeCodes p d ((List.range (w.val 0)).map fun r => (List.range (w.val 1)).map fun c => a.codeAt j r c)

/-- MOVE (R129, R132). -/
def moveSpec (p lc : Nat) (_s : State) (w : TDesc) : TileSpec :=
  let a : Use := { slot := 0, fmts := fmtBytes, spaces := anySpace, rows := w.dim 0, cols := w.dim 1, vr := w.val 0,
                   vc := w.val 1, remote := true, align := 0 }
  let dv := w.space 0 == 3 || w.space 1 == 3
  { uses := [a, { a with slot := 1, rd := false, wr := true }]
    zeroDims := [2]
    limits := decide (1 ≤ w.dim 1) && decide (w.dim 1 ≤ 32768) && decide (w.dim 0 * w.dim 1 ≤ if dv then 32768 else 65536)
    run := fun _ _ _ s => plain (moveRun p lc w s) }

/-- MOVE (R132). -/
def execMove (p lc : Nat) (s : State) : Res := s.live fun s => s.tileRow p lc .move 0 (moveSpec p lc)

/-! ### COMMIT (R133) -/

/-- Bytes of the elements and scales of a shape in a format. -/
def Fmt.shapeBytes (f : Fmt) (rows cols : Nat) : Nat := rows * (f.rowBytes cols + if f.isMx then ceilDiv cols 32 else 0)

/-- One element add at the SLM bank: FP32 with one rounding, INT32 wrapping (R285). -/
def bankAdd (f : Fmt) (old new : Nat) : Nat :=
  if f.code = 0x0D then (old + new) % 2 ^ 32 else (fadd (ofW32 old) (ofW32 new)).toW32

/-- COMMIT's effect: its source is converted, and written or added (R133). INT32 is converted exactly. DEDUCED, log entry 60. -/
def commitRun (add : Bool) (p lc : Nat) (w : TDesc) (s : State) : State × Nat :=
  let j := (s.pt p).live
  onOpnd (w.opnd lc 0) s fun a => onOpnd (w.opnd lc 1) s fun d =>
    let rows := (List.range (w.val 0)).map fun r => (List.range (w.val 1)).map fun c => a.elem j r c
    if add then
      let cv := convRows d.fmt w.sat w.rndMode rows { state := (j.core lc).rng }
      let s := if w.rndMode = .stochastic then s.upCore p lc fun c => { c with rng := cv.2.state } else s
      s.writeCodes p d ((cv.1.zip (List.range (w.val 0))).map fun x =>
        (x.1.1.zip (List.range (w.val 1))).map fun y => bankAdd d.fmt (d.codeAt j x.2 y.2) y.1)
    else s.writeRows p lc w d rows

/-- COMMIT (R129, R133). -/
def commitSpec (add : Bool) (p lc : Nat) (_s : State) (w : TDesc) : TileSpec :=
  let f0 := fmtOf (w.fmt 0)
  let f1 := fmtOf (w.fmt 1)
  let size := fun (f : Option Fmt) => (f.map fun f => f.shapeBytes (w.dim 0) (w.dim 1)).getD 0
  { uses := [{ slot := 0, fmts := fmtVector, rows := w.dim 0, cols := w.dim 1, vr := w.val 0, vc := w.val 1, align := 0 },
             { slot := 1, fmts := fmtVector, spaces := anySpace, rd := add, wr := true, rows := w.dim 0, cols := w.dim 1,
               vr := w.val 0, vc := w.val 1, remote := true, align := 0 }]
    zeroDims := [2]
    header := !add || (w.space 1 == 2 && (w.fmt 1 == 0x01 || w.fmt 1 == 0x0D) && decide (2 ≤ w.claimOp))
    limits := decide (1 ≤ w.dim 0) && decide (w.dim 0 ≤ 128) && decide (1 ≤ w.dim 1) && decide (w.dim 1 ≤ 16384) &&
      decide (size f0 ≤ 65536) && decide (size f1 ≤ if w.space 1 = 3 then 32768 else 65536)
    run := fun _ _ _ s => plain (commitRun add p lc w s) }

/-- COMMIT, writing (R133). -/
def execCommitWrite (p lc : Nat) (s : State) : Res :=
  s.live fun s => s.tileRow p lc (.commit false) 0 (commitSpec false p lc)

/-- COMMIT, adding (R133). -/
def execCommitAdd (p lc : Nat) (s : State) : Res := s.live fun s => s.tileRow p lc (.commit true) 0 (commitSpec true p lc)

/-! ### TKT_FAA (R134, R156) -/

/-- TKT_FAA's effect: the fetch-and-add, or the result that an execution before a fence received (R156); the result goes
to slot 1 when it is used. -/
def tktFaaRun (p lc : Nat) (w : TDesc) (e : QEntry) (s : State) : State × Nat × Option W64 :=
  let i := w.dim 1
  if e.faa.isNone ∧ (s.pt p).live.tktFails i then (s.meetTktBad p i, Code.uncorrectable, none)
  else
    let r : W64 × State := match e.faa with
      | some v => (v, s)
      | none =>
        let x := ((s.pt p).live.ticket i).faa (w.dim 0)
        (BitVec.ofNat 64 x.1, s.upJob p fun j => { j with tickets := Tbl.put j.tickets i x.2 })
    let t := match w.opnd lc 1 with
      | some o => r.2.slmStore p (bwrites o.addr (leBytes 8 r.1.toNat)) none
      | none => (r.2, false)
    (t.1, if t.2 then Code.uncorrectable else Code.done, some r.1)

/-- TKT_FAA (R129, R134). -/
def tktFaaSpec (p lc : Nat) (s : State) (w : TDesc) : TileSpec :=
  { uses := [{ slot := 1, fmts := fmtBytes, spaces := [2], rd := false, wr := true, rows := 1, cols := 8, vr := 1, vc := 8,
               optional := true, align := 8 }]
    zeroDims := [2]
    header := w.postEn || w.space 1 != 0
    operands := s.tktOk (w.dim 1)
    run := fun e _ _ s => tktFaaRun p lc w e s }

/-- TKT_FAA (R134). -/
def execTktFaa (p lc : Nat) (s : State) : Res := s.live fun s => s.tileRow p lc .tktFaa 0 (tktFaaSpec p lc)

/-! ### BARRIER (R98, R135) -/

/-- BARRIER sends the core's arrival with the generation it carries, which the first execution advances (R98). -/
def barrierRun (p lc : Nat) (w : TDesc) (e : QEntry) (s : State) : State × Nat × Option W64 :=
  let ctx := w.dim 0
  let g := e.gen.getD (Tbl.get 0 (s.core p lc).barGen ctx)
  let s := if e.gen.isSome then s else s.upCore p lc fun c => { c with barGen := Tbl.set 0 c.barGen ctx (g + 1) }
  (s.sendArrival p ctx lc g (w.func % 16), Code.done, none)

/-- BARRIER (R129, R135). -/
def barrierSpec (p lc : Nat) (s : State) (w : TDesc) : TileSpec :=
  { zeroDims := [1, 2]
    operands := decide (8 ≤ w.dim 0) || ((s.pt p).live.bar (w.dim 0)).hasCore lc
    limits := decide (w.dim 0 < 8)
    run := fun e _ _ s => barrierRun p lc w e s }

/-- BARRIER (R135). -/
def execBarrier (p lc : Nat) (s : State) : Res := s.live fun s => s.tileRow p lc .barrier 0 (barrierSpec p lc)

/-! ### KV_PRUNE (R194) -/

/-- Does accumulator `i` lie in a protected range? -/
def prunProtected (j : JobData) (o : Opnd) (i : Nat) : Bool :=
  (List.range 16).any fun k =>
    let v := leNat (j.bytesAt o.space o.core (o.addr + 4 * k) 4)
    decide (bits v 15 0 ≤ i) && decide (i < bits v 15 0 + bits v 31 16)

/-- Is a value below the threshold? Zeros are equal. -/
def Fv.below (v t : Fv) : Bool := v.finite && v.lt t && !(v.isZero && t.isZero)

/-- KV_PRUNE's effect. -/
def kvPruneRun (p lc : Nat) (w : TDesc) (word : W64) (s : State) : State × Nat :=
  let j := (s.pt p).live
  onOpnd (w.opnd lc 0) s fun a => onOpnd (w.opnd lc 1) s fun d => onOpnd (w.opnd lc 2) s fun g =>
    let codes := (List.range (w.val 0)).map fun i =>
      if (a.elem j 0 i).below (ofW32 word.toNat) ∧ prunProtected j g i = false then 1 else 0
    let r := s.storeIn p d.space d.core (rowWrites j d.space d.core d.addr 1 codes)
    (r.1, storeStatus r)

/-- KV_PRUNE (R129, R194). -/
def kvPruneSpec (p lc : Nat) (_s : State) (w : TDesc) : TileSpec :=
  { uses := [{ slot := 0, fmts := fmtF32, spaces := [3], rows := 1, cols := w.dim 0, vr := 1, vc := w.val 0, align := 0 },
             { slot := 1, fmts := fmtBytes, spaces := [2], rd := false, wr := true, rows := 1, cols := 64, vr := 1,
               vc := ceilDiv (w.val 0) 8, align := 4 },
             { slot := 2, fmts := fmtBytes, spaces := [2], rows := 1, cols := 64, vr := 1, vc := 64, align := 4 }]
    zeroDims := [1, 2]
    header := w.waitEn
    limits := decide (1 ≤ w.dim 0) && decide (w.dim 0 ≤ 512)
    run := fun _ word _ s => plain (kvPruneRun p lc w word s) }

/-- KV_PRUNE (R194). -/
def execKvPrune (p lc : Nat) (s : State) : Res := s.live fun s => s.tileRow p lc .kvPrune 0 (kvPruneSpec p lc)

end Sys2Proof.Machine
end

