-- ==== Sys2Proof/Machine/Receive.lean ====
section
/-! DEFINITION. What a port receives: flits, with their correction and authentication, and the packets in them, which have their effect as
they are accepted (R44, R371, R374, R376, R377, R391 to R396). -/

namespace Sys2Proof.Machine

/-- A waggle message in a packet (R376, R417). -/
def waggleOf (h : Slot) (data : List Slot) : WagMsg :=
  let n := hdr h 108 106 + 1
  { own := hdr h 109 109 == 1, gen := hdr h 95 64, round := hdr h 97 96, func := hdr h 105 98, src := BitVec.ofNat 12 (hdr h 47 36)
    lanes := if hdr h 105 98 = 0 then List.replicate n 0 else ((mgmtWords data).take n).map (BitVec.ofNat 64) }

/-- A GROUP_HELLO from its words: it is for the partition whose job has its key_id (R393, R405). DESIGN CHOICE, log entry 189. -/
def State.helloOf (s : State) (src : Nat) (ws : List Nat) : Hello :=
  let w := fun (i : Nat) => ws.getD i 0
  { dptn := ((List.range 4).find? fun p => s.keyId p == w 4).getD 4, src := BitVec.ofNat 12 src, sptn := w 0, group := w 1,
    tag := BitVec.ofNat 16 (w 2), shape := BitVec.ofNat 32 (w 3), keyId := BitVec.ofNat 64 (w 4), target := w 5 }

/-- A time stamp from its two words (R396). -/
def stampOf (b f : Nat) : Stamp := { beat := BitVec.ofNat 64 b, frac := BitVec.ofNat 16 f }

/-- The members that a HIVE_HELLO names after its sender (R560). -/
def heardOf : List Nat → List (W64 × Nat)
  | a :: b :: t => (BitVec.ofNat 64 a, b) :: heardOf t
  | _ => []

/-- A link-management message that has come at port `n` has the effect of its row (R395, R560). What a stamp's fraction measures is a free
value (DESIGN CHOICE, log entry 28). -/
def State.mgmtIn (s : State) (n typ src : Nat) (ws : List Nat) : State :=
  let w := fun (i : Nat) => ws.getD i 0
  if typ = Msg.credit then creditIn n (w 0) (w 1) (w 2) s
  else if typ = Msg.timeReq then
    let a := s.freshW64
    let b := a.2.freshW64
    timeReqIn n (w 0) (stampOf (w 2) (w 3)) (a.1.setWidth 16) (b.1.setWidth 16) b.2
  else if typ = Msg.timeRsp then
    let a := s.freshW64
    timeRspIn n (w 0) (stampOf (w 2) (w 3)) (stampOf (w 4) (w 5)) (stampOf (w 6) (w 7)) (a.1.setWidth 16) a.2
  else if typ = Msg.portState then portStateIn (w 0) (w 1) (w 2 == 1) s
  else if typ = Msg.resync then resync (w 0) (w 1) s
  else if typ = Msg.keyReady then keyReadyIn n (w 0) (w 1) s
  else if typ = Msg.keyRetire then keyRetireIn n (w 0) s
  else if typ = Msg.groupHello then groupHello (s.helloOf src ws) s
  else if typ = Msg.hiveHello then hiveHello n (w 0) (w 1) (heardOf (ws.drop 2)) s
  else if typ = Msg.hiveFormed then hiveFormedIn (w 0) (w 1) s
  else if typ = Msg.apiaryElect then apiaryElect n (w 0) (w 1) s
  else if typ = Msg.apiaryCoord then apiaryCoord n (w 0) (w 1) (w 2) s
  else if typ = Msg.apiaryState then apiaryState n (w 0 == 1) (w 1) (w 2) (w 3) (w 4 == 1) s
  else s

/-- A packet for this module has its effect as it is accepted (R44). -/
def State.deliver (s : State) (n : Nat) (h : Slot) (data : List Slot) (coll : Option (Nat × Nat × Nat)) : State :=
  let t := hdr h 3 0
  if t = 5 then s.mgmtIn n (hdr h 71 64) (hdr h 47 36) (mgmtWords data)
  else if t = 3 then waggleMessage (hdr h 29 28) (hdr h 35 30) (waggleOf h data) s
  else
    let m := packetOf h data coll
    packetArrival m { s with links := { s.links with inbox := s.links.inbox ++ [m] } }

/-- A packet has come whole: its slots are freed; reserved values are discarded and counted; one for another module goes on, and one for
this module has its effect (R44, R376, R382, R395, R402). -/
def State.packetIn (s : State) (n key : Nat) (pk : List Slot) (coll : Option (Nat × Nat × Nat)) : State :=
  match pk with
  | [] => s
  | h :: data =>
    let vc := hdr h 11 9
    let k := 2 * vc + (if hdr h 12 12 = 1 ∧ 2 ≤ vc then 1 else 0)
    let s := if creditFree h then s else (s.upPort n fun q => { q with freed := Tbl.upd 0 q.freed k (· + pk.length) }).returnCredits n 64
    if 5 < hdr h 3 0 ∨ 4 < hdr h 52 50 ∨ (hdr h 3 0 = 5 ∧ mgmtKnown (hdr h 71 64) = false) then s.countErr n 15 8 1
    else if hdr h 27 16 = s.addr ∨ s.fld rLnkAddr 0 0 31 31 = 0 then s.deliver n h data coll
    else s.forward n key pk

/-- An authentication failure is counted; the sixteenth of an epoch makes the port authenticate again (R394). -/
def State.authFail (s : State) (n : Nat) : State :=
  let q := s.port n
  let c := if q.auth.1 = s.epoch then q.auth.2 + 1 else 1
  let s := (s.upPort n fun q => { q with auth := (s.epoch, c) }).countErr n 15 8 1
  if 16 ≤ c then
    ((s.upPort n fun q => { q with auth := (s.epoch, 0) }).startAuth n).raiseAt 0 0x051 n 0 Code.authFailed s.mgmt.beat
  else s

/-- The receive key that a peer's key slot names: this module's slot of the same key, or 4 (R391, R393). -/
def Port.keyFor (q : Port) (k : Nat) : Option Nat :=
  if k = 4 then some 4 else (List.range 4).find? fun i => (Tbl.get {} q.keys i).peer == some k

/-- The lanes of port `n` in use, in the order of the peer's lanes that they meet (R371, R373). -/
def State.rxLanes (s : State) (n : Nat) : List Nat :=
  let own := lanesIn (s.port n).lanes
  (List.range 8).filterMap fun far => own.find? fun i => s.farOf n i == far

/-- The 300 bytes of the flit time that the lanes of port `n` brought, with the symbols corrected; none when the errors are too many (R373,
R374). -/
def State.flitBytes (s : State) (n : Nat) (x : FlitIn) : Option (Bytes × Nat) :=
  (rsDecode (offLanes (s.rxLanes n) x.times)).map fun r => (bytesOfSymbols 60 r.1, r.2)

/-- FLIT_RECEIVE: a flit is corrected, authenticated and accepted in order, or discarded and NAKed (R374, R376, R377,
R391, R393, R394). -/
def flitReceive (n : Nat) (x : FlitIn) (s : State) : State :=
  if s.pup n = false then s
  else
    let s := s.upPort n fun q => { q with rxCtr := q.rxCtr + 1 }
    let ctr := (s.port n).rxCtr
    match s.flitBytes n x with
    | none => s.upPort n Port.wantNak
    | some (bs, errors) =>
      let f := flitOf (leNat (bs.take 4)) []
      let s := s.upPort n fun q => q.carried f
      let s := if 0 < errors then s.countErr n 63 32 1 else s
      match (s.port n).keyFor f.key.toNat with
      | none => s.authFail n
      | some key =>
        match (openFlit (Tbl.get {} (s.port n).keys key).rx ctr bs).filter fun _ => Tbl.get 0 (s.port n).rxLast key < ctr with
        | none => (s.upPort n Port.wantNak).authFail n
        | some f =>
          let s := s.upPort n fun q => { q with rxLast := Tbl.set 0 q.rxLast key ctr }
          if f.typ = 3 then s.countErr n 15 8 1
          else
            let s := if f.typ = 2 then nakArrives n f.ack.toNat s else s.upPort n fun q => q.acked f.ack.toNat
            if f.typ ≠ 0 then s
            else if f.fseq.toNat ≠ (s.port n).rx then s.upPort n Port.wantNak
            else
              let r := parsePkts 36 ((s.port n).part ++ f.slots)
              let s := s.upPort n fun q => { q with rx := (q.rx + 1) % 2048, part := r.2, nakDue := false, nakFor := none }
              (r.1.zip (x.colls ++ List.replicate 18 none)).foldl (fun s y => s.packetIn n key y.1 y.2) s

/-- R377. -/
def execFlitReceive (port : Nat) (f : FlitIn) (s : State) : Res := s.live (flitReceive port f)

end Sys2Proof.Machine
end

