-- ==== Sys2Proof/Machine/RvFloat.lean ====
section
/-! DEFINITION. Floating-point arithmetic of a dispatcher's hart: IEEE 754 binary32 and binary64 with the rounding modes and the exception
flags of the F and D extensions (R100). PRESUMED, log entry 144. -/

namespace Sys2Proof.Machine.Rv

/-! ### Formats and values -/

/-- A binary format: the bits of its exponent and of its fraction. -/
structure FloatFmt where
  exp : Nat
  frac : Nat
deriving DecidableEq, Repr

/-- binary32 and binary64. -/
def FloatFmt.single : FloatFmt := ⟨8, 23⟩
/-- See `FloatFmt.single`. -/
def FloatFmt.double : FloatFmt := ⟨11, 52⟩

/-- Bits of a value. -/
def FloatFmt.width (f : FloatFmt) : Nat := f.exp + f.frac + 1
/-- The exponent bias, which is the largest exponent of a finite value. -/
def FloatFmt.bias (f : FloatFmt) : Nat := 2 ^ (f.exp - 1) - 1
/-- The code of infinity without its sign. -/
def FloatFmt.inf (f : FloatFmt) : Nat := (2 ^ f.exp - 1) * 2 ^ f.frac
/-- The canonical NaN. -/
def FloatFmt.nan (f : FloatFmt) : Nat := f.inf + 2 ^ (f.frac - 1)
/-- The sign bit's weight. -/
def FloatFmt.sign (f : FloatFmt) : Nat := 2 ^ (f.width - 1)

/-- What a code means: a finite value is m × 2^e with its sign, zero having m = 0. -/
inductive Num where
  | nan (signaling : Bool)
  | inf (neg : Bool)
  | fin (neg : Bool) (m : Nat) (e : Int)
deriving DecidableEq, Repr

/-- The meaning of a code. -/
def FloatFmt.unpack (f : FloatFmt) (v : Nat) : Num :=
  let neg := v / f.sign % 2 == 1
  let e := v / 2 ^ f.frac % 2 ^ f.exp
  let m := v % 2 ^ f.frac
  if e = 2 ^ f.exp - 1 then (if m = 0 then .inf neg else .nan (m < 2 ^ (f.frac - 1)))
  else if e = 0 then .fin neg m (1 - (f.bias : Int) - f.frac)
  else .fin neg (2 ^ f.frac + m) ((e : Int) - f.bias - f.frac)

/-- The sign of a number. -/
def Num.neg : Num → Bool
  | .nan _ => false
  | .inf n => n
  | .fin n _ _ => n

/-- Is it a NaN? -/
def Num.isNan : Num → Bool
  | .nan _ => true
  | _ => false

/-- A signalling NaN. -/
def Num.isSnan : Num → Bool
  | .nan s => s
  | _ => false

/-- The number with its sign turned, unless it is a NaN. -/
def Num.flip : Num → Num
  | .nan s => .nan s
  | .inf n => .inf (!n)
  | .fin n m e => .fin (!n) m e

/-! ### Rounding -/

/-- The rounding modes, as the field rm codes them. -/
inductive Rm where
  | rne | rtz | rdn | rup | rmm
deriving DecidableEq, Repr

/-- The mode of a code; 5 to 7 are no mode. -/
def Rm.of (n : Nat) : Option Rm := ([.rne, .rtz, .rdn, .rup, .rmm] : List Rm)[n]?

/-- The exception flags of fflags. -/
def flagNv : Nat := 16
/-- See `flagNv`. -/
def flagDz : Nat := 8
/-- See `flagNv`. -/
def flagOf : Nat := 4
/-- See `flagNv`. -/
def flagUf : Nat := 2
/-- See `flagNv`. -/
def flagNx : Nat := 1

/-- `m` divided by 2^k, rounded to an integer in a mode. -/
def shiftRound (rm : Rm) (neg : Bool) (m k : Nat) : Nat :=
  let q := m / 2 ^ k
  let r := m % 2 ^ k
  let up := match rm with
    | .rne => decide (2 ^ k < 2 * r) || (decide (2 * r = 2 ^ k) && q % 2 == 1)
    | .rtz => false
    | .rdn => neg && decide (r ≠ 0)
    | .rup => !neg && decide (r ≠ 0)
    | .rmm => decide (2 ^ k ≤ 2 * r) && decide (r ≠ 0)
  if up then q + 1 else q

/-- Bits of a number. -/
def bitLen (m : Nat) : Nat := if m = 0 then 0 else Nat.log2 m + 1

/-- The code of the value m × 2^e rounded into the format, with the flags. Tininess is detected after rounding. -/
def FloatFmt.round (f : FloatFmt) (rm : Rm) (neg : Bool) (m : Nat) (e : Int) : Nat × Nat :=
  let sgn := if neg then f.sign else 0
  if m = 0 then (sgn, 0)
  else
    let free : Int := e + bitLen m - (f.frac + 1)
    let low : Int := 1 - (f.bias : Int) - f.frac
    let put := fun (q : Int) => if q ≤ e then m * 2 ^ (e - q).toNat else shiftRound rm neg m (q - e).toNat
    let q := if free < low then low else free
    let n := put q
    let exact := decide (q ≤ e) || decide (m % 2 ^ (q - e).toNat = 0)
    -- a carry out of the rounding raises the exponent by one
    let n' := if n = 2 ^ (f.frac + 1) then 2 ^ f.frac else n
    let q' := if n = 2 ^ (f.frac + 1) then q + 1 else q
    if (f.bias : Int) < q' + f.frac ∧ 2 ^ f.frac ≤ n' then
      let toInf := match rm with
        | .rne => true
        | .rmm => true
        | .rtz => false
        | .rdn => neg
        | .rup => !neg
      (sgn + (if toInf then f.inf else f.inf - 1), flagOf + flagNx)
    else
      let tiny := decide (free + (if put free = 2 ^ (f.frac + 1) then 1 else 0) < low)
      let code := if n' < 2 ^ f.frac then n' else (q' + f.frac + f.bias).toNat * 2 ^ f.frac + (n' - 2 ^ f.frac)
      (sgn + code, if exact then 0 else flagNx + (if tiny then flagUf else 0))

/-! ### Arithmetic -/

/-- A NaN result, invalid when an operand signals or the operation is invalid. -/
def FloatFmt.nanOf (f : FloatFmt) (invalid : Bool) : Nat × Nat := (f.nan, if invalid then flagNv else 0)

/-- The code of infinity. -/
def FloatFmt.infOf (f : FloatFmt) (neg : Bool) : Nat × Nat := ((if neg then f.sign else 0) + f.inf, 0)

/-- The sum of two finite values as m × 2^e. -/
def sumFin (n1 : Bool) (m1 : Nat) (e1 : Int) (n2 : Bool) (m2 : Nat) (e2 : Int) : Int × Int :=
  let e := if e1 < e2 then e1 else e2
  let v := fun (n : Bool) (m : Nat) (x : Int) => let y : Int := (m * 2 ^ (x - e).toNat : Nat); if n then -y else y
  (v n1 m1 e1 + v n2 m2 e2, e)

/-- The sum of two numbers. An exact zero of operands of unlike signs is +0, or −0 when rounding down. -/
def FloatFmt.add (f : FloatFmt) (rm : Rm) (a b : Num) : Nat × Nat :=
  match a, b with
  | .nan x, y => f.nanOf (x || y.isSnan)
  | x, .nan y => f.nanOf (x.isSnan || y)
  | .inf x, .inf y => if x = y then f.infOf x else f.nanOf true
  | .inf x, .fin .. => f.infOf x
  | .fin .., .inf y => f.infOf y
  | .fin n1 m1 e1, .fin n2 m2 e2 =>
    let r := sumFin n1 m1 e1 n2 m2 e2
    if r.1 = 0 then ((if (if n1 = n2 then n1 else rm == .rdn) then f.sign else 0), 0)
    else f.round rm (decide (r.1 < 0)) r.1.natAbs r.2

/-- The product of two numbers that are no NaN, exactly; none when it is invalid. -/
def mulExact (a b : Num) : Option Num :=
  match a, b with
  | .fin n1 m1 e1, .fin n2 m2 e2 => some (.fin (n1 != n2) (m1 * m2) (e1 + e2))
  | .inf n1, .fin n2 m2 _ => if m2 = 0 then none else some (.inf (n1 != n2))
  | .fin n1 m1 _, .inf n2 => if m1 = 0 then none else some (.inf (n1 != n2))
  | x, y => some (.inf (x.neg != y.neg))

/-- A number rounded into the format. -/
def FloatFmt.ofNum (f : FloatFmt) (rm : Rm) : Num → Nat × Nat
  | .nan s => f.nanOf s
  | .inf n => f.infOf n
  | .fin n m e => f.round rm n m e

/-- The product of two numbers. -/
def FloatFmt.mul (f : FloatFmt) (rm : Rm) (a b : Num) : Nat × Nat :=
  if a.isNan ∨ b.isNan then f.nanOf (a.isSnan || b.isSnan)
  else match mulExact a b with
    | none => f.nanOf true
    | some x => f.ofNum rm x

/-- a × b + c with one rounding. Infinity times zero is invalid whatever c is. -/
def FloatFmt.fma (f : FloatFmt) (rm : Rm) (a b c : Num) : Nat × Nat :=
  if a.isNan ∨ b.isNan then f.nanOf (a.isSnan || b.isSnan || c.isSnan)
  else match mulExact a b with
    | none => f.nanOf true
    | some x => f.add rm x c

/-- The quotient of two numbers. -/
def FloatFmt.div (f : FloatFmt) (rm : Rm) (a b : Num) : Nat × Nat :=
  let neg := a.neg != b.neg
  match a, b with
  | .nan x, y => f.nanOf (x || y.isSnan)
  | x, .nan y => f.nanOf (x.isSnan || y)
  | .inf _, .inf _ => f.nanOf true
  | .inf _, .fin .. => f.infOf neg
  | .fin .., .inf _ => ((if neg then f.sign else 0), 0)
  | .fin _ m1 e1, .fin _ m2 e2 =>
    if m2 = 0 then (if m1 = 0 then f.nanOf true else ((f.infOf neg).1, flagDz))
    else
      -- enough quotient bits for any rounding, with the remainder as a last bit
      let k := 2 * f.frac + 4 + bitLen m2
      let q := m1 * 2 ^ k / m2
      let sticky := if m1 * 2 ^ k % m2 = 0 then 0 else 1
      f.round rm neg (2 * q + sticky) (e1 - e2 - k - 1)

/-- The integer square root, by bits from bit `n` - 1 down. -/
def rootOf (v : Nat) : Nat → Nat → Nat
  | 0, r => r
  | n + 1, r => rootOf v n (if (r + 2 ^ n) * (r + 2 ^ n) ≤ v then r + 2 ^ n else r)

/-- The square root of a number. -/
def FloatFmt.sqrt (f : FloatFmt) (rm : Rm) (a : Num) : Nat × Nat :=
  match a with
  | .nan s => f.nanOf s
  | .inf n => if n then f.nanOf true else f.infOf false
  | .fin n m e =>
    if m = 0 then ((if n then f.sign else 0), 0)
    else if n then f.nanOf true
    else
      let odd : Nat := (e % 2).toNat
      let k := f.frac + 3
      let v := m * 2 ^ (odd + 2 * k)
      let r := rootOf v ((bitLen v + 1) / 2) 0
      f.round rm false (2 * r + if r * r = v then 0 else 1) ((e - odd) / 2 - k - 1)

/-! ### Comparison, classes, signs -/

/-- Is a less than b? Neither is a NaN; −0 and +0 are equal. -/
def Num.lt (a b : Num) : Bool :=
  match a, b with
  | .inf n, .inf n' => n && !n'
  | .inf n, _ => n
  | _, .inf n' => !n'
  | .fin n m e, .fin n' m' e' => decide ((sumFin n m e (!n') m' e').1 < 0)
  | _, _ => false

/-- FLE, FLT and FEQ by `k` 0, 1, 2. FEQ is invalid for signalling NaNs only. -/
def compare (k : Nat) (a b : Num) : Nat × Nat :=
  if a.isNan ∨ b.isNan then (0, if k ≠ 2 ∨ a.isSnan ∨ b.isSnan then flagNv else 0)
  else
    let r := if k = 1 then a.lt b else if k = 0 then !b.lt a else !a.lt b && !b.lt a
    (if r then 1 else 0, 0)

/-- FMIN or FMAX of two codes; −0 is below +0, and of a NaN and a number the number is taken. -/
def FloatFmt.minMax (f : FloatFmt) (max : Bool) (x y : Nat) : Nat × Nat :=
  let a := f.unpack x
  let b := f.unpack y
  let flags := if a.isSnan ∨ b.isSnan then flagNv else 0
  let below := a.lt b || (!b.lt a && a.neg && !b.neg)
  (if a.isNan ∧ b.isNan then f.nan else if a.isNan then y else if b.isNan then x else if below != max then x else y, flags)

/-- FCLASS. -/
def FloatFmt.classify (f : FloatFmt) (v : Nat) : Nat :=
  2 ^ match f.unpack v with
    | .nan s => if s then 8 else 9
    | .inf n => if n then 0 else 7
    | .fin n m _ =>
      if m = 0 then (if n then 3 else 4)
      else if m < 2 ^ f.frac then (if n then 2 else 5)
      else if n then 1 else 6

/-- FSGNJ, FSGNJN and FSGNJX by `k` 0, 1, 2. -/
def FloatFmt.signOf (f : FloatFmt) (k x y : Nat) : Nat :=
  let sx := x / f.sign % 2
  let sy := y / f.sign % 2
  x % f.sign + (if k = 0 then sy else if k = 1 then 1 - sy else (sx + sy) % 2) * f.sign

/-! ### Conversions -/

/-- A number as an integer of `n` bits, signed or not: rounded, and the nearest bound with the invalid flag where it lies beyond. -/
def toInteger (rm : Rm) (n : Nat) (sign : Bool) (a : Num) : Int × Nat :=
  let lo : Int := if sign then -(2 ^ (n - 1) : Nat) else 0
  let hi : Int := if sign then (2 ^ (n - 1) : Nat) - 1 else (2 ^ n : Nat) - 1
  match a with
  | .nan _ => (hi, flagNv)
  | .inf neg => (if neg then lo else hi, flagNv)
  | .fin neg m e =>
    let u := if 0 ≤ e then m * 2 ^ e.toNat else shiftRound rm neg m (-e).toNat
    let exact := decide (0 ≤ e) || decide (m % 2 ^ (-e).toNat = 0)
    let v : Int := if neg then -(u : Int) else u
    if v < lo then (lo, flagNv) else if hi < v then (hi, flagNv) else (v, if exact then 0 else flagNx)

/-- An integer in the format. -/
def FloatFmt.ofInteger (f : FloatFmt) (rm : Rm) (v : Int) : Nat × Nat := f.round rm (decide (v < 0)) v.natAbs 0

end Sys2Proof.Machine.Rv
end

