-- ==== Sys2Proof/Machine/Scratch.lean ====
section
/-! DEFINITION. The accesses of a dispatcher's hart: loads, stores and fetches, the plain CSRs of R105 with those that the standard
gives, the exceptions that stop them, and the atomic operations on the scratchpad (R100 to R102, R105, R109, R282 to R284). -/

namespace Sys2Proof.Machine

/-! ### Loads, stores and fetches (R101, R102, R281) -/

/-- A partition's scratchpad word that reads uncorrectable stops an access of hart Dd: a load access fault that the firmware reports as
UNCORRECTABLE (R283, R434). -/
def State.hartMeets (s : State) (d word : Nat) : State :=
  (s.meetSlmBad (s.dispPos d).1 word).hartTrap d Cause.loadAccess (slmWindow + 8 * word) Code.uncorrectable

/-- A load of `w` bytes. A misaligned one is carried out (log entry 146). -/
def State.hartLoad (s : State) (d rd a w : Nat) (sign : Bool) : State :=
  let p := (s.dispPos d).1
  match s.hartWhere d a w .load with
  | some (.dlm o) => s.retire d rd (extend w sign ((s.disp d).dlm.rdLe o w))
  | some (.slm o) =>
    match s.slmBadAt p o w with
    | u :: _ => s.hartMeets d u
    | [] => s.retire d rd (extend w sign ((s.pt p).live.slm.rdLe o w))
  | _ => s.hartTrap d Cause.loadAccess a Code.invalidOperand

/-- A store of `w` bytes. A part of a word that reads uncorrectable is not written (R142, R281). -/
def State.hartStore (s : State) (d a w v : Nat) : State :=
  let p := (s.dispPos d).1
  let bs := leBytes w v
  match s.hartWhere d a w .store with
  | some (.dlm o) => (s.upDisp d fun x => { x with dlm := x.dlm.wrN o bs }).retire d 0 0
  | some (.slm o) =>
    let r := s.slmStore p (bwrites o bs) (some (s.dispPos d).2)
    if r.2 then r.1.hartTrap d Cause.loadAccess a Code.uncorrectable else r.1.retire d 0 0
  | _ => s.hartTrap d Cause.storeAccess a Code.invalidOperand

/-- A fetch at the hart's pc: one that the map or the protection stops is an access fault; another brings the instruction (R102). -/
def State.hartFetch (s : State) (d a : Nat) : State :=
  match s.hartWhere d a 2 .fetch with
  | some _ => s
  | none => s.hartTrap d Cause.fetchAccess a Code.invalidOperand

/-! ### CSRs (R100, R105, R109) -/

/-- What reading a CSR gives. -/
inductive CsrVal where
  | val (v : Nat)
  | illegal
  /-- CORE_TKT_SEL names a base die outside the partition. -/
  | noTicket
  /-- The ticket word reads uncorrectable. -/
  | badTicket
deriving DecidableEq, Repr

/-- CORE_IDENT of dispatcher Dd (R105). -/
def State.coreIdent (s : State) (d : Nat) : Nat :=
  320 * (s.dispPos d).2 * 2 ^ 32 + 320 * 65536 + d * 256 + d / 4 * 64 + (s.dispPos d).1 * 16 + s.fld rMgtPtnShape 0 0 3 2 * 4

/-- The cycles counted: how many pass is a free value (log entry 144). -/
def Disp.cycles (x : Disp) (d : Nat) : W64 :=
  if bits x.mcountinhibit.toNat 0 0 = 1 then x.mcycle else x.mcycle + Config.hartCycles d x.cycleFrom x.retired

/-- The M-mode registers of the Privileged Architecture that the hart has, with what they read. -/
def Disp.machineCsr (x : Disp) (d c : Nat) : Option Nat :=
  -- UXL is 64 bits, and SD says that FS is Dirty
  if c = 0x300 then some (x.mstatus.toNat + 2 ^ 33 + if bits x.mstatus.toNat 14 13 = 3 then 2 ^ 63 else 0)
  else if c = 0x301 then some (2 ^ 63 + 2 ^ 20 + 2 ^ 12 + 2 ^ 8 + 2 ^ 5 + 2 ^ 3 + 2 ^ 2 + 1)
  else if c = 0x304 then some x.mie.toNat
  else if c = 0x305 then some x.mtvec.toNat
  else if c = 0x340 then some x.mscratch.toNat
  else if c = 0x341 then some x.mepc.toNat
  else if c = 0x342 then some x.mcause.toNat
  else if c = 0x343 then some x.mtval.toNat
  else if c = 0x344 then some x.mip.toNat
  else if c = 0x3a0 ∨ c = 0x3a2 then
    some ((List.range 8).foldl (fun v i => v + (Tbl.get 0 x.pmpcfg ((c - 0x3a0) * 4 + i)).toNat * 2 ^ (8 * i)) 0)
  else if 0x3b0 ≤ c ∧ c < 0x3c0 then some (Tbl.get 0 x.pmpaddr (c - 0x3b0)).toNat
  else if c = 0xf11 ∨ c = 0xf12 ∨ c = 0xf13 then some 0
  else if c = 0xf14 then some d
  else if c = 0xf15 then some 0
  else if c = 0x306 then some x.mcounteren.toNat
  else if c = 0x30a then some x.menvcfg.toNat
  else if c = 0x320 then some x.mcountinhibit.toNat
  else if c = 0xb00 ∨ c = 0xc00 then some (x.cycles d).toNat
  else if c = 0xb02 ∨ c = 0xc02 then some x.minstret.toNat
  -- further counters are not there, and read 0
  else if (0xb03 ≤ c ∧ c < 0xb20) ∨ (0xc03 ≤ c ∧ c < 0xc20) ∨ (0x323 ≤ c ∧ c < 0x340) then some 0
  else none

/-- A word of the selected ticket counter: VALUE for `j` 0, LIMIT for 1 (R109, R281). -/
def State.tktWord (s : State) (d j : Nat) : CsrVal :=
  let q := s.pt (s.dispPos d).1
  let i := bits (s.disp d).tktSel.toNat 13 0
  if s.tktOk i = false then .noTicket
  else if q.live.tktBad.contains (2 * i + j) then .badTicket
  else .val (if j = 0 then (q.live.ticket i).value.toNat else (q.live.ticket i).limit.toNat)

/-- A read of a CSR by hart Dd: the registers of R105, the floating-point registers, and in M-mode those of the standard. Any other is
an illegal instruction. -/
def State.csrRead (s : State) (d c : Nat) : CsrVal :=
  let x := s.disp d
  if c = 0xcc0 then .val s.mgmt.beat
  else if c = 0xcc1 then .val (s.coreIdent d)
  else if c = 0xcc2 then .val (if s.preemptNext (s.dispPos d).1 then 1 else 0)
  else if c = 0x801 then .val x.mboxData.toNat
  else if c = 0x805 then .val x.tktSel.toNat
  else if c = 0x806 then s.tktWord d 0
  else if c = 0x807 then s.tktWord d 1
  else if 0x840 ≤ c ∧ c < 0x880 then .val (Tbl.get 0 x.ccnt (c - 0x840)).toNat
  else if 1 ≤ c ∧ c ≤ 3 ∧ bits x.mstatus.toNat 14 13 = 0 then .illegal
  else if c = 1 then .val (x.fcsr.toNat % 32)
  else if c = 2 then .val (x.fcsr.toNat / 32 % 8)
  else if c = 3 then .val (x.fcsr.toNat % 256)
  else if x.umode ∧ ¬ ((c = 0xc00 ∨ c = 0xc02) ∧ x.mcounteren.toNat / 2 ^ (c - 0xc00) % 2 = 1) then .illegal
  else match x.machineCsr d c with
    | some v => .val v
    | none => .illegal

/-- An M-mode register takes a value: the fields that the Privileged Architecture lets it hold here. A locked PMP entry stays. -/
def Disp.setMachineCsr (x : Disp) (d c v : Nat) : Disp :=
  let w := BitVec.ofNat 64 v
  if c = 0x300 then
    let mpp := if bits v 12 11 = 0 then 0 else 3
    { x with mstatus := BitVec.ofNat 64 (bits v 3 3 * 8 + bits v 7 7 * 128 + mpp * 2048 + bits v 14 13 * 8192 + bits v 17 17 * 131072) }
  else if c = 0x304 then { x with mie := w }
  else if c = 0x305 then { x with mtvec := BitVec.ofNat 64 (v / 4 * 4 + v % 2) }
  else if c = 0x340 then { x with mscratch := w }
  else if c = 0x341 then { x with mepc := BitVec.ofNat 64 (v / 2 * 2) }
  else if c = 0x342 then { x with mcause := w }
  else if c = 0x343 then { x with mtval := w }
  else if c = 0x306 then { x with mcounteren := BitVec.ofNat 32 (v &&& 5) }
  else if c = 0x30a then { x with menvcfg := BitVec.ofNat 64 (v % 2) }
  -- what has been counted stays when a counter is inhibited, and counting goes on from it
  else if c = 0x320 then { x with mcountinhibit := BitVec.ofNat 32 (v &&& 5), mcycle := x.cycles d, cycleFrom := x.retired }
  else if c = 0xb00 then { x with mcycle := w, cycleFrom := x.retired }
  -- the instruction that writes it does not count
  else if c = 0xb02 then { x with minstret := if bits x.mcountinhibit.toNat 2 2 = 1 then w else w - 1 }
  else if c = 0x3a0 ∨ c = 0x3a2 then
    { x with pmpcfg := (List.range 8).foldl (fun t i =>
        let n := (c - 0x3a0) * 4 + i
        if 128 ≤ (Tbl.get 0 t n).toNat then t else Tbl.set 0 t n (BitVec.ofNat 8 (bits v (8 * i + 7) (8 * i) &&& 0x9f))) x.pmpcfg }
  else if 0x3b0 ≤ c ∧ c < 0x3c0 then
    if 128 ≤ (Tbl.get 0 x.pmpcfg (c - 0x3b0)).toNat then x
    else { x with pmpaddr := Tbl.set 0 x.pmpaddr (c - 0x3b0) (BitVec.ofNat 64 (v % 2 ^ 54)) }
  else x

/-- A plain store to a word of the selected ticket counter; the whole word also ends an error (R109, R281). Bit 63 is kept 0; DEDUCED, log
entry 146. -/
def State.setTkt (s : State) (d j v : Nat) : State :=
  let i := bits (s.disp d).tktSel.toNat 13 0
  let w := BitVec.ofNat 64 (v % 2 ^ 63)
  s.upJob (s.dispPos d).1 fun l =>
    { l with tickets := Tbl.put l.tickets i (if j = 0 then { l.ticket i with value := w } else { l.ticket i with limit := w }),
             tktBad := l.tktBad.filter (· ≠ 2 * i + j) }

/-- A CSR takes a value. -/
def State.csrSet (s : State) (d c v : Nat) : State :=
  if c = 0x806 then s.setTkt d 0 v
  else if c = 0x807 then s.setTkt d 1 v
  else s.upDisp d fun x =>
    if c = 0x801 then { x with mboxData := BitVec.ofNat 64 v }
    else if c = 0x805 then { x with tktSel := BitVec.ofNat 64 (v % 16384) }
    else if 0x840 ≤ c ∧ c < 0x880 then { x with ccnt := Tbl.set 0 x.ccnt (c - 0x840) (BitVec.ofNat 64 v) }
    -- a write of fcsr makes FS Dirty
    else if c = 1 then { x with fcsr := BitVec.ofNat 32 (x.fcsr.toNat / 32 * 32 % 256 + v % 32), mstatus := x.mstatus ||| 0x6000 }
    else if c = 2 then { x with fcsr := BitVec.ofNat 32 (v % 8 * 32 + x.fcsr.toNat % 32), mstatus := x.mstatus ||| 0x6000 }
    else if c = 3 then { x with fcsr := BitVec.ofNat 32 (v % 256), mstatus := x.mstatus ||| 0x6000 }
    else x.setMachineCsr d c v

/-- The value that an access writes, from the value read; none when it writes nothing. -/
def CsrOp.apply (op : CsrOp) (old : Nat) : Option Nat :=
  match op with
  | .write v => some v.toNat
  | .set v => v.map fun m => old ||| m.toNat
  | .clear v => v.map fun m => old &&& (2 ^ 64 - 1 - m.toNat)

/-- The CSRs on which one csrrw performs an action (R105). -/
def csrActs (c : Nat) : Bool := ([0x800, 0x802, 0x803, 0x804, 0x808, 0x809] : List Nat).contains c

/-- One csrrw performs the register's action (R105). -/
def State.csrAct (s : State) (d rd c : Nat) (v : W64) : State :=
  if c = 0x800 then coreTqpush d rd v.toNat s
  else if c = 0x802 then coreMboxPost d rd v.toNat s
  else if c = 0x803 then coreCcwait d rd v.toNat s
  else if c = 0x804 then coreBarrier d rd (bits v.toNat 2 0) s
  else if c = 0x808 then coreTktFaa d rd (bits v.toNat 31 0) s
  else coreMboxOvf d rd v.toNat s

/-- An access to a CSR (R105, R109). csrrs and csrrc on a register with an action, a write to a read-only register and an access to a
register that does not exist are illegal instructions; the status that the firmware reports for one is INVALID_OPERAND (DESIGN CHOICE,
log entry 14). -/
def State.hartCsr (s : State) (d rd c : Nat) (op : CsrOp) : State :=
  let p := (s.dispPos d).1
  let i := bits (s.disp d).tktSel.toNat 13 0
  let illegal := s.hartTrap d Cause.illegal 0 Code.invalidOperand
  if csrActs c then
    match op with
    | .write v => s.csrAct d rd c v
    | _ => illegal
  else
    let writes := (CsrOp.apply op 0).isSome
    let old := match op with
      | .write _ => if rd = 0 ∧ s.csrRead d c = CsrVal.badTicket then CsrVal.val 0 else s.csrRead d c
      | _ => s.csrRead d c
    match old with
    | .illegal => illegal
    | .noTicket => s.hartTrap d (if writes then Cause.storeAccess else Cause.loadAccess) 0 Code.invalidOperand
    | .badTicket => (s.meetTktBad p i).hartTrap d Cause.loadAccess 0 Code.uncorrectable
    | .val v =>
      match CsrOp.apply op v with
      | none => s.retire d rd v
      | some w => if c / 1024 = 3 then illegal else (s.csrSet d c w).retire d rd v

/-! ### Atomic operations on the scratchpad (R282 to R284) -/

/-- What an atomic access may do. -/
inductive SlmAccess where
  | dlm (off : Nat)
  | slm (off : Nat)
  | stop (cause status : Nat)
  | bad (word : Nat)
deriving DecidableEq, Repr

/-- The checks of R102 and R283 on an atomic access of `w` bytes at hart address `a`; `k` is how it uses memory. -/
def State.slmAccess (s : State) (d a w : Nat) (k : MemUse) : SlmAccess :=
  if a % w ≠ 0 then .stop (if k = .load then Cause.loadMisaligned else Cause.storeMisaligned) Code.invalidOperand
  else match s.hartWhere d a w k with
    | some (.dlm o) => .dlm o
    | some (.slm o) => if (s.pt (s.dispPos d).1).live.slmBad.contains (o / 8) then .bad (o / 8) else .slm o
    | _ => .stop k.cause Code.invalidOperand

/-- The result of an AMO on `n`-bit values (R282). -/
def AmoOp.apply (op : AmoOp) (n : Nat) (a b : Nat) : Nat :=
  match op with
  | .swap => b
  | .add => (a + b) % 2 ^ n
  | .and => a &&& b
  | .or => a ||| b
  | .xor => a ^^^ b
  | .min => if toSigned n b < toSigned n a then b else a
  | .max => if toSigned n a < toSigned n b then b else a
  | .minu => Nat.min a b
  | .maxu => Nat.max a b

/-- A loaded word as the hart's register holds it: a 4-byte word is sign-extended (R100). -/
def loadWord (w v : Nat) : Nat := if w = 4 then ofSigned 64 (toSigned 32 v) else v

/-- An AMO: at the SLM bank in the scratchpad window, in the dispatcher's own memory below it (R101, R282, R283). DEDUCED, log entry 131. -/
def slmAmo (d rd : Nat) (op : AmoOp) (w addr : Nat) (v : Nat) (s : State) : State :=
  let p := (s.dispPos d).1
  let new := fun (old : Nat) => leBytes w (AmoOp.apply op (8 * w) old (v % 2 ^ (8 * w)))
  match s.slmAccess d addr w .store with
  | .stop c st => s.hartTrap d c addr st
  | .bad u => s.hartMeets d u
  | .dlm o =>
    let old := (s.disp d).dlm.rdLe o w
    (s.upDisp d fun x => { x with dlm := x.dlm.wrN o (new old) }).retire d rd (loadWord w old)
  | .slm off =>
    let old := (s.pt p).live.slm.rdLe off w
    ((s.slmStore p (bwrites off (new old)) (some (s.dispPos d).2)).1).retire d rd (loadWord w old)

/-- R282. -/
def execSlmAmo (d rd : Nat) (op : AmoOp) (dbl : Bool) (addr : Nat) (v : W64) (s : State) : Res :=
  s.onHart d fun s => slmAmo d rd op (if dbl then 8 else 4) addr v.toNat s

/-- LR reserves the aligned 64-byte unit of its word (R284). -/
def hartLr (d rd w addr : Nat) (s : State) : State :=
  let hold := fun (s : State) => s.upDisp d fun x => { x with resv := some (addr, w) }
  match s.slmAccess d addr w .load with
  | .stop c st => s.hartTrap d c addr st
  | .bad u => s.hartMeets d u
  | .dlm o => (hold s).retire d rd (loadWord w ((s.disp d).dlm.rdLe o w))
  | .slm o => (hold s).retire d rd (loadWord w ((s.pt (s.dispPos d).1).live.slm.rdLe o w))

/-- R284. -/
def execLr (d rd : Nat) (dbl : Bool) (addr : Nat) (s : State) : Res := s.onHart d fun s => hartLr d rd (if dbl then 8 else 4) addr s

/-- Does the hart hold a reservation on the unit of address `a` (R284)? -/
def Disp.holds (x : Disp) (a : Nat) : Bool :=
  match x.resv with
  | some (b, _) => b / 64 == a / 64
  | none => false

/-- SC stores only while the hart's reservation on the unit is held; the result is 0 on success, 1 otherwise, and the
reservation ends (R284). A failing one is an operation on the unit all the same. DESIGN CHOICE, log entry 15. -/
def hartSc (d rd w addr : Nat) (v : Nat) (s : State) : State :=
  let p := (s.dispPos d).1
  let i := (s.dispPos d).2
  let held := (s.disp d).holds addr
  let ended := fun (s : State) => (s.upDisp d fun x => { x with resv := none }).retire d rd (if held then 0 else 1)
  match s.slmAccess d addr w .store with
  | .stop c st => s.hartTrap d c addr st
  | .bad u => s.hartMeets d u
  | .dlm o => ended (if held then s.upDisp d fun x => { x with dlm := x.dlm.wrN o (leBytes w v) } else s)
  | .slm o => ended (if held then (s.slmStore p (bwrites o (leBytes w v)) (some i)).1 else s.slmOperate p o (some i))

/-- R284. -/
def execSc (d rd : Nat) (dbl : Bool) (addr : Nat) (v : W64) (s : State) : Res :=
  s.onHart d fun s => hartSc d rd (if dbl then 8 else 4) addr v.toNat s

end Sys2Proof.Machine
end

