-- ==== Sys2Proof/Machine/Rv.lean ====
section
/-! DEFINITION. The instructions of a dispatcher's hart: RV64IMAFDC with Zicsr and Zifencei as the manuals that R100 names define them.
PRESUMED, log entry 144. -/

namespace Sys2Proof.Machine

namespace Rv

/-! ### Instructions -/

/-- Integer operations on two values. -/
inductive Alu where
  | add | sub | sll | slt | sltu | xor | srl | sra | or | and
  | mul | mulh | mulhsu | mulhu | div | divu | rem | remu
deriving DecidableEq, Repr

/-- The second operand: a register or an immediate. -/
inductive Src where
  | reg (n : Nat)
  | imm (v : Int)
deriving DecidableEq, Repr

/-- Floating-point operations with a rounding mode. -/
inductive Fop where
  | add | sub | mul | div | sqrt
deriving DecidableEq, Repr

/-- An instruction. `w32` marks a W form, `dbl` the 8-byte or the double-precision form, `rm` the field rm. -/
inductive Rv where
  | lui (rd : Nat) (v : Int)
  | auipc (rd : Nat) (v : Int)
  | jal (rd : Nat) (off : Int)
  | jalr (rd rs1 : Nat) (off : Int)
  | branch (f3 rs1 rs2 : Nat) (off : Int)
  | load (rd rs1 : Nat) (off : Int) (w : Nat) (signed : Bool)
  | store (rs1 rs2 : Nat) (off : Int) (w : Nat)
  | alu (op : Alu) (w32 : Bool) (rd rs1 : Nat) (b : Src)
  | fence
  | ecall
  | ebreak
  | mret
  | wfi
  | csr (f3 rd rs1 c : Nat)
  | lr (dbl : Bool) (rd rs1 : Nat)
  | sc (dbl : Bool) (rd rs1 rs2 : Nat)
  | amo (op : AmoOp) (dbl : Bool) (rd rs1 rs2 : Nat)
  | fload (dbl : Bool) (rd rs1 : Nat) (off : Int)
  | fstore (dbl : Bool) (rs1 rs2 : Nat) (off : Int)
  | farith (op : Fop) (dbl : Bool) (rd rs1 rs2 rm : Nat)
  | ffma (negProduct negAddend dbl : Bool) (rd rs1 rs2 rs3 rm : Nat)
  | fsgnj (dbl : Bool) (k rd rs1 rs2 : Nat)
  | fminmax (dbl max : Bool) (rd rs1 rs2 : Nat)
  | fcmp (dbl : Bool) (k rd rs1 rs2 : Nat)
  | fclass (dbl : Bool) (rd rs1 : Nat)
  | ftoint (dbl : Bool) (k rd rs1 rm : Nat)
  | fofint (dbl : Bool) (k rd rs1 rm : Nat)
  | fcvt (toDbl : Bool) (rd rs1 rm : Nat)
  | fmvx (dbl : Bool) (rd rs1 : Nat)
  | fmvf (dbl : Bool) (rd rs1 : Nat)
deriving DecidableEq, Repr

/-! ### Decoding -/

/-- The immediates of the 32-bit formats. -/
def immI (w : Nat) : Int := toSigned 12 (bits w 31 20)
/-- See `immI`. -/
def immS (w : Nat) : Int := toSigned 12 (bits w 31 25 * 32 + bits w 11 7)
/-- See `immI`. -/
def immB (w : Nat) : Int := toSigned 13 (bits w 31 31 * 4096 + bits w 7 7 * 2048 + bits w 30 25 * 32 + bits w 11 8 * 2)
/-- See `immI`. -/
def immU (w : Nat) : Int := toSigned 32 (bits w 31 12 * 4096)
/-- See `immI`. -/
def immJ (w : Nat) : Int := toSigned 21 (bits w 31 31 * 2 ^ 20 + bits w 19 12 * 4096 + bits w 20 20 * 2048 + bits w 30 21 * 2)

/-- The operation of OP and OP-32 from funct7 and funct3. -/
def aluOf (f7 f3 : Nat) : Option Alu :=
  if f7 = 0 then ([.add, .sll, .slt, .sltu, .xor, .srl, .or, .and] : List Alu)[f3]?
  else if f7 = 32 then (if f3 = 0 then some .sub else if f3 = 5 then some .sra else none)
  else if f7 = 1 then ([.mul, .mulh, .mulhsu, .mulhu, .div, .divu, .rem, .remu] : List Alu)[f3]?
  else none

/-- Has the operation a W form? -/
def Alu.hasW (op : Alu) : Bool := ([.add, .sub, .sll, .srl, .sra, .mul, .div, .divu, .rem, .remu] : List Alu).contains op

/-- OP-IMM and OP-IMM-32. -/
def decodeImm (w : Nat) (w32 : Bool) : Option Rv :=
  let rd := bits w 11 7
  let rs1 := bits w 19 15
  let f3 := bits w 14 12
  -- the bits above the shift amount
  let high := if w32 then bits w 31 25 else bits w 31 26 * 2
  let sh : Int := ((if w32 then bits w 24 20 else bits w 25 20 : Nat) : Int)
  if f3 = 1 then (if high = 0 then some (.alu .sll w32 rd rs1 (.imm sh)) else none)
  else if f3 = 5 then
    (if high = 0 then some (.alu .srl w32 rd rs1 (.imm sh)) else if high = 32 then some (.alu .sra w32 rd rs1 (.imm sh)) else none)
  else if w32 ∧ f3 ≠ 0 then none
  else (aluOf 0 f3).map fun op => .alu op w32 rd rs1 (.imm (immI w))

/-- The atomic operation of funct5. -/
def amoOf (f5 : Nat) : Option AmoOp :=
  if f5 = 0 then some .add else if f5 = 1 then some .swap else if f5 = 4 then some .xor else if f5 = 8 then some .or
  else if f5 = 0xc then some .and else if f5 = 0x10 then some .min else if f5 = 0x14 then some .max
  else if f5 = 0x18 then some .minu else if f5 = 0x1c then some .maxu else none

/-- OP-FP; `f` is funct7 without its format bit. -/
def decodeFp (w : Nat) : Option Rv :=
  let f := bits w 31 27
  let dbl := bits w 26 25 == 1
  let rd := bits w 11 7
  let rs1 := bits w 19 15
  let rs2 := bits w 24 20
  let f3 := bits w 14 12
  if 2 ≤ bits w 26 25 then none
  else if f = 0 then some (.farith .add dbl rd rs1 rs2 f3)
  else if f = 1 then some (.farith .sub dbl rd rs1 rs2 f3)
  else if f = 2 then some (.farith .mul dbl rd rs1 rs2 f3)
  else if f = 3 then some (.farith .div dbl rd rs1 rs2 f3)
  else if f = 0xb ∧ rs2 = 0 then some (.farith .sqrt dbl rd rs1 0 f3)
  else if f = 4 ∧ f3 ≤ 2 then some (.fsgnj dbl f3 rd rs1 rs2)
  else if f = 5 ∧ f3 ≤ 1 then some (.fminmax dbl (f3 == 1) rd rs1 rs2)
  else if f = 8 ∧ ((dbl = false ∧ rs2 = 1) ∨ (dbl = true ∧ rs2 = 0)) then some (.fcvt dbl rd rs1 f3)
  else if f = 0x14 ∧ f3 ≤ 2 then some (.fcmp dbl f3 rd rs1 rs2)
  else if f = 0x18 ∧ rs2 ≤ 3 then some (.ftoint dbl rs2 rd rs1 f3)
  else if f = 0x1a ∧ rs2 ≤ 3 then some (.fofint dbl rs2 rd rs1 f3)
  else if f = 0x1c ∧ rs2 = 0 ∧ f3 = 0 then some (.fmvx dbl rd rs1)
  else if f = 0x1c ∧ rs2 = 0 ∧ f3 = 1 then some (.fclass dbl rd rs1)
  else if f = 0x1e ∧ rs2 = 0 ∧ f3 = 0 then some (.fmvf dbl rd rs1)
  else none

/-- SYSTEM. -/
def decodeSystem (w : Nat) : Option Rv :=
  if w = 0x00000073 then some .ecall
  else if w = 0x00100073 then some .ebreak
  else if w = 0x30200073 then some .mret
  else if w = 0x10500073 then some .wfi
  else if bits w 14 12 % 4 = 0 then none
  else some (.csr (bits w 14 12) (bits w 11 7) (bits w 19 15) (bits w 31 20))

/-- A 32-bit instruction. -/
def decode32 (w : Nat) : Option Rv :=
  let rd := bits w 11 7
  let rs1 := bits w 19 15
  let rs2 := bits w 24 20
  let f3 := bits w 14 12
  match bits w 6 0 with
  | 0x37 => some (.lui rd (immU w))
  | 0x17 => some (.auipc rd (immU w))
  | 0x6f => some (.jal rd (immJ w))
  | 0x67 => if f3 = 0 then some (.jalr rd rs1 (immI w)) else none
  | 0x63 => if f3 = 2 ∨ f3 = 3 then none else some (.branch f3 rs1 rs2 (immB w))
  | 0x03 => if f3 = 7 then none else some (.load rd rs1 (immI w) (2 ^ (f3 % 4)) (decide (f3 < 4)))
  | 0x23 => if 3 < f3 then none else some (.store rs1 rs2 (immS w) (2 ^ f3))
  | 0x13 => decodeImm w false
  | 0x1b => decodeImm w true
  | 0x33 => (aluOf (bits w 31 25) f3).map fun op => .alu op false rd rs1 (.reg rs2)
  | 0x3b => ((aluOf (bits w 31 25) f3).filter Alu.hasW).map fun op => .alu op true rd rs1 (.reg rs2)
  | 0x0f => if f3 ≤ 1 then some .fence else none
  | 0x73 => decodeSystem w
  | 0x2f =>
    let dbl := f3 == 3
    if f3 ≠ 2 ∧ f3 ≠ 3 then none
    else if bits w 31 27 = 2 then (if rs2 = 0 then some (.lr dbl rd rs1) else none)
    else if bits w 31 27 = 3 then some (.sc dbl rd rs1 rs2)
    else (amoOf (bits w 31 27)).map fun op => .amo op dbl rd rs1 rs2
  | 0x07 => if f3 = 2 ∨ f3 = 3 then some (.fload (f3 == 3) rd rs1 (immI w)) else none
  | 0x27 => if f3 = 2 ∨ f3 = 3 then some (.fstore (f3 == 3) rs1 rs2 (immS w)) else none
  | 0x43 => if 2 ≤ bits w 26 25 then none else some (.ffma false false (bits w 25 25 == 1) rd rs1 rs2 (bits w 31 27) f3)
  | 0x47 => if 2 ≤ bits w 26 25 then none else some (.ffma false true (bits w 25 25 == 1) rd rs1 rs2 (bits w 31 27) f3)
  | 0x4b => if 2 ≤ bits w 26 25 then none else some (.ffma true false (bits w 25 25 == 1) rd rs1 rs2 (bits w 31 27) f3)
  | 0x4f => if 2 ≤ bits w 26 25 then none else some (.ffma true true (bits w 25 25 == 1) rd rs1 rs2 (bits w 31 27) f3)
  | 0x53 => decodeFp w
  | _ => none

/-- Quadrant 0 of the compressed instructions: registers x8 to x15 and the stack pointer. -/
def decodeC0 (h : Nat) : Option Rv :=
  let rd := 8 + bits h 4 2
  let rs := 8 + bits h 9 7
  let off4 : Int := ((bits h 5 5 * 64 + bits h 12 10 * 8 + bits h 6 6 * 4 : Nat) : Int)
  let off8 : Int := ((bits h 6 5 * 64 + bits h 12 10 * 8 : Nat) : Int)
  match bits h 15 13 with
  | 0 =>
    let n := bits h 10 7 * 64 + bits h 12 11 * 16 + bits h 5 5 * 8 + bits h 6 6 * 4
    if n = 0 then none else some (.alu .add false rd 2 (.imm n))
  | 1 => some (.fload true rd rs off8)
  | 2 => some (.load rd rs off4 4 true)
  | 3 => some (.load rd rs off8 8 true)
  | 5 => some (.fstore true rs rd off8)
  | 6 => some (.store rs rd off4 4)
  | 7 => some (.store rs rd off8 8)
  | _ => none

/-- Quadrant 1: immediates, arithmetic on x8 to x15, jumps and branches. -/
def decodeC1 (h : Nat) : Option Rv :=
  let rd := bits h 11 7
  let rs := 8 + bits h 9 7
  let imm := toSigned 6 (bits h 12 12 * 32 + bits h 6 2)
  let sh : Int := ((bits h 12 12 * 32 + bits h 6 2 : Nat) : Int)
  match bits h 15 13 with
  | 0 => some (.alu .add false rd rd (.imm imm))
  | 1 => if rd = 0 then none else some (.alu .add true rd rd (.imm imm))
  | 2 => some (.alu .add false rd 0 (.imm imm))
  | 3 =>
    if rd = 2 then
      let n := bits h 12 12 * 512 + bits h 4 3 * 128 + bits h 5 5 * 64 + bits h 2 2 * 32 + bits h 6 6 * 16
      if n = 0 then none else some (.alu .add false 2 2 (.imm (toSigned 10 n)))
    else if sh = 0 then none
    else some (.lui rd (imm * 4096))
  | 4 =>
    let op2 := fun (op : Alu) (w32 : Bool) => some (Rv.alu op w32 rs rs (.reg (8 + bits h 4 2)))
    match bits h 11 10 with
    | 0 => some (.alu .srl false rs rs (.imm sh))
    | 1 => some (.alu .sra false rs rs (.imm sh))
    | 2 => some (.alu .and false rs rs (.imm imm))
    | _ =>
      match bits h 12 12 * 4 + bits h 6 5 with
      | 0 => op2 .sub false
      | 1 => op2 .xor false
      | 2 => op2 .or false
      | 3 => op2 .and false
      | 4 => op2 .sub true
      | 5 => op2 .add true
      | _ => none
  | 5 => some (.jal 0 (toSigned 12 (bits h 12 12 * 2048 + bits h 11 11 * 16 + bits h 10 9 * 256 + bits h 8 8 * 1024 +
      bits h 7 7 * 64 + bits h 6 6 * 128 + bits h 5 3 * 2 + bits h 2 2 * 32)))
  | n => some (.branch (n - 6) rs 0 (toSigned 9 (bits h 12 12 * 256 + bits h 11 10 * 8 + bits h 6 5 * 64 + bits h 4 3 * 2 + bits h 2 2 * 32)))

/-- Quadrant 2: shifts, accesses by the stack pointer, jumps to a register. -/
def decodeC2 (h : Nat) : Option Rv :=
  let rd := bits h 11 7
  let rs2 := bits h 6 2
  let load4 : Int := ((bits h 3 2 * 64 + bits h 12 12 * 32 + bits h 6 4 * 4 : Nat) : Int)
  let load8 : Int := ((bits h 4 2 * 64 + bits h 12 12 * 32 + bits h 6 5 * 8 : Nat) : Int)
  let store4 : Int := ((bits h 8 7 * 64 + bits h 12 9 * 4 : Nat) : Int)
  let store8 : Int := ((bits h 9 7 * 64 + bits h 12 10 * 8 : Nat) : Int)
  match bits h 15 13 with
  | 0 => some (.alu .sll false rd rd (.imm ((bits h 12 12 * 32 + bits h 6 2 : Nat) : Int)))
  | 1 => some (.fload true rd 2 load8)
  | 2 => if rd = 0 then none else some (.load rd 2 load4 4 true)
  | 3 => if rd = 0 then none else some (.load rd 2 load8 8 true)
  | 4 =>
    if bits h 12 12 = 0 then
      (if rs2 ≠ 0 then some (.alu .add false rd 0 (.reg rs2)) else if rd = 0 then none else some (.jalr 0 rd 0))
    else if rs2 ≠ 0 then some (.alu .add false rd rd (.reg rs2))
    else if rd = 0 then some .ebreak
    else some (.jalr 1 rd 0)
  | 5 => some (.fstore true 2 rs2 store8)
  | 6 => some (.store 2 rs2 store4 4)
  | _ => some (.store 2 rs2 store8 8)

/-- A 16-bit instruction, as the one that it abbreviates. -/
def decode16 (h : Nat) : Option Rv :=
  match h % 4 with
  | 0 => decodeC0 h
  | 1 => decodeC1 h
  | 2 => decodeC2 h
  | _ => none

/-! ### Integer arithmetic -/

/-- An operation on `n`-bit values; a division by zero gives −1 or the dividend, and a quotient that overflows is the dividend. -/
def Alu.on (op : Alu) (n a b : Nat) : Nat :=
  let sa := toSigned n a
  let sb := toSigned n b
  let ua := a % 2 ^ n
  let ub := b % 2 ^ n
  let k := b % n
  match op with
  | .add => (ua + ub) % 2 ^ n
  | .sub => (ua + 2 ^ n - ub) % 2 ^ n
  | .sll => ua * 2 ^ k % 2 ^ n
  | .slt => if sa < sb then 1 else 0
  | .sltu => if ua < ub then 1 else 0
  | .xor => ua ^^^ ub
  | .srl => ua / 2 ^ k
  | .sra => ofSigned n (sa / (2 ^ k : Nat))
  | .or => ua ||| ub
  | .and => ua &&& ub
  | .mul => ua * ub % 2 ^ n
  | .mulh => ofSigned n (sa * sb / (2 ^ n : Nat))
  | .mulhsu => ofSigned n (sa * (ub : Int) / (2 ^ n : Nat))
  | .mulhu => ua * ub / 2 ^ n
  | .div => if ub = 0 then 2 ^ n - 1 else ofSigned n (sa.tdiv sb)
  | .divu => if ub = 0 then 2 ^ n - 1 else ua / ub
  | .rem => if ub = 0 then ua else ofSigned n (sa.tmod sb)
  | .remu => if ub = 0 then ua else ua % ub

/-- An operation, of which a W form works on the low 32 bits and sign-extends. -/
def Alu.apply (op : Alu) (w32 : Bool) (a b : Nat) : Nat :=
  if w32 then ofSigned 64 (toSigned 32 (op.on 32 a b)) else op.on 64 a b

/-- Is a branch taken? -/
def taken (f3 a b : Nat) : Bool :=
  match f3 with
  | 0 => a == b
  | 1 => a != b
  | 4 => decide (toSigned 64 a < toSigned 64 b)
  | 5 => decide (toSigned 64 b ≤ toSigned 64 a)
  | 6 => decide (a < b)
  | _ => decide (b ≤ a)

/-! ### Floating-point registers -/

/-- The format of a form. -/
def floatFmt (dbl : Bool) : FloatFmt := if dbl then .double else .single

/-- The value of an f register in a format; a single that is not NaN-boxed reads as the canonical NaN. -/
def unbox (dbl : Bool) (v : Nat) : Nat :=
  if dbl then v else if v / 2 ^ 32 = 2 ^ 32 - 1 then v % 2 ^ 32 else FloatFmt.single.nan

/-- A value as an f register holds it. -/
def box (dbl : Bool) (v : Nat) : Nat := if dbl then v else (2 ^ 32 - 1) * 2 ^ 32 + v % 2 ^ 32

/-- The rounding mode in force: the field rm, whose 7 names frm; the other codes are no mode. -/
def modeOf (rm frm : Nat) : Option Rm := Rm.of (if rm = 7 then frm else rm)

/-- The width and signedness of the integer of a conversion: W, WU, L and LU. -/
def intOf (k : Nat) : Nat × Bool := (if k < 2 then 32 else 64, k % 2 == 0)

end Rv

open Rv

/-! ### Carrying out (R100 to R102) -/

/-- Register x`n`. -/
def Disp.xr (x : Disp) (n : Nat) : Nat := (Tbl.get 0 x.x n).toNat
/-- Register f`n`. -/
def Disp.fr (x : Disp) (n : Nat) : Nat := (Tbl.get 0 x.f n).toNat

/-- Is the floating-point unit on: is FS not Off? -/
def Disp.fpOn (x : Disp) : Bool := bits x.mstatus.toNat 14 13 != 0

/-- Floating-point state is written: FS becomes Dirty, and the flags accrue. -/
def Disp.fpUsed (x : Disp) (flags : Nat) : Disp :=
  { x with fcsr := x.fcsr ||| BitVec.ofNat 32 flags, mstatus := x.mstatus ||| 0x6000 }

/-- A result goes to f`rd`. -/
def Disp.putF (x : Disp) (rd : Nat) (dbl : Bool) (v : Nat × Nat) : Disp :=
  { x.fpUsed v.2 with f := Tbl.set 0 x.f rd (BitVec.ofNat 64 (box dbl v.1)) }

/-- A jump. -/
def Disp.jump (x : Disp) (rd target : Nat) : Disp :=
  { x.retire rd (x.pc + x.len) with pc := BitVec.ofNat 64 (target / 2 * 2) }

/-- The address of an operand: a register and an offset. -/
def Disp.addr (x : Disp) (rs1 : Nat) (off : Int) : Nat := ofSigned 64 ((x.xr rs1 : Int) + off)

/-- The exception of an instruction that does not exist, and of a floating-point one with the unit off or without a rounding mode. -/
def State.hartIllegal (s : State) (d : Nat) : State := s.hartTrap d Cause.illegal 0 Code.invalidOperand

/-- A load to an f register: what the integer load brings goes there, and x registers stay. -/
def State.hartFload (s : State) (d rd a : Nat) (dbl : Bool) : State :=
  let w := if dbl then 8 else 4
  let keep := (s.disp d).x
  let t := s.hartLoad d 1 a w false
  if (t.disp d).retired = (s.disp d).retired then t
  else t.upDisp d fun x => { x.putF rd dbl ((Tbl.get 0 x.x 1).toNat, 0) with x := keep }

/-- Operations on floating-point registers with the unit on, on the hart alone; none is an illegal instruction. -/
def Disp.fpExec (x : Disp) (i : Rv) : Option Disp :=
  let frm := x.fcsr.toNat / 32 % 8
  let val := fun (dbl : Bool) (n : Nat) => unbox dbl (x.fr n)
  let num := fun (dbl : Bool) (n : Nat) => (floatFmt dbl).unpack (val dbl n)
  match i with
  | .farith op dbl rd rs1 rs2 rm => (modeOf rm frm).map fun m =>
    let f := floatFmt dbl
    let a := num dbl rs1
    let b := num dbl rs2
    let r := match op with
      | .add => f.add m a b
      | .sub => f.add m a b.flip
      | .mul => f.mul m a b
      | .div => f.div m a b
      | .sqrt => f.sqrt m a
    (x.putF rd dbl r).retire 0 0
  | .ffma np na dbl rd rs1 rs2 rs3 rm => (modeOf rm frm).map fun m =>
    let a := num dbl rs1
    let c := num dbl rs3
    -- a negated product, and an addend with its own sign turned
    (x.putF rd dbl ((floatFmt dbl).fma m (if np then a.flip else a) (num dbl rs2) (if na then c.flip else c))).retire 0 0
  | .fsgnj dbl k rd rs1 rs2 => some ((x.putF rd dbl ((floatFmt dbl).signOf k (val dbl rs1) (val dbl rs2), 0)).retire 0 0)
  | .fminmax dbl max rd rs1 rs2 => some ((x.putF rd dbl ((floatFmt dbl).minMax max (val dbl rs1) (val dbl rs2))).retire 0 0)
  | .fcmp dbl k rd rs1 rs2 =>
    let r := compare k (num dbl rs1) (num dbl rs2)
    some ((x.fpUsed r.2).retire rd (BitVec.ofNat 64 r.1))
  | .fclass dbl rd rs1 => some (x.retire rd (BitVec.ofNat 64 ((floatFmt dbl).classify (val dbl rs1))))
  | .ftoint dbl k rd rs1 rm => (modeOf rm frm).map fun m =>
    let r := toInteger m (intOf k).1 (intOf k).2 (num dbl rs1)
    (x.fpUsed r.2).retire rd (BitVec.ofNat 64 (ofSigned 64 (toSigned (intOf k).1 (ofSigned (intOf k).1 r.1))))
  | .fofint dbl k rd rs1 rm => (modeOf rm frm).map fun m =>
    let v : Int := if (intOf k).2 then toSigned (intOf k).1 (x.xr rs1) else ((x.xr rs1 % 2 ^ (intOf k).1 : Nat) : Int)
    (x.putF rd dbl ((floatFmt dbl).ofInteger m v)).retire 0 0
  | .fcvt toDbl rd rs1 rm => (modeOf rm frm).map fun m => (x.putF rd toDbl ((floatFmt toDbl).ofNum m (num (!toDbl) rs1))).retire 0 0
  | .fmvx dbl rd rs1 => some (x.retire rd (BitVec.ofNat 64 (if dbl then x.fr rs1 else loadWord 4 (x.fr rs1 % 2 ^ 32))))
  | .fmvf dbl rd rs1 => some ((x.putF rd dbl (x.xr rs1, 0)).retire 0 0)
  | _ => none

/-- An instruction of hart Dd. FENCE, FENCE.I and WFI only go on: the hart's accesses are in order, and a wait may end at once. -/
def State.rvExec (s : State) (d : Nat) (i : Rv) : State :=
  let x := s.disp d
  let put := fun (rd v : Nat) => s.retire d rd v
  match i with
  | .lui rd v => put rd (ofSigned 64 v)
  | .auipc rd v => put rd (ofSigned 64 ((x.pc.toNat : Int) + v))
  | .jal rd off => s.upDisp d fun x => x.jump rd (ofSigned 64 ((x.pc.toNat : Int) + off))
  | .jalr rd rs1 off => s.upDisp d fun x => x.jump rd (x.addr rs1 off)
  | .branch f3 rs1 rs2 off =>
    if taken f3 (x.xr rs1) (x.xr rs2) then s.upDisp d fun x => x.jump 0 (ofSigned 64 ((x.pc.toNat : Int) + off)) else put 0 0
  | .load rd rs1 off w sign => s.hartLoad d rd (x.addr rs1 off) w sign
  | .store rs1 rs2 off w => s.hartStore d (x.addr rs1 off) w (x.xr rs2)
  | .alu op w32 rd rs1 b => put rd (op.apply w32 (x.xr rs1) (match b with
    | .reg n => x.xr n
    | .imm v => ofSigned 64 v))
  | .fence => put 0 0
  | .wfi => put 0 0
  | .ecall => s.hartEcall d (Tbl.get 0 x.x 17) (Tbl.get 0 x.x 10)
  | .ebreak => s.hartTrap d Cause.breakpoint 0 Code.invalidOperand
  | .mret => if x.umode then s.hartIllegal d else s.upDisp d Disp.mret
  | .csr f3 rd rs1 c =>
    let v : W64 := if f3 < 4 then Tbl.get 0 x.x rs1 else BitVec.ofNat 64 rs1
    let arg := if rs1 = 0 then none else some v
    s.hartCsr d rd c (if f3 % 4 = 1 then .write v else if f3 % 4 = 2 then .set arg else .clear arg)
  | .lr dbl rd rs1 => hartLr d rd (if dbl then 8 else 4) (x.xr rs1) s
  | .sc dbl rd rs1 rs2 => hartSc d rd (if dbl then 8 else 4) (x.xr rs1) (x.xr rs2) s
  | .amo op dbl rd rs1 rs2 => slmAmo d rd op (if dbl then 8 else 4) (x.xr rs1) (x.xr rs2) s
  | .fload dbl rd rs1 off => if x.fpOn then s.hartFload d rd (x.addr rs1 off) dbl else s.hartIllegal d
  | .fstore dbl rs1 rs2 off =>
    if x.fpOn then s.hartStore d (x.addr rs1 off) (if dbl then 8 else 4) (x.fr rs2) else s.hartIllegal d
  | i => match (some x).filter Disp.fpOn |>.bind (·.fpExec i) with
    | some y => s.upDisp d fun _ => y
    | none => s.hartIllegal d

/-- The bytes of an instruction parcel at a hart address. -/
def State.hartParcel (s : State) (d a : Nat) : Nat :=
  match s.hartMap (s.dispPos d).1 a 2 with
  | .dlm o => (s.disp d).dlm.rdLe o 2
  | .slm o => (s.pt (s.dispPos d).1).live.slm.rdLe o 2
  | .nothing => 0

/-- The hart fetches the instruction at its pc, one or two parcels of two bytes, and carries it out; a fetch that the map or the
protection stops is an access fault, and what decodes to nothing is an illegal instruction (R100, R102). -/
def State.hartRun (s : State) (d : Nat) : State :=
  let a := (s.disp d).pc.toNat
  let may := fun (a : Nat) => (s.hartWhere d a 2 .fetch).isSome
  let b := (a + 2) % 2 ^ 64
  let h := s.hartParcel d a
  let fault := fun (a : Nat) => s.hartTrap d Cause.fetchAccess a Code.invalidOperand
  if may a = false then fault a
  else if h % 4 ≠ 3 then
    match decode16 h with
    | some i => ((s.upDisp d fun x => { x with len := 2 }).rvExec d i).upDisp d fun x => { x with len := 4 }
    | none => s.hartIllegal d
  else if may b = false then fault b
  else match decode32 (s.hartParcel d b * 65536 + h) with
    | some i => s.rvExec d i
    | none => s.hartIllegal d

/-! ### ACCESS_FAULT (R102, R109) -/

/-- ACCESS_FAULT: an access of control code is made; where R101, R102, R105, R109 or R283 stops it, it takes its exception and ends the
part with the status that the firmware reports. DESIGN CHOICE, log entry 146. -/
def hartAccess (d : Nat) (a : HartAccess) (s : State) : State :=
  match a with
  | .fetch a => s.hartFetch d a
  | .load rd a w sign => s.hartLoad d rd a w sign
  | .store a w v => s.hartStore d a w v.toNat
  | .csr rd c op => s.hartCsr d rd c op
  | .run => s.hartRun d

/-- R102. -/
def execAccessFault (d : Nat) (a : HartAccess) (s : State) : Res := s.onHart d fun s => hartAccess d a s

end Sys2Proof.Machine
end

