-- ==== Sys2Proof/Machine/Sfu.lean ====
section
/-! DEFINITION. The special-function rows, RMS normalisation, pooling and the codebook tables (R206 to R220). -/

namespace Sys2Proof.Machine

/-! ### Special functions (R207 to R211) -/

/-- An SFU row (R207). -/
def sfuSpec (f : SfuFn) (p lc : Nat) (_s : State) (w : TDesc) : TileSpec :=
  let x : Use := { slot := 0, fmts := fmtVector, rows := w.dim 0, cols := w.dim 1, vr := w.val 0, vc := w.val 1 }
  { uses := [x, { x with slot := 1, rd := false, wr := true }]
    zeroDims := [2]
    limits := w.vecLimits
    run := fun _ _ _ s => plain (onOpnd (w.opnd lc 0) s fun a => onOpnd (w.opnd lc 1) s fun d =>
      s.writeRows p lc w d ((List.range (w.val 0)).map fun r => (a.row (s.pt p).live r (w.val 1)).map f.eval)) }

/-- An SFU row, by its FUNC. -/
def State.sfuRow (s : State) (f : SfuFn) (p lc : Nat) : State := s.tileRow p lc (.sfu f) 0 (sfuSpec f p lc)

/-- EXP (R208). -/
def execExp (p lc : Nat) (s : State) : Res := s.live fun s => s.sfuRow .exp p lc

/-- EXP2 (R208). -/
def execExp2 (p lc : Nat) (s : State) : Res := s.live fun s => s.sfuRow .exp2 p lc

/-- LN (R208). -/
def execLn (p lc : Nat) (s : State) : Res := s.live fun s => s.sfuRow .ln p lc

/-- LOG2 (R208). -/
def execLog2 (p lc : Nat) (s : State) : Res := s.live fun s => s.sfuRow .log2 p lc

/-- SIGMOID (R208). -/
def execSigmoid (p lc : Nat) (s : State) : Res := s.live fun s => s.sfuRow .sigmoid p lc

/-- TANH (R208). -/
def execTanh (p lc : Nat) (s : State) : Res := s.live fun s => s.sfuRow .tanh p lc

/-- ERF (R208). -/
def execErf (p lc : Nat) (s : State) : Res := s.live fun s => s.sfuRow .erf p lc

/-- SOFTPLUS (R208). -/
def execSoftplus (p lc : Nat) (s : State) : Res := s.live fun s => s.sfuRow .softplus p lc

/-- SQRT (R208). -/
def execSqrt (p lc : Nat) (s : State) : Res := s.live fun s => s.sfuRow .sqrt p lc

/-- RSQRT (R208). -/
def execRsqrt (p lc : Nat) (s : State) : Res := s.live fun s => s.sfuRow .rsqrt p lc

/-- RECIP (R208). -/
def execRecip (p lc : Nat) (s : State) : Res := s.live fun s => s.sfuRow .recip p lc

/-- SILU (R208). -/
def execSilu (p lc : Nat) (s : State) : Res := s.live fun s => s.sfuRow .silu p lc

/-- GELU (R208). -/
def execGelu (p lc : Nat) (s : State) : Res := s.live fun s => s.sfuRow .gelu p lc

/-- SIN (R208). -/
def execSin (p lc : Nat) (s : State) : Res := s.live fun s => s.sfuRow .sin p lc

/-- COS (R208). -/
def execCos (p lc : Nat) (s : State) : Res := s.live fun s => s.sfuRow .cos p lc

/-! ### RMS normalisation (R212 to R215) -/

/-- Limits of the three RMS opcodes (R129). -/
def TDesc.rmsLimits (w : TDesc) : Bool :=
  decide (1 ≤ w.dim 1) && decide (w.dim 1 ≤ 16384) && decide (w.dim 0 * w.dim 1 ≤ 32768)

/-- The normalisation block: where slot 3 names it, and its EPS and LEN (R212). -/
def State.rmsBlock (s : State) (p lc : Nat) (w : TDesc) : Option Nat × Nat × Nat :=
  match w.block lc with
  | some a => (some a, (s.core p lc).mem.rdLe a 4, (s.core p lc).mem.rdLe (a + 4) 4)
  | none => (none, 0, 0)

/-- Are the block's reserved bytes zero (R212)? LEN of an RMSNORM is one of them. Only a block in the core's own memory has bytes; a slot 3
that names another place is refused at step 2. DESIGN CHOICE, log entry 178. -/
def State.rmsBlockOk (s : State) (p lc : Nat) (w : TDesc) (apply : Bool) : Bool :=
  match w.block lc with
  | some a => ((s.core p lc).mem.rdN (a + 8) 56).all (· == 0) && (apply || (s.rmsBlock p lc w).2.2 == 0)
  | none => true

/-- Is EPS finite and not negative (R212)? −0 counts as zero. -/
def epsOk (e : Nat) : Bool := (ofW32 e).finite && !((ofW32 e).sign && !(ofW32 e).isZero)

/-- The sum of squares of a row in the extended range (R213). Each lane adds a square with one rounding (DEDUCED, log entry 33). -/
def sumSq (vs : List Fv) : Fv := laneSum binExt (fun a x => binExt.round (a.addX (x.mulX x))) vs

/-- The normalised row from its mean square on (R213). -/
def rmsScale (vs gs : List Fv) (ss : Fv) (n : Nat) (eps : Fv) : List Fv :=
  let ms := binExt.round ((binExt.round (ss.divX (.ofNat n))).addX eps)
  let q := if ms.isZero then Fv.zero else rsqrtExt ms
  (vs.zip gs).map fun x => fmul (fmul x.1 q) x.2

/-- The gain row of slot 2: ones where the slot is unused (R213). -/
def rmsGain (j : JobData) (w : TDesc) (lc : Nat) : List Fv :=
  match w.opnd lc 2 with
  | some g => g.row j 0 (w.val 1)
  | none => List.replicate (w.val 1) Fv.one

/-- RMSNORM and RMS_APPLY: `sums` gives a row's sum of squares and count from the block, none for RMSNORM (R213, R215). -/
def rmsRun (apply : Bool) (p lc : Nat) (w : TDesc) (s : State) : State × Nat :=
  let j := (s.pt p).live
  let b := s.rmsBlock p lc w
  let eps := ofW32 b.2.1
  onOpnd (w.opnd lc 0) s fun a => onOpnd (w.opnd lc 1) s fun d =>
    s.writeRows p lc w d ((List.range (w.val 0)).map fun r =>
      let x := a.row j r (w.val 1)
      let ss := if apply then ofW32 ((j.core lc).mem.rdLe (b.1.getD 0 + 64 + 4 * r) 4) else sumSq x
      let n := if apply then b.2.2 else w.val 1
      if ss.finite = false ∨ (apply = false ∧ x.any fun v => !v.finite) then x.map fun _ => Fv.nan
      else rmsScale x (rmsGain j w lc) ss n eps)

/-- RMSNORM and RMS_APPLY (R212, R213, R215). -/
def rmsSpec (apply : Bool) (p lc : Nat) (s : State) (w : TDesc) : TileSpec :=
  let b := s.rmsBlock p lc w
  let bad := s.blockBad p lc w 64
  let x : Use := { slot := 0, fmts := fmtVector, rows := w.dim 0, cols := w.dim 1, vr := w.val 0, vc := w.val 1 }
  let len := if apply then 64 + 4 * w.val 0 else 64
  { uses := [x, { x with slot := 1, rd := false, wr := true },
             { x with slot := 2, fmts := [0x01, 0x02], rows := 1, vr := Nat.min 1 (w.val 0), optional := true },
             { slot := 3, fmts := fmtBytes, rows := 1, cols := len, vr := 1, vc := len, optional := !apply }]
    zeroDims := [2]
    header := bad || s.rmsBlockOk p lc w apply
    operands := (bad || b.1.isNone || (epsOk b.2.1 && !(apply && b.2.2 == 0))) &&
      (match w.opnd lc 3 with | some o => o.stride == 0 | none => true)
    limits := w.rmsLimits
    run := fun _ _ _ s => plain (rmsRun apply p lc w s) }

/-- RMSNORM (R213). -/
def execRmsnorm (p lc : Nat) (s : State) : Res := s.live fun s => s.tileRow p lc .rmsnorm 0 (rmsSpec false p lc)

/-- RMS_APPLY (R215). -/
def execRmsApply (p lc : Nat) (s : State) : Res := s.live fun s => s.tileRow p lc .rmsApply 0 (rmsSpec true p lc)

/-- RMS_SUMSQ: each row's sum of squares is added to S (R214). -/
def sumsqSpec (p lc : Nat) (_s : State) (w : TDesc) : TileSpec :=
  let init := w.func % 2 == 1
  { uses := [{ slot := 0, fmts := fmtVector, rows := w.dim 0, cols := w.dim 1, vr := w.val 0, vc := w.val 1 },
             { slot := 1, fmts := fmtF32, rd := !init, wr := true, rows := 1, cols := w.dim 0, vr := Nat.min 1 (w.val 0),
               vc := w.val 0 }]
    zeroDims := [2]
    limits := w.rmsLimits
    run := fun _ _ _ s => plain (onOpnd (w.opnd lc 0) s fun a => onOpnd (w.opnd lc 1) s fun d =>
      let j := (s.pt p).live
      let old := if init then List.replicate (w.val 0) Fv.zero else d.row j 0 (w.val 0)
      s.writeAcc p lc w d [(old.zip (List.range (w.val 0))).map fun x => fadd x.1 (sumSq (a.row j x.2 (w.val 1)))]) }

/-- RMS_SUMSQ (R214). -/
def execRmsSumsq (p lc : Nat) (s : State) : Res := s.live fun s => s.tileRow p lc .rmsSumsq 0 (sumsqSpec p lc)

/-! ### Global average pooling (R206) -/

/-- One channel of a pool (R206). -/
def poolChannel (mean : Bool) (n : Nat) (old : Fv) (xs : List Fv) : Fv :=
  let t := xs.foldl fadd old
  if mean then (if n = 0 then Fv.zero else fdiv t (.ofNat n)) else t

/-- POOL_GAVG (R206). -/
def poolSpec (p lc : Nat) (_s : State) (w : TDesc) : TileSpec :=
  let accum := w.func % 2 == 1
  let mean := w.func / 2 % 2 == 1
  { uses := [{ slot := 0, fmts := fmtVector, rows := w.dim 0, cols := w.dim 1, vr := w.val 0, vc := w.val 1 },
             { slot := 1, fmts := fmtF32, rd := accum, wr := true, rows := 1, cols := w.dim 1, vr := 1, vc := w.val 1 }]
    zeroDims := [2]
    limits := decide (w.dim 0 * w.dim 1 ≤ 32768)
    run := fun _ _ _ s => plain (onOpnd (w.opnd lc 0) s fun a => onOpnd (w.opnd lc 1) s fun d =>
      let j := (s.pt p).live
      let old := if accum then d.row j 0 (w.val 1) else List.replicate (w.val 1) Fv.zero
      let rows := (List.range (w.val 0)).map fun r => a.row j r (w.val 1)
      s.writeAcc p lc w d [(old.zip (List.range (w.val 1))).map fun x =>
        poolChannel mean (w.val 0) x.1 (rows.map fun r => r.getD x.2 .zero)]) }

/-- POOL_GAVG (R206). ACCUM with MEAN names no instruction. -/
def execPoolGavg (p lc : Nat) (s : State) : Res := s.live fun s => s.tileRow p lc .poolGavg 0 (poolSpec p lc)

/-! ### Codebook tables (R216 to R220) -/

/-- Key of entry `i` of the table of `n` entries of a bank. -/
def tableKey (bank n i : Nat) : Nat := bank * 1024 + (if n = 16 then 0 else 512) + i

/-- TABLE_LOAD: the whole table of the named bank takes the source's valid values, then +0; the active bank is held
(R217), once the source is found to be within core memory (R136). DEDUCED, log entry 177. -/
def tableLoadSpec (p lc : Nat) (s : State) (w : TDesc) : TileSpec :=
  let held := (s.core p lc).bank == w.func % 2
  { uses := [{ slot := 0, fmts := [0x02], rows := 1, cols := w.dim 1, vr := if held then 0 else 1, vc := w.val 1 }]
    zeroDims := [0, 2]
    operands := match w.opnd lc 0 with
      | some a => s.inSpace p a.space (a.ranges 1 (w.val 1))
      | none => true
    limits := w.dim 1 == 16 || w.dim 1 == 256
    run := fun _ _ _ s => plain (
      if held then (s, Code.resourceHeld)
      else onOpnd (w.opnd lc 0) s fun a =>
        let row := a.row (s.pt p).live 0 (w.val 1)
        (s.upCore p lc fun c => { c with tbl := (List.range (w.dim 1)).foldl (fun t i =>
          Tbl.set 0 t (tableKey (w.func % 2) (w.dim 1) i) (BitVec.ofNat 32 (row.getD i .zero).toW32)) c.tbl }, Code.done)) }

/-- TABLE_LOAD (R217). -/
def execTableLoad (p lc : Nat) (s : State) : Res := s.live fun s => s.tileRow p lc .tableLoad 0 (tableLoadSpec p lc)

/-- TABLE_SWAP: ACTIVE takes its value at completion (R218). -/
def tableSwapSpec (_p _lc : Nat) (_s : State) (_w : TDesc) : TileSpec :=
  { zeroDims := [0, 1, 2]
    run := fun _ _ _ s => (s, Code.done, none) }

/-- TABLE_SWAP (R218). -/
def execTableSwap (p lc : Nat) (s : State) : Res := s.live fun s => s.tileRow p lc .tableSwap 0 (tableSwapSpec p lc)

/-- TABLE_LOOKUP (R219). -/
def tableLookupSpec (p lc : Nat) (_s : State) (w : TDesc) : TileSpec :=
  let x : Use := { slot := 0, fmts := [0x0F, 0x10], rows := w.dim 0, cols := w.dim 1, vr := w.val 0, vc := w.val 1 }
  { uses := [x, { x with slot := 1, fmts := fmtVector, rd := false, wr := true },
             { slot := 2, fmts := fmtF32, rows := 1, cols := w.dim 0, vr := Nat.min 1 (w.val 0), vc := w.val 0, optional := true }]
    zeroDims := [2]
    limits := w.vecLimits
    run := fun _ _ _ s => plain (onOpnd (w.opnd lc 0) s fun a => onOpnd (w.opnd lc 1) s fun d =>
      let j := (s.pt p).live
      let c := j.core lc
      let n := if a.fmt.code = 0x0F then 16 else 256
      let sc := (w.opnd lc 2).map fun o => o.row j 0 (w.val 0)
      s.writeRows p lc w d ((List.range (w.val 0)).map fun r => (List.range (w.val 1)).map fun i =>
        let v := ofW32 (Tbl.get 0 c.tbl (tableKey c.bank n (a.codeAt j r i))).toNat
        match sc with
        | some l => fmul v (l.getD r .zero)
        | none => v)) }

/-- TABLE_LOOKUP (R219). -/
def execTableLookup (p lc : Nat) (s : State) : Res := s.live fun s => s.tileRow p lc .tableLookup 0 (tableLookupSpec p lc)

end Sys2Proof.Machine
end

