-- ==== Sys2Proof/Machine/Dispatch.lean ====
section
/-! DEFINITION. The meaning of each command: one arm per constructor, a direct call of its meaning. -/

namespace Sys2Proof.Machine

/-- The effect of command `i` on everything but the queue of waiting commands. -/
def exec (i : Instr) (s : State) : Host.Outcome State Fault Refusal :=
  match i with
  | .powerGood slot => Sys2Proof.Machine.execPowerGood slot s
  | .beatBoundary b => Sys2Proof.Machine.execBeatBoundary b s
  | .epochBoundary => Sys2Proof.Machine.execEpochBoundary s
  | .timeout n => Sys2Proof.Machine.execTimeout n s
  | .tileWatchdog p lc move => Sys2Proof.Machine.execTileWatchdog p lc move s
  | .mgtBeatRead => Sys2Proof.Machine.execMgtBeatRead s
  | .timeReq port seq t1 f2 f3 => Sys2Proof.Machine.execTimeReq port seq t1 f2 f3 s
  | .timeRsp port seq t1 t2 t3 f4 => Sys2Proof.Machine.execTimeRsp port seq t1 t2 t3 f4 s
  | .countAdoption count => Sys2Proof.Machine.execCountAdoption count s
  | .alignmentLost => Sys2Proof.Machine.execAlignmentLost s
  | .alignmentRegained => Sys2Proof.Machine.execAlignmentRegained s
  | .ppsEdge => Sys2Proof.Machine.execPpsEdge s
  | .ppsMissed => Sys2Proof.Machine.execPpsMissed s
  | .mgtPtnShapeWrite v => Sys2Proof.Machine.execMgtPtnShapeWrite v s
  | .shapeChange => Sys2Proof.Machine.execShapeChange s
  | .shapeChangeDone => Sys2Proof.Machine.execShapeChangeDone s
  | .matmul p lc ck => Sys2Proof.Machine.execMatmul p lc ck s
  | .convert p lc => Sys2Proof.Machine.execConvert p lc s
  | .vecAdd p lc => Sys2Proof.Machine.execVecAdd p lc s
  | .sub p lc => Sys2Proof.Machine.execSub p lc s
  | .mul p lc => Sys2Proof.Machine.execMul p lc s
  | .fma p lc => Sys2Proof.Machine.execFma p lc s
  | .max p lc => Sys2Proof.Machine.execMax p lc s
  | .min p lc => Sys2Proof.Machine.execMin p lc s
  | .addS p lc => Sys2Proof.Machine.execAddS p lc s
  | .mulS p lc => Sys2Proof.Machine.execMulS p lc s
  | .addRow p lc => Sys2Proof.Machine.execAddRow p lc s
  | .mulRow p lc => Sys2Proof.Machine.execMulRow p lc s
  | .rowSum p lc => Sys2Proof.Machine.execRowSum p lc s
  | .rowMax p lc => Sys2Proof.Machine.execRowMax p lc s
  | .iadd p lc => Sys2Proof.Machine.execIadd p lc s
  | .iand p lc => Sys2Proof.Machine.execIand p lc s
  | .ior p lc => Sys2Proof.Machine.execIor p lc s
  | .ixor p lc => Sys2Proof.Machine.execIxor p lc s
  | .imax p lc => Sys2Proof.Machine.execImax p lc s
  | .imin p lc => Sys2Proof.Machine.execImin p lc s
  | .exp p lc => Sys2Proof.Machine.execExp p lc s
  | .exp2 p lc => Sys2Proof.Machine.execExp2 p lc s
  | .ln p lc => Sys2Proof.Machine.execLn p lc s
  | .log2 p lc => Sys2Proof.Machine.execLog2 p lc s
  | .sigmoid p lc => Sys2Proof.Machine.execSigmoid p lc s
  | .tanh p lc => Sys2Proof.Machine.execTanh p lc s
  | .erf p lc => Sys2Proof.Machine.execErf p lc s
  | .softplus p lc => Sys2Proof.Machine.execSoftplus p lc s
  | .sqrt p lc => Sys2Proof.Machine.execSqrt p lc s
  | .rsqrt p lc => Sys2Proof.Machine.execRsqrt p lc s
  | .recip p lc => Sys2Proof.Machine.execRecip p lc s
  | .silu p lc => Sys2Proof.Machine.execSilu p lc s
  | .gelu p lc => Sys2Proof.Machine.execGelu p lc s
  | .sin p lc => Sys2Proof.Machine.execSin p lc s
  | .cos p lc => Sys2Proof.Machine.execCos p lc s
  | .rmsnorm p lc => Sys2Proof.Machine.execRmsnorm p lc s
  | .rmsSumsq p lc => Sys2Proof.Machine.execRmsSumsq p lc s
  | .rmsApply p lc => Sys2Proof.Machine.execRmsApply p lc s
  | .convDense p lc ck => Sys2Proof.Machine.execConvDense p lc ck s
  | .convDepthwise p lc => Sys2Proof.Machine.execConvDepthwise p lc s
  | .poolGavg p lc => Sys2Proof.Machine.execPoolGavg p lc s
  | .attnFwd p lc ck => Sys2Proof.Machine.execAttnFwd p lc ck s
  | .attnBwd p lc ck => Sys2Proof.Machine.execAttnBwd p lc ck s
  | .attnMerge p lc => Sys2Proof.Machine.execAttnMerge p lc s
  | .tableLoad p lc => Sys2Proof.Machine.execTableLoad p lc s
  | .tableSwap p lc => Sys2Proof.Machine.execTableSwap p lc s
  | .tableLookup p lc => Sys2Proof.Machine.execTableLookup p lc s
  | .move p lc => Sys2Proof.Machine.execMove p lc s
  | .commitWrite p lc => Sys2Proof.Machine.execCommitWrite p lc s
  | .commitAdd p lc => Sys2Proof.Machine.execCommitAdd p lc s
  | .tktFaa p lc => Sys2Proof.Machine.execTktFaa p lc s
  | .barrier p lc => Sys2Proof.Machine.execBarrier p lc s
  | .kvPrune p lc => Sys2Proof.Machine.execKvPrune p lc s
  | .tileComplete p lc move => Sys2Proof.Machine.execTileComplete p lc move s
  | .remapCopyDone p lc => Sys2Proof.Machine.execRemapCopyDone p lc s
  | .coreTqpush d rd v => Sys2Proof.Machine.execCoreTqpush d rd v s
  | .coreMboxPost d rd v => Sys2Proof.Machine.execCoreMboxPost d rd v s
  | .mailboxPost p lc a => Sys2Proof.Machine.execMailboxPost p lc a s
  | .coreMboxOvf d rd v => Sys2Proof.Machine.execCoreMboxOvf d rd v s
  | .coreCcwait d rd v => Sys2Proof.Machine.execCoreCcwait d rd v s
  | .coreBarrier d rd v => Sys2Proof.Machine.execCoreBarrier d rd v s
  | .barrierArrival p ctx => Sys2Proof.Machine.execBarrierArrival p ctx s
  | .coreTktFaa d rd v => Sys2Proof.Machine.execCoreTktFaa d rd v s
  | .ecall d a7 a0 => Sys2Proof.Machine.execEcall d a7 a0 s
  | .slmAmo d rd op dbl addr v => Sys2Proof.Machine.execSlmAmo d rd op dbl addr v s
  | .lr d rd dbl addr => Sys2Proof.Machine.execLr d rd dbl addr s
  | .sc d rd dbl addr v => Sys2Proof.Machine.execSc d rd dbl addr v s
  | .seqEditRequest p seq w => Sys2Proof.Machine.execSeqEditRequest p seq w s
  | .editValidated p seq => Sys2Proof.Machine.execEditValidated p seq s
  | .tierRequestTailWrite p tail => Sys2Proof.Machine.execTierRequestTailWrite p tail s
  | .prefetch p => Sys2Proof.Machine.execPrefetch p s
  | .cap p => Sys2Proof.Machine.execCap p s
  | .demote p => Sys2Proof.Machine.execDemote p s
  | .capTakesEffect p page => Sys2Proof.Machine.execCapTakesEffect p page s
  | .demandFetchDone p page => Sys2Proof.Machine.execDemandFetchDone p page s
  | .residencyStall p lc => Sys2Proof.Machine.execResidencyStall p lc s
  | .stepOpen p => Sys2Proof.Machine.execStepOpen p s
  | .reservation p => Sys2Proof.Machine.execReservation p s
  | .cutSaveDone p => Sys2Proof.Machine.execCutSaveDone p s
  | .cutDurable p => Sys2Proof.Machine.execCutDurable p s
  | .groupCut p => Sys2Proof.Machine.execGroupCut p s
  | .memCutTake p v => Sys2Proof.Machine.execMemCutTake p v s
  | .memPoolPtnWrite p v => Sys2Proof.Machine.execMemPoolPtnWrite p v s
  | .memSlmSplitWrite p v => Sys2Proof.Machine.execMemSlmSplitWrite p v s
  | .slmSplitDone p => Sys2Proof.Machine.execSlmSplitDone p s
  | .memorySideAdd p va dtype mask addends => Sys2Proof.Machine.execMemorySideAdd p va dtype mask addends s
  | .storeUnitRead p page unit r => Sys2Proof.Machine.execStoreUnitRead p page unit r s
  | .storeWriteAck p page => Sys2Proof.Machine.execStoreWriteAck p page s
  | .stripeClose => Sys2Proof.Machine.execStripeClose s
  | .packageLost n => Sys2Proof.Machine.execPackageLost n s
  | .rebuildDone => Sys2Proof.Machine.execRebuildDone s
  | .journalRecordAck => Sys2Proof.Machine.execJournalRecordAck s
  | .powerLoss aux => Sys2Proof.Machine.execPowerLoss aux s
  | .holdupTest energy => Sys2Proof.Machine.execHoldupTest energy s
  | .pcieLinkTrained speed width flit => Sys2Proof.Machine.execPcieLinkTrained speed width flit s
  | .hostWindowAccess p a => Sys2Proof.Machine.execHostWindowAccess p a s
  | .doeDiscovery idx => Sys2Proof.Machine.execDoeDiscovery idx s
  | .doeAbort => Sys2Proof.Machine.execDoeAbort s
  | .getVersion => Sys2Proof.Machine.execGetVersion s
  | .getCapabilities flags => Sys2Proof.Machine.execGetCapabilities flags s
  | .negotiateAlgorithms hash asym dhe aead => Sys2Proof.Machine.execNegotiateAlgorithms hash asym dhe aead s
  | .getDigests => Sys2Proof.Machine.execGetDigests s
  | .getCertificate slot off len => Sys2Proof.Machine.execGetCertificate slot off len s
  | .challenge slot nonce => Sys2Proof.Machine.execChallenge slot nonce s
  | .getMeasurements index sign nonce => Sys2Proof.Machine.execGetMeasurements index sign nonce s
  | .keyExchange reqSession share => Sys2Proof.Machine.execKeyExchange reqSession share s
  | .finish session macOk => Sys2Proof.Machine.execFinish session macOk s
  | .heartbeat session => Sys2Proof.Machine.execHeartbeat session s
  | .keyUpdate session op => Sys2Proof.Machine.execKeyUpdate session op s
  | .endSession session => Sys2Proof.Machine.execEndSession session s
  | .vendorDefinedRequest session registry payload => Sys2Proof.Machine.execVendorDefinedRequest session registry payload s
  | .query session port => Sys2Proof.Machine.execQuery session port s
  | .keyProg session stream sub keySet key iv => Sys2Proof.Machine.execKeyProg session stream sub keySet key iv s
  | .kSetGo session stream sub keySet => Sys2Proof.Machine.execKSetGo session stream sub keySet s
  | .kSetStop session stream sub keySet => Sys2Proof.Machine.execKSetStop session stream sub keySet s
  | .ideIntegrityFailure stream => Sys2Proof.Machine.execIdeIntegrityFailure stream s
  | .getTdispVersion session fn => Sys2Proof.Machine.execGetTdispVersion session fn s
  | .getTdispCapabilities session fn => Sys2Proof.Machine.execGetTdispCapabilities session fn s
  | .lockInterfaceRequest session fn stream nonce => Sys2Proof.Machine.execLockInterfaceRequest session fn stream nonce s
  | .getDeviceInterfaceReport session fn off len => Sys2Proof.Machine.execGetDeviceInterfaceReport session fn off len s
  | .getDeviceInterfaceState session fn => Sys2Proof.Machine.execGetDeviceInterfaceState session fn s
  | .startInterfaceRequest session fn nonce => Sys2Proof.Machine.execStartInterfaceRequest session fn nonce s
  | .stopInterfaceRequest session fn => Sys2Proof.Machine.execStopInterfaceRequest session fn s
  | .tdiProtectedWrite fn => Sys2Proof.Machine.execTdiProtectedWrite fn s
  | .conventionalReset pin => Sys2Proof.Machine.execConventionalReset pin s
  | .flrPf0 => Sys2Proof.Machine.execFlrPf0 s
  | .flrPartitionFunction p => Sys2Proof.Machine.execFlrPartitionFunction p s
  | .functionDiscard p => Sys2Proof.Machine.execFunctionDiscard p s
  | .mgtResetWrite v => Sys2Proof.Machine.execMgtResetWrite v s
  | .resetDone p => Sys2Proof.Machine.execResetDone p s
  | .ptnSqCfgWrite p n v => Sys2Proof.Machine.execPtnSqCfgWrite p n v s
  | .ptnCqCfgWrite p n v => Sys2Proof.Machine.execPtnCqCfgWrite p n v s
  | .doorbell p n tail width => Sys2Proof.Machine.execDoorbell p n tail width s
  | .headgateFetch p n slot => Sys2Proof.Machine.execHeadgateFetch p n slot s
  | .descriptorAccepted p n => Sys2Proof.Machine.execDescriptorAccepted p n s
  | .jobOpen p n prog wpkg progSig wpkgSig => Sys2Proof.Machine.execJobOpen p n prog wpkg progSig wpkgSig s
  | .step p n manifest => Sys2Proof.Machine.execStep p n manifest s
  | .egress p n => Sys2Proof.Machine.execEgress p n s
  | .ingress p n src => Sys2Proof.Machine.execIngress p n src s
  | .jobSuspend p n => Sys2Proof.Machine.execJobSuspend p n s
  | .suspensionEffect p => Sys2Proof.Machine.execSuspensionEffect p s
  | .suspendSaveDone p => Sys2Proof.Machine.execSuspendSaveDone p s
  | .jobResume p n => Sys2Proof.Machine.execJobResume p n s
  | .resumptionEffect p => Sys2Proof.Machine.execResumptionEffect p s
  | .resumeRestoreDone p => Sys2Proof.Machine.execResumeRestoreDone p s
  | .jobClose p n => Sys2Proof.Machine.execJobClose p n s
  | .jobCloseAbort p n => Sys2Proof.Machine.execJobCloseAbort p n s
  | .abortEffect p => Sys2Proof.Machine.execAbortEffect p s
  | .nop p n => Sys2Proof.Machine.execNop p n s
  | .completionWrite p cq head => Sys2Proof.Machine.execCompletionWrite p cq head s
  | .eventRecordWrite fn q head => Sys2Proof.Machine.execEventRecordWrite fn q head s
  | .coalescingTimer fn q => Sys2Proof.Machine.execCoalescingTimer fn q s
  | .evtQCfgWrite fn q v => Sys2Proof.Machine.execEvtQCfgWrite fn q v s
  | .evtLclClaim proc => Sys2Proof.Machine.execEvtLclClaim proc s
  | .evtLclComplete proc e => Sys2Proof.Machine.execEvtLclComplete proc e s
  | .levelWithdraw proc e => Sys2Proof.Machine.execLevelWithdraw proc e s
  | .flitReceive port f => Sys2Proof.Machine.execFlitReceive port f s
  | .nak port fseq => Sys2Proof.Machine.execNak port fseq s
  | .laneFailed port lane => Sys2Proof.Machine.execLaneFailed port lane s
  | .retrainingDone port inTime => Sys2Proof.Machine.execRetrainingDone port inTime s
  | .portFailed port => Sys2Proof.Machine.execPortFailed port s
  | .spareTakeoverDone t => Sys2Proof.Machine.execSpareTakeoverDone t s
  | .harnessMate port h => Sys2Proof.Machine.execHarnessMate port h s
  | .credit port vc cls slots => Sys2Proof.Machine.execCredit port vc cls slots s
  | .laneMap port mask counter => Sys2Proof.Machine.execLaneMap port mask counter s
  | .portState origin port up => Sys2Proof.Machine.execPortState origin port up s
  | .resync port fseq => Sys2Proof.Machine.execResync port fseq s
  | .keyReady port slot keyId => Sys2Proof.Machine.execKeyReady port slot keyId s
  | .keyRetire port slot => Sys2Proof.Machine.execKeyRetire port slot s
  | .groupHello h => Sys2Proof.Machine.execGroupHello h s
  | .groupFormingTimeout p g => Sys2Proof.Machine.execGroupFormingTimeout p g s
  | .lnkVcwWrite v => Sys2Proof.Machine.execLnkVcwWrite v s
  | .lnkSluiceWrite p v => Sys2Proof.Machine.execLnkSluiceWrite p v s
  | .lnkSpareWrite v => Sys2Proof.Machine.execLnkSpareWrite v s
  | .colGrpEnWrite p g v => Sys2Proof.Machine.execColGrpEnWrite p g v s
  | .colCqEnWrite p q v => Sys2Proof.Machine.execColCqEnWrite p q v s
  | .commQueueTailWrite p q tail => Sys2Proof.Machine.execCommQueueTailWrite p q tail s
  | .put p q n => Sys2Proof.Machine.execPut p q n s
  | .add p q n => Sys2Proof.Machine.execAdd p q n s
  | .ctrAdd p q n => Sys2Proof.Machine.execCtrAdd p q n s
  | .colNop p q n => Sys2Proof.Machine.execColNop p q n s
  | .waggleBarrier p q n => Sys2Proof.Machine.execWaggleBarrier p q n s
  | .sumI64 p q n => Sys2Proof.Machine.execSumI64 p q n s
  | .minI64 p q n => Sys2Proof.Machine.execMinI64 p q n s
  | .maxI64 p q n => Sys2Proof.Machine.execMaxI64 p q n s
  | .sumF64 p q n => Sys2Proof.Machine.execSumF64 p q n s
  | .minF64 p q n => Sys2Proof.Machine.execMinF64 p q n s
  | .maxF64 p q n => Sys2Proof.Machine.execMaxF64 p q n s
  | .waggleMessage p g m => Sys2Proof.Machine.execWaggleMessage p g m s
  | .allreduce p q n => Sys2Proof.Machine.execAllreduce p q n s
  | .reduceScatter p q n => Sys2Proof.Machine.execReduceScatter p q n s
  | .allgather p q n => Sys2Proof.Machine.execAllgather p q n s
  | .broadcast p q n => Sys2Proof.Machine.execBroadcast p q n s
  | .alltoall p q n => Sys2Proof.Machine.execAlltoall p q n s
  | .packetArrival m => Sys2Proof.Machine.execPacketArrival m s
  | .operationComplete p q n a => Sys2Proof.Machine.execOperationComplete p q n a s
  | .operationTimeout p q n => Sys2Proof.Machine.execOperationTimeout p q n s
  | .pageRestore p page => Sys2Proof.Machine.execPageRestore p page s
  | .frameDrop p page => Sys2Proof.Machine.execFrameDrop p page s
  | .storeImageLost p page => Sys2Proof.Machine.execStoreImageLost p page s
  | .rollback p => Sys2Proof.Machine.execRollback p s
  | .dieFailed die => Sys2Proof.Machine.execDieFailed die s
  | .regulatorPhaseFailed die phase => Sys2Proof.Machine.execRegulatorPhaseFailed die phase s
  | .memBuddyWrite p v => Sys2Proof.Machine.execMemBuddyWrite p v s
  | .buddyLost p refused => Sys2Proof.Machine.execBuddyLost p refused s
  | .restoreGo p v held prog wpkg progSig wpkgSig => Sys2Proof.Machine.execRestoreGo p v held prog wpkg progSig wpkgSig s
  | .openSession p n => Sys2Proof.Machine.execOpenSession p n s
  | .encode p n => Sys2Proof.Machine.execEncode p n s
  | .decode p n => Sys2Proof.Machine.execDecode p n s
  | .closeSession p n => Sys2Proof.Machine.execCloseSession p n s
  | .blockAbandoned p engine block rest => Sys2Proof.Machine.execBlockAbandoned p engine block rest s
  | .pictureBudgetExpired p engine left => Sys2Proof.Machine.execPictureBudgetExpired p engine left s
  | .codecPictureRestart p engine t => Sys2Proof.Machine.execCodecPictureRestart p engine t s
  | .codecPictureDone p engine o => Sys2Proof.Machine.execCodecPictureDone p engine o s
  | .fwStage v image sig => Sys2Proof.Machine.execFwStage v image sig s
  | .svnCommit v => Sys2Proof.Machine.execSvnCommit v s
  | .jobkeyLoad v blob => Sys2Proof.Machine.execJobkeyLoad v blob s
  | .jobkeyErase v => Sys2Proof.Machine.execJobkeyErase v s
  | .pubkeySet v hash => Sys2Proof.Machine.execPubkeySet v hash s
  | .pubkeyClear v => Sys2Proof.Machine.execPubkeyClear v s
  | .logRead v => Sys2Proof.Machine.execLogRead v s
  | .secLogCountRead => Sys2Proof.Machine.execSecLogCountRead s
  | .authHello port nonce chainHash chainLen => Sys2Proof.Machine.execAuthHello port nonce chainHash chainLen s
  | .authCert port chunk data => Sys2Proof.Machine.execAuthCert port chunk data s
  | .authKex port share sigOk chainOk peerSvn => Sys2Proof.Machine.execAuthKex port share sigOk chainOk peerSvn s
  | .authFinish port mac => Sys2Proof.Machine.execAuthFinish port mac s
  | .brakeAssert => Sys2Proof.Machine.execBrakeAssert s
  | .brakeRelease => Sys2Proof.Machine.execBrakeRelease s
  | .thermalTrip sensor => Sys2Proof.Machine.execThermalTrip sensor s
  | .l1Entry p => Sys2Proof.Machine.execL1Entry p s
  | .l2Entry p => Sys2Proof.Machine.execL2Entry p s
  | .l3Entry p => Sys2Proof.Machine.execL3Entry p s
  | .wake p => Sys2Proof.Machine.execWake p s
  | .l4Req v => Sys2Proof.Machine.execL4Req v s
  | .l4Entry => Sys2Proof.Machine.execL4Entry s
  | .pwrLimitsWrite v => Sys2Proof.Machine.execPwrLimitsWrite v s
  | .pwrCeilingWrite v => Sys2Proof.Machine.execPwrCeilingWrite v s
  | .pwrPtnStateWrite p v => Sys2Proof.Machine.execPwrPtnStateWrite p v s
  | .staggerRelease => Sys2Proof.Machine.execStaggerRelease s
  | .rootOfTrust slots aliasKey => Sys2Proof.Machine.execRootOfTrust slots aliasKey s
  | .mgmtFw settingsOk => Sys2Proof.Machine.execMgmtFw settingsOk s
  | .identity carrier ports => Sys2Proof.Machine.execIdentity carrier ports s
  | .hbmTrain failed failedStacks => Sys2Proof.Machine.execHbmTrain failed failedStacks s
  | .storeMount m => Sys2Proof.Machine.execStoreMount m s
  | .coreTest failedCores failedDies => Sys2Proof.Machine.execCoreTest failedCores failedDies s
  | .portTrain found => Sys2Proof.Machine.execPortTrain found s
  | .linkAuth => Sys2Proof.Machine.execLinkAuth s
  | .partitions => Sys2Proof.Machine.execPartitions s
  | .hive => Sys2Proof.Machine.execHive s
  | .hiveHello port serial pos heard => Sys2Proof.Machine.execHiveHello port serial pos heard s
  | .hiveFormed leader mask => Sys2Proof.Machine.execHiveFormed leader mask s
  | .apiary => Sys2Proof.Machine.execApiary s
  | .apiaryElect port serial hops => Sys2Proof.Machine.execApiaryElect port serial hops s
  | .electionEnd => Sys2Proof.Machine.execElectionEnd s
  | .apiaryCoord port origin x y => Sys2Proof.Machine.execApiaryCoord port origin x y s
  | .apiaryState port formed origin refSerial refAddr adopted => Sys2Proof.Machine.execApiaryState port formed origin refSerial refAddr adopted s
  | .time => Sys2Proof.Machine.execTime s
  | .telemetryRecord head => Sys2Proof.Machine.execTelemetryRecord head s
  | .i3cWake cool => Sys2Proof.Machine.execI3cWake cool s
  | .i3cBringup => Sys2Proof.Machine.execI3cBringup s
  | .i3cPowerState => Sys2Proof.Machine.execI3cPowerState s
  | .mgtSb3Write v => Sys2Proof.Machine.execMgtSb3Write v s
  | .rcRegisterRead fn off width => Sys2Proof.Machine.execRcRegisterRead fn off width s
  | .registerWrite fn off width v => Sys2Proof.Machine.execRegisterWrite fn off width v s
  | .flitTransmit port => Sys2Proof.Machine.execFlitTransmit port s
  | .perstDeassert cool => Sys2Proof.Machine.execPerstDeassert cool s
  | .accessFault d a => Sys2Proof.Machine.execAccessFault d a s
  | .dispatcherFault d k => Sys2Proof.Machine.execDispatcherFault d k s
  | .placementMoveDone p page => Sys2Proof.Machine.execPlacementMoveDone p page s
  | .dynamicAddressAssignment addr => Sys2Proof.Machine.execDynamicAddressAssignment addr s

end Sys2Proof.Machine
end

