-- ==== Sys2Proof/Machine/Step.lean ====
section
/-! DEFINITION. One step: the command at the front of the queue is carried out; with none waiting, the reference clock
advances within the beat (R39; DESIGN CHOICE, log entry 3). -/

namespace Sys2Proof.Machine

/-- With no command waiting, one reference cycle of the beat passes; the count stops at the beat's last cycle until the
beat boundary comes as a command (R39; DESIGN CHOICE, log entry 3). -/
def State.idle (s : State) : State :=
  if s.mgmt.powerGood then { s with mgmt := { s.mgmt with refCycle := Nat.min 1023 (s.mgmt.refCycle + 1) } } else s

/-- One step of the module. DEDUCED, log entry 57. DESIGN CHOICE, log entry 138. -/
def step (s : State) : Host.Outcome State Fault Refusal :=
  match s.pending with
  | [] => .next s.idle
  | c :: rest => exec c { s with pending := rest }

/-- `s` with the command that a word spells at the front of its queue; the table spells none. -/
def State.withFetchWord (s : State) (nbits w : Nat) : State :=
  match decodeTableWord nbits w with
  | some c => { s with pending := c :: s.pending }
  | none => s

end Sys2Proof.Machine
end

