-- ==== Sys2Proof/Safety.lean ====
section
/-! DEFINITION. The terms in which statements about the module are made: when a tile instruction executes, what its operands
hold, when a descriptor starts, and what a module without power is. A run is safe when every step answers a next state: no
command of the table stops the module. -/

namespace Sys2Proof.Machine

/-! ### Tile instructions -/

/-- The head of core `lc`'s queue executes now as instruction `o` of meaning `spec`: nothing holds it and no input of it
reads uncorrectable (R90, R92, R136, R143, R152, R229). `s1` is the state in which it issues, `e` its entry, and `c` the core
as the checks at issue left it. -/
def TileExecutes (s : State) (p lc : Nat) (o : TileOp) (spec : State → TDesc → TileSpec) (s1 : State) (e : QEntry)
    (c : Machine.Core) : Prop :=
  s.mgmt.powerGood = true ∧ s.tileGo p lc o spec = .runs s1 e c ∧
    s1.badInputs p lc e.desc.toNat (spec s e.desc.toNat) (s1.walkRoot p c) = []

/-- Some state, entry and core are those of `TileExecutes`. -/
def tileExecutes (s : State) (p lc : Nat) (o : TileOp) (spec : State → TDesc → TileSpec) : Bool :=
  s.mgmt.powerGood && match s.tileGo p lc o spec with
    | .runs s1 e c => s1.badInputs p lc e.desc.toNat (spec s e.desc.toNat) (s1.walkRoot p c) == []
    | .over _ => false

/-- Element (r, k) of the operand in slot `i` as the vector unit reads it (R69, R131); zero for an unused slot. -/
def State.slotVal (s : State) (p lc : Nat) (w : TDesc) (i r k : Nat) : Fv :=
  match w.opnd lc i with
  | some o => let v := o.elem (s.pt p).live r k; if o.fmt.code = 0x0D then v.r32 else v
  | none => .zero

/-- Element (r, k) of the INT32 or INT8 operand in slot `i`, sign-extended (R131). -/
def State.slotInt (s : State) (p lc : Nat) (w : TDesc) (i r k : Nat) : W32 :=
  match w.opnd lc i with
  | some o => o.int32 (s.pt p).live r k
  | none => 0

/-- A result element for every row below VAL0 and column below VAL1. -/
def TDesc.result {α : Type} (w : TDesc) (f : Nat → Nat → α) : List (List α) :=
  (List.range (w.val 0)).map fun r => (List.range (w.val 1)).map fun k => f r k

/-- The instruction is in flight in `t`, where `r` is what its execution leaves: the state and the status (R90, R145). -/
def State.inFlight (t : State × Nat) (p lc : Nat) (o : TileOp) (x : TileSpec) (e : QEntry) (c : Machine.Core)
    (word : Option W64) : State :=
  t.1.fly p lc o (x.own lc e.desc.toNat) e c t.2 word

/-! ### Dispatchers -/

/-- Dispatcher Dd runs its part with no access outstanding and no pre-emption in effect (R100, R104). -/
def HartRuns (s : State) (d : Nat) : Prop := s.mgmt.powerGood = true ∧ s.hartReady d = true

/-! ### Descriptors -/

/-- The next descriptor of ring `n` is `d`, of opcode `op`, and nothing keeps it from starting but the job's state (R329, R336, R340,
R531). -/
def State.starts (s : State) (p n op : Nat) (d : ADesc) : Prop :=
  (s.pt p).ringHead n = some d ∧ d.start = none ∧ s.startsOpen p = true ∧ s.orderOk p d = true ∧ (s.pt p).againOk d = true ∧
    (op = 8 ∨ s.awake p = true) ∧ d.wellFormed (s.ctrlRing p n) = true ∧ d.opcode = op

/-- Entry `n` of communication queue `q` is taken, it is `o`, its trigger is met, it is its turn and its group is READY, so that a row
of its operation starts it now (R410). -/
def State.opStarts (s : State) (p q n : Nat) (o : COp) : Prop :=
  (s.pt p).col.find q n = some o ∧ o.done = false ∧ o.armed = none ∧ o.ready = none ∧ s.triggered p o = true ∧
    s.grpState p (s.cqGroup p q) = 2 ∧ s.opTurn p o = true

end Sys2Proof.Machine
end

