-- ==== Sys2Proof/Certificates/Slice0/Obligations.lean ====
section
/-! DEFINITION. The statements about the module, each from the numbered rules its docstring names. -/

open Sys2Proof Sys2Proof.Machine

/-! ### The step and the queue of commands -/

/-- With a command at the front of its queue the module carries it out on the queue's rest; with none it idles, which passes one
reference cycle of the beat (log entry 3: the model's own). -/
def Obligations.StepRunsFrontCommand : Prop :=
  (∀ (c : Instr) (s : State), step { s with pending := c :: s.pending } = exec c s) ∧
  (∀ (c : Instr) (rest : List Instr) (s : State), s.pending = c :: rest → step s = exec c { s with pending := rest }) ∧
  (∀ s : State, s.pending = [] → step s = .next s.idle)

/-- No command stops the module: every command answers a next state in every state (the model's choice for commands that
the state does not enable, log entry 2). -/
def Obligations.EveryCommandAnswersNext : Prop :=
  ∀ (c : Instr) (s : State), ∃ t, exec c s = .next t

/-- A module without power-good does nothing: no command but POWER_GOOD changes anything of it except the standby flag, the
thermal-trip flag, the PERST# pin and the management bus's dynamic address, and its answers on that bus (R528, R529, R533, R574,
R576). -/
def Obligations.PoweredDownModuleKeepsItsState : Prop :=
  ∀ s t : State, s.mgmt.powerGood = false → (∀ slot, s.pending.head? ≠ some (.powerGood slot)) → step s = .next t →
    ∃ (sb tr pe : Bool) (da : Nat) (o : List Output),
      t = { s with mgmt := { s.mgmt with standby := sb, tripped := tr, perst := pe, dynAddr := da },
                   out := o ++ s.out, pending := s.pending.tail }

/-- Reset leaves a module without power-good, with every register at its reset value and nothing waiting (R40, R550). -/
def Obligations.ResetIsAModuleWithoutPower : Prop :=
  State.reset.mgmt.powerGood = false ∧ State.reset.regs = [] ∧ State.reset.pending = [] ∧ State.reset.ptn = [] ∧
    State.reset.log.count = 0 ∧ ∀ (r : RegSpec) (fn i : Nat), State.reset.rd r fn i = r.resetOf i

/-! ### Vector instructions -/

/-- VEC's elementwise floating-point rows (R131): every valid element of D is the function of the elements of A, B, C and the
scalar s, converted to D's format, and the instruction is in flight. -/
def Obligations.VecElementwiseResults : Prop :=
  ∀ (s s1 : State) (p lc : Nat) (e : QEntry) (c : Machine.Core) (a d : Opnd) (x : Instr × VecFn × (Nat → Nat → Fv)),
    let w : TDesc := e.desc.toNat
    let A := s1.slotVal p lc w 0
    let B := s1.slotVal p lc w 1
    let C := s1.slotVal p lc w 2
    let sc := ofW32 ((e.word.getD 0).toNat % 2 ^ 32)
    x ∈ [(.convert p lc, .convert, fun r k => A r k), (.vecAdd p lc, .add, fun r k => fadd (A r k) (B r k)),
         (.sub p lc, .sub, fun r k => fsub (A r k) (B r k)), (.mul p lc, .mul, fun r k => fmul (A r k) (B r k)),
         (.fma p lc, .fma, fun r k => ffma (A r k) (B r k) (C r k)), (.max p lc, .max, fun r k => (A r k).maxOf (B r k)),
         (.min p lc, .min, fun r k => (A r k).minOf (B r k)), (.addS p lc, .addS, fun r k => fadd (A r k) sc),
         (.mulS p lc, .mulS, fun r k => fmul (A r k) sc), (.addRow p lc, .addRow, fun r k => fadd (A r k) (B 0 k)),
         (.mulRow p lc, .mulRow, fun r k => fmul (A r k) (B 0 k))] →
    TileExecutes s p lc (.vec x.2.1) (vecSpec x.2.1 p lc) s1 e c → w.opnd lc 0 = some a → w.opnd lc 3 = some d →
    exec x.1 s = .next (State.inFlight (s1.writeRows p lc w d (w.result x.2.2)) p lc (.vec x.2.1)
      (vecSpec x.2.1 p lc s w) e c none)

/-- ROW_SUM and ROW_MAX (R131): D[r, 0] is the sum of row r in 64 lanes and a pairwise tree, or its maximum from −infinity. VEC's
integer rows (R131): INT32 operations on sign-extended elements; IADD wraps.
Rests on log entry 61. -/
def Obligations.VecRowAndIntegerResults : Prop :=
  (∀ (s s1 : State) (p lc : Nat) (e : QEntry) (c : Machine.Core) (a d : Opnd) (x : Instr × VecFn × (List Fv → Fv)),
     let w : TDesc := e.desc.toNat
     x ∈ [(.rowSum p lc, .rowSum, laneSum binFp32 fadd), (.rowMax p lc, .rowMax, fun l => l.foldl Fv.maxOf .negInf)] →
     TileExecutes s p lc (.vec x.2.1) (vecSpec x.2.1 p lc) s1 e c → w.opnd lc 0 = some a → w.opnd lc 3 = some d →
     exec x.1 s = .next (State.inFlight
       (s1.writeRows p lc w d ((List.range (w.val 0)).map fun r =>
         [x.2.2 ((List.range (w.val 1)).map fun k => s1.slotVal p lc w 0 r k)]))
       p lc (.vec x.2.1) (vecSpec x.2.1 p lc s w) e c none)) ∧
  (∀ (s s1 : State) (p lc : Nat) (e : QEntry) (c : Machine.Core) (a b d : Opnd) (x : Instr × VecFn × (W32 → W32 → W32)),
     let w : TDesc := e.desc.toNat
     x ∈ [(.iadd p lc, .iadd, fun u v => u + v), (.iand p lc, .iand, fun u v => u &&& v), (.ior p lc, .ior, fun u v => u ||| v),
          (.ixor p lc, .ixor, fun u v => u ^^^ v), (.imax p lc, .imax, fun u v => if u.toInt < v.toInt then v else u),
          (.imin p lc, .imin, fun u v => if v.toInt < u.toInt then v else u)] →
     TileExecutes s p lc (.vec x.2.1) (vecSpec x.2.1 p lc) s1 e c → w.opnd lc 0 = some a → w.opnd lc 1 = some b →
     w.opnd lc 3 = some d →
     exec x.1 s = .next (State.inFlight
       (s1.writeCodes p d (w.result fun r k => (x.2.2 (s1.slotInt p lc w 0 r k) (s1.slotInt p lc w 1 r k)).toNat))
       p lc (.vec x.2.1) (vecSpec x.2.1 p lc s w) e c none))

/-- The special-function rows (R207, R208, R211): every valid element of the destination is the function's FP32 result for the source's
element, converted to the destination's format. The value of a function within its error bound is a free value (R209).
Rests on log entries 6, 35. -/
def Obligations.SpecialFunctionResults : Prop :=
  ∀ (s s1 : State) (p lc : Nat) (e : QEntry) (c : Machine.Core) (a d : Opnd) (x : Instr × SfuFn),
    let w : TDesc := e.desc.toNat
    x ∈ [(.exp p lc, .exp), (.exp2 p lc, .exp2), (.ln p lc, .ln), (.log2 p lc, .log2), (.sigmoid p lc, .sigmoid),
         (.tanh p lc, .tanh), (.erf p lc, .erf), (.softplus p lc, .softplus), (.sqrt p lc, .sqrt), (.rsqrt p lc, .rsqrt),
         (.recip p lc, .recip), (.silu p lc, .silu), (.gelu p lc, .gelu), (.sin p lc, .sin), (.cos p lc, .cos)] →
    TileExecutes s p lc (.sfu x.2) (sfuSpec x.2 p lc) s1 e c → w.opnd lc 0 = some a → w.opnd lc 1 = some d →
    exec x.1 s = .next (State.inFlight
      (s1.writeRows p lc w d (w.result fun r k => x.2.eval (s1.slotVal p lc w 0 r k)))
      p lc (.sfu x.2) (sfuSpec x.2 p lc s w) e c none)

/-- RMSNORM, RMS_APPLY and RMS_SUMSQ (R213 to R215). RMSNORM scales a row by the reciprocal root of its own mean square;
RMS_APPLY takes the sum of squares of row r from the normalisation block and the count from its LEN; a row with a value that is
not finite becomes NaN. RMS_SUMSQ adds a row's sum of squares to S, or starts it when FUNC bit 0 is set.
Rests on log entry 33. -/
def Obligations.RmsNormalisationResults : Prop :=
  ∀ (s s1 : State) (p lc : Nat) (e : QEntry) (c : Machine.Core) (a d : Opnd),
    let w : TDesc := e.desc.toNat
    let row := fun (r : Nat) => (List.range (w.val 1)).map fun k => s1.slotVal p lc w 0 r k
    let blk := s1.rmsBlock p lc w
    let gain := rmsGain (s1.pt p).live w lc
    let part := fun (r : Nat) => ofW32 (((s1.pt p).live.core lc).mem.rdLe (blk.1.getD 0 + 64 + 4 * r) 4)
    w.opnd lc 0 = some a → w.opnd lc 1 = some d →
    (TileExecutes s p lc .rmsnorm (rmsSpec false p lc) s1 e c →
      exec (.rmsnorm p lc) s = .next (State.inFlight
        (s1.writeRows p lc w d ((List.range (w.val 0)).map fun r =>
          if (sumSq (row r)).finite = false ∨ (row r).any (fun v => !v.finite) then (row r).map fun _ => Fv.nan
          else rmsScale (row r) gain (sumSq (row r)) (w.val 1) (ofW32 blk.2.1)))
        p lc .rmsnorm (rmsSpec false p lc s w) e c none)) ∧
    (TileExecutes s p lc .rmsApply (rmsSpec true p lc) s1 e c →
      exec (.rmsApply p lc) s = .next (State.inFlight
        (s1.writeRows p lc w d ((List.range (w.val 0)).map fun r =>
          if (part r).finite = false then (row r).map fun _ => Fv.nan
          else rmsScale (row r) gain (part r) blk.2.2 (ofW32 blk.2.1)))
        p lc .rmsApply (rmsSpec true p lc s w) e c none)) ∧
    (TileExecutes s p lc .rmsSumsq (sumsqSpec p lc) s1 e c →
      exec (.rmsSumsq p lc) s = .next (State.inFlight
        (s1.writeAcc p lc w d [(List.range (w.val 0)).map fun r =>
          fadd (if w.func % 2 = 1 then .zero else s1.slotVal p lc w 1 0 r) (sumSq (row r))])
        p lc .rmsSumsq (sumsqSpec p lc s w) e c none))

/-- MATMUL (R79, R130, R139, R147): C, which never saturates, takes C·ACC + A × Bᵀ, each element over groups of K; with CK set, a product whose
checksum is outside its tolerance writes nothing and completes CHECKSUM_MISMATCH. Two attempts whose checksum a fault
breaks do the same (R150).
Rests on log entries 52, 66. -/
def Obligations.MatmulResultAndChecksum : Prop :=
  ∀ (s s1 : State) (p lc : Nat) (e : QEntry) (c : Machine.Core) (a b d : Opnd),
    let w : TDesc := e.desc.toNat
    let j := (s1.pt p).live
    let ar := (List.range (w.val 0)).map fun r => a.grow j r (w.val 2) (w.dim 2)
    let br := (List.range (w.val 1)).map fun r => b.grow j r (w.val 2) (w.dim 2)
    let cin := (List.range (w.val 0)).map fun r => (List.range (w.val 1)).map fun k =>
      if w.acc then s1.slotVal p lc w 2 r k else .zero
    let cout := (List.range (w.val 0)).map fun r => (List.range (w.val 1)).map fun k =>
      growDot (a.grow j r (w.val 2) (w.dim 2)) (b.grow j k (w.val 2) (w.dim 2)) (if w.acc then s1.slotVal p lc w 2 r k else .zero)
    TileExecutes s p lc .matmul (matmulSpec p lc) s1 e c →
    w.opnd lc 0 = some a → w.opnd lc 1 = some b → w.opnd lc 2 = some d →
    exec (.matmul p lc 0) s = .next (State.inFlight
      (if w.ck ∧ ckPass ar br cin cout w.tol = false then (s1, Code.checksumMismatch) else s1.writeAcc p lc w d cout)
      p lc .matmul (matmulSpec p lc s w) e c none) ∧
    (w.ck = true → exec (.matmul p lc 2) s =
      .next (State.inFlight (s1, Code.checksumMismatch) p lc .matmul (matmulSpec p lc s w) e c none))

/-- CONV and POOL_GAVG (R200, R201, R204, R206): a dense CONV is the product of gathered rows, a depthwise CONV adds the taps of each
channel in order, and POOL_GAVG adds the rows of each channel, and divides by their number for a mean.
Rests on log entry 64. -/
def Obligations.ConvolutionAndPoolingResults : Prop :=
  ∀ (s s1 : State) (p lc : Nat) (e : QEntry) (c : Machine.Core) (x wt y : Opnd),
    let w : TDesc := e.desc.toNat
    let j := (s1.pt p).live
    let b := s.winBlock p lc w
    let pad := x.fmt.decode (x.fmt.encode1 true .even (ofW32 b.pad)) 127
    let ar := b.rows.map fun r => convRowX j b x pad r
    let br := (List.range b.vcout).map fun n => convRowW j b wt n
    let cin := b.rows.map fun r => convY j w.acc y r b.vcout
    let cout := b.rows.map fun r => ((List.range b.vcout).zip (convY j w.acc y r b.vcout)).map fun z =>
      growDot (convRowX j b x pad r) (convRowW j b wt z.1) z.2
    w.opnd lc 0 = some x → w.opnd lc 1 = some wt →
    (w.opnd lc 2 = some y → TileExecutes s p lc .convDense (convSpec true p lc) s1 e c →
      exec (.convDense p lc 0) s = .next (State.inFlight
        (if w.ck ∧ ckPass ar br cin cout w.tol = false then (s1, Code.checksumMismatch)
         else s1.writeY p lc w y (b.rows.zip cout))
        p lc .convDense (convSpec true p lc s w) e c none)) ∧
    (w.opnd lc 2 = some y → TileExecutes s p lc .convDepthwise (convSpec false p lc) s1 e c →
      exec (.convDepthwise p lc) s = .next (State.inFlight
        (s1.writeY p lc w y (b.rows.map fun r => (r, ((convY j w.acc y r b.vcin).zip (List.range b.vcin)).map fun z =>
          (List.range b.kt).foldl (fun acc t => ffma (wt.elem j z.2 t)
            (match b.pos r t with
              | some q => s1.slotVal p lc w 0 q z.2
              | none => if b.mode = 1 then ofW32 b.pad else Fv.zero) acc) z.1)))
        p lc .convDepthwise (convSpec false p lc s w) e c none)) ∧
    (TileExecutes s p lc .poolGavg (poolSpec p lc) s1 e c →
      exec (.poolGavg p lc) s = .next (State.inFlight
        (s1.writeAcc p lc w wt [(List.range (w.val 1)).map fun k =>
          let sum := ((List.range (w.val 0)).map fun r => s1.slotVal p lc w 0 r k).foldl fadd
            (if w.func % 2 = 1 then s1.slotVal p lc w 1 0 k else .zero)
          if w.func / 2 % 2 = 1 then (if w.val 0 = 0 then .zero else fdiv sum (.ofNat (w.val 0))) else sum])
        p lc .poolGavg (poolSpec p lc s w) e c none))

/-- The attention rows (R170, R181, R185, R189 to R191, R280). Each executes on the version its walk pinned, after the walk's reads have
gone through the cache, and streams the present keys and values into its buffers. ATTN_FWD without SCORE writes each row's output
and statistics: with FINAL the output divided by its sum and the LSE, without it the running values. ATTN_MERGE joins the rows of two
parts that are final. ATTN_BWD adds each product to its gradient, or starts it. A row of ATTN_FWD whose keys are all shut out keeps its
maximum, sum and output; another takes the maximum of its scores, and its sum and output are scaled to it. That the merged row is
left as it is when the second LSE is −∞, and takes the second part whole when the first is, is R189.
Rests on log entries 34, 65, 66, 71. -/
def Obligations.AttentionRowsExecute : Prop :=
  (∀ (s s1 : State) (p lc : Nat) (e : QEntry) (c : Machine.Core),
    let w : TDesc := e.desc.toNat
    let root := s1.walkRoot p c
    let af := s.attnPar p lc w false
    let gf := s.geom p lc af.seq
    let ab := s.attnPar p lc w true
    let gb := s.geom p lc ab.seq
    (TileExecutes s p lc .attnFwd (attnSpec false p lc) s1 e c →
      exec (.attnFwd p lc 0) s = .next (State.inFlight
        (attnFwdRun p lc w af gf (s.attnClass p lc w false) root (s1.walked p root gf af w))
        p lc .attnFwd (attnSpec false p lc s w) e c none)) ∧
    (TileExecutes s p lc .attnBwd (attnSpec true p lc) s1 e c →
      exec (.attnBwd p lc 0) s = .next (State.inFlight (attnBwdRun p lc w ab gb root (s1.walked p root gb ab w))
        p lc .attnBwd (attnSpec true p lc s w) e c none)) ∧
    (TileExecutes s p lc .attnMerge (attnMergeSpec p lc) s1 e c →
      exec (.attnMerge p lc) s = .next (State.inFlight (attnMergeRun p lc w s1)
        p lc .attnMerge (attnMergeSpec p lc s w) e c none)) ∧
    (w.ck = true → TileExecutes s p lc .attnFwd (attnSpec false p lc) s1 e c → exec (.attnFwd p lc 2) s = .next (State.inFlight
      (((s1.walked p root gf af w).streamKv p lc gf af w ((s1.pt p).live.leafOf root gf af)).1, Code.checksumMismatch)
      p lc .attnFwd (attnSpec false p lc s w) e c none)) ∧
    (∀ q o st, w.opnd lc 0 = some q → w.opnd lc 1 = some o → w.opnd lc 2 = some st → w.ck = false → w.func / 4 % 2 = 0 →
      let t := s1.walked p root gf af w
      let leaf := (t.pt p).live.leafOf root gf af
      let k := t.streamKv p lc gf af w leaf
      let j := (k.1.pt p).live
      let scaleOf := fun (hi lo : Nat) => ((bits (leaf.getD 0) hi lo : Nat) : Int) - 127
      let row := fun (i : Nat) => fwdRow (s.attnClass p lc w false) (ofW32 af.scale) (scaleOf 63 56) (scaleOf 55 48) (q.row j i (w.val 2))
        ((List.range (w.val 1)).map (kvRow j lc gf af.kbuf)) ((List.range (w.val 1)).map (kvRow j lc gf af.vbuf))
        ((List.range (w.val 1)).map (allowed j af leaf w i))
        (if w.func % 2 = 1 then { m := .negInf, l := .zero, o := List.replicate (w.val 2) .zero }
          else { m := ofW32 (statWord j lc st 0 i), l := ofW32 (statWord j lc st 1 i), o := o.row j i (w.val 2) })
      let final := w.func / 2 % 2 = 1
      let empty := fun (i : Nat) => (row i).m = .negInf
      k.2 = false → (w.func % 2 = 1 ∨ ∀ i < w.val 0, statWord j lc st 3 i / 2 % 2 = 0) →
      TileExecutes s p lc .attnFwd (attnSpec false p lc) s1 e c →
      exec (.attnFwd p lc 0) s = .next (State.inFlight
        (let r1 := k.1.writeAcc p lc w o ((List.range (w.val 0)).map fun i =>
          if final then (if empty i then List.replicate (w.val 2) Fv.zero else (row i).o.map fun x => fdiv x (row i).l) else (row i).o)
         let r2 := r1.1.storeIn p 1 lc ((List.range (w.val 0)).flatMap fun i =>
          statWrite st 0 i (row i).m.toW32 ++ statWrite st 1 i (row i).l.toW32 ++
          (if final then statWrite st 2 i (if empty i then Fv.negInf else fadd (row i).m (SfuFn.ln.eval (row i).l)).toW32 else []) ++
          statWrite st 3 i ((if empty i then 1 else 0) + if final then 2 else 0))
         (r2.1, if r1.2 ≠ Code.done then r1.2 else storeStatus r2))
        p lc .attnFwd (attnSpec false p lc s w) e c none)) ∧
    (∀ ob sb oa sa, w.opnd lc 0 = some ob → w.opnd lc 1 = some sb → w.opnd lc 2 = some oa → w.opnd lc 3 = some sa →
      let j := (s1.pt p).live
      (∀ i < w.val 0, statWord j lc sb 3 i / 2 % 2 = 1 ∧ statWord j lc sa 3 i / 2 % 2 = 1) →
      TileExecutes s p lc .attnMerge (attnMergeSpec p lc) s1 e c →
      exec (.attnMerge p lc) s = .next (State.inFlight
        ((List.range (w.val 0)).foldl (fun (t : State × Nat) i =>
          match mergeRow (ofW32 (statWord j lc sa 2 i)) (ofW32 (statWord j lc sb 2 i)) (oa.row j i (w.val 2)) (ob.row j i (w.val 2)) with
          | none => t
          | some (lse, x) =>
            let r1 := t.1.writeAcc p lc w { oa with addr := oa.addr + i * oa.stride } [x]
            let r2 := r1.1.storeIn p 1 lc (statWrite sa 0 i lse.toW32 ++ statWrite sa 1 i 0x3f800000 ++ statWrite sa 2 i lse.toW32 ++
              statWrite sa 3 i 2)
            (r2.1, if t.2 ≠ Code.done then t.2 else if r1.2 ≠ Code.done then r1.2 else storeStatus r2)) (s1, Code.done))
        p lc .attnMerge (attnMergeSpec p lc s w) e c none)) ∧
    (∀ q d st, w.opnd lc 0 = some q → w.opnd lc 1 = some d → w.opnd lc 2 = some st → w.ck = false →
      let t := s1.walked p root gb ab w
      let leaf := (t.pt p).live.leafOf root gb ab
      let sk := t.streamKv p lc gb ab w leaf
      let j := (sk.1.pt p).live
      let n := w.val 2
      let kexp := ((bits (leaf.getD 0) 63 56 : Nat) : Int) - 127
      let vexp := ((bits (leaf.getD 0) 55 48 : Nat) : Int) - 127
      let qr := fun (i : Nat) => q.row j i n
      let dr := fun (i : Nat) => d.row j i n
      let kr := fun (k : Nat) => kvRow j lc gb ab.kbuf k
      let vr := fun (k : Nat) => kvRow j lc gb ab.vbuf k
      let ok := fun (i k : Nat) => statWord j lc st 3 i % 2 == 0 && allowed j ab leaf w i k
      let pr := fun (i k : Nat) => if ok i k then
        roundBf16 (SfuFn.exp.eval (fsub (fmul (ofW32 ab.scale) (dot77 (qr i) (kr k) kexp)) (ofW32 (statWord j lc st 2 i)))) else Fv.zero
      let ds := fun (i k : Nat) => if ok i k then
        roundBf16 (fmul (pr i k) (fsub (dot77 (dr i) (vr k) vexp) (ofW32 (statWord j lc st 4 i)))) else Fv.zero
      let along := fun (m : Nat) (f : Nat → Fv) => (List.range m).map f
      let shut := fun (b : Bool) (x : Fv) => if b then x else Fv.zero
      let buf := fun (base : Nat) => ({ fmt := ⟨0x01, 32, .flt binFp32⟩, space := 1, core := lc, addr := base,
                                        stride := up64 (w.dim 2 * 4) } : Opnd)
      let old := fun (zero : Bool) (base r x : Nat) => if zero then Fv.zero else (((buf base).row j r n).getD x .zero)
      let dq := (List.range (w.val 0)).map fun i => along n fun x => fadd (old (w.func % 2 == 1) ab.dq i x)
        (fmul (ofW32 ab.scale) (dot77 (along (w.val 1) (ds i)) (along (w.val 1) fun k => shut (ok i k) ((kr k).getD x .zero)) kexp))
      let dk := (List.range (w.val 1)).map fun k => along n fun x => fadd (old (w.func / 2 % 2 == 1) ab.dk k x)
        (fmul (ofW32 ab.scale) (dot77 (along (w.val 0) fun i => ds i k) (along (w.val 0) fun i => shut (ok i k) ((qr i).getD x .zero)) 0))
      let dv := (List.range (w.val 1)).map fun k => along n fun x => fadd (old (w.func / 2 % 2 == 1) ab.dv k x)
        (dot77 (along (w.val 0) fun i => pr i k) (along (w.val 0) fun i => shut (ok i k) ((dr i).getD x .zero)) 0)
      sk.2 = false → (∀ i < w.val 0, statWord j lc st 3 i / 2 % 2 = 1) →
      TileExecutes s p lc .attnBwd (attnSpec true p lc) s1 e c →
      exec (.attnBwd p lc 0) s = .next (State.inFlight
        (let r1 := sk.1.writeAcc p lc w (buf ab.dq) dq
         let r2 := r1.1.writeAcc p lc w (buf ab.dk) dk
         let r3 := r2.1.writeAcc p lc w (buf ab.dv) dv
         (r3.1, if r1.2 ≠ Code.done then r1.2 else if r2.2 ≠ Code.done then r2.2 else r3.2))
        p lc .attnBwd (attnSpec true p lc s w) e c none))) ∧
  (∀ (cl : Nat) (scale : Fv) (kexp vexp : Int) (q : List Fv) (ks vs : List (List Fv)) (ok : List Bool) (r : FwdRow),
    (ok.any id = false → let x := fwdRow cl scale kexp vexp q ks vs ok r; x.m = r.m ∧ x.l = r.l ∧ x.o = r.o) ∧
    (ok.any id = true →
      let sc := (ks.zip ok).map fun x => if x.2 then fmul scale ((dot77 q x.1 0).scale kexp).r32 else Fv.negInf
      let m := (((sc.zip ok).filter (·.2)).map (·.1)).foldl Fv.maxOf r.m
      let alpha := if r.m = .negInf then Fv.zero else SfuFn.exp.eval (fsub r.m m)
      let ps := (sc.zip ok).map fun x => if x.2 then roundP cl (SfuFn.exp.eval (fsub x.1 m)) else Fv.zero
      let x := fwdRow cl scale kexp vexp q ks vs ok r
      x.m = m ∧
      x.l = fadd (fmul alpha r.l) (((ps.zip ok).filter (·.2)).foldl (fun t x => fadd t x.1) .zero) ∧
      x.o = (r.o.zip (List.range r.o.length)).map fun y =>
        fadd (fmul alpha y.1) ((dot77 ps (column (maskRows vs ok) y.2) 0).scale vexp).r32)) ∧
  (∀ (la lb : Fv) (oa ob : List Fv),
    mergeRow la .negInf oa ob = none ∧
    (lb ≠ .negInf → mergeRow .negInf lb oa ob = some (lb, ob)) ∧
    (la ≠ .negInf → lb ≠ .negInf →
      let mx := la.maxOf lb
      let lse := fadd mx (SfuFn.ln.eval (fadd (SfuFn.exp.eval (fsub la mx)) (SfuFn.exp.eval (fsub lb mx))))
      mergeRow la lb oa ob = some (lse, (oa.zip ob).map fun x =>
        fadd (fmul (SfuFn.exp.eval (fsub la lse)) x.1) (fmul (SfuFn.exp.eval (fsub lb lse)) x.2))))

/-- TABLE_LOAD fills the whole table of the inactive bank with the source's values and then +0, and is held for the active
bank; TABLE_SWAP makes a bank active when it completes; TABLE_LOOKUP reads the active bank, scaled by row when slot 2 is used (R217 to R219). -/
def Obligations.CodebookTableRows : Prop :=
  ∀ (s s1 : State) (p lc : Nat) (e : QEntry) (c : Machine.Core),
    let w : TDesc := e.desc.toNat
    (∀ a, w.opnd lc 0 = some a → TileExecutes s p lc .tableLoad (tableLoadSpec p lc) s1 e c →
      exec (.tableLoad p lc) s = .next (State.inFlight
        (if (s.core p lc).bank = w.func % 2 then (s1, Code.resourceHeld)
         else (s1.upCore p lc fun k => { k with tbl := (List.range (w.dim 1)).foldl (fun t i =>
            Tbl.set 0 t (tableKey (w.func % 2) (w.dim 1) i)
              (BitVec.ofNat 32 (if i < w.val 1 then s1.slotVal p lc w 0 0 i else .zero).toW32)) k.tbl }, Code.done))
        p lc .tableLoad (tableLoadSpec p lc s w) e c none)) ∧
    (TileExecutes s p lc .tableSwap (tableSwapSpec p lc) s1 e c →
      exec (.tableSwap p lc) s = .next (State.inFlight (s1, Code.done)
        p lc .tableSwap (tableSwapSpec p lc s w) e c none)) ∧
    (∀ f, s.mgmt.powerGood = true → (s.core p lc).comp = some f → (s.core p lc).failed ≠ some 1 → f.closes = false → f.walk = none →
      TDesc.tileOp f.q.desc.toNat = some .tableSwap →
      exec (.tileComplete p lc false) s = .next (
        ((((s.upCore p lc fun c => { c with comp := none }).unpinTile p f.pages f.writes).upCore p lc fun c =>
          { c with bank := TDesc.func f.q.desc.toNat % 2 }).completeTile p lc f.q f.status f.word))) ∧
    (∀ a d, w.opnd lc 0 = some a → w.opnd lc 1 = some d → TileExecutes s p lc .tableLookup (tableLookupSpec p lc) s1 e c →
      exec (.tableLookup p lc) s = .next (State.inFlight
        (s1.writeRows p lc w d (w.result fun r k =>
          let v := ofW32 (Tbl.get 0 (s1.core p lc).tbl (tableKey (s1.core p lc).bank (if a.fmt.code = 0x0F then 16 else 256)
            (a.codeAt (s1.pt p).live r k))).toNat
          if (w.opnd lc 2).isNone then v else fmul v (s1.slotVal p lc w 2 0 r)))
        p lc .tableLookup (tableLookupSpec p lc s w) e c none))

/-- MOVE copies the valid bytes of slot 0 to slot 1, and what it reads of the device virtual range allocates lines of the cache (R280); a writing COMMIT converts the valid elements of slot 0 to slot 1's format and
writes them; an adding COMMIT adds each converted element to the scratchpad's element, FP32 with one rounding and INT32
wrapping (R132, R133, R285). Stochastic rounding is no form of an adding COMMIT: R72 refuses it for FP32 and INT32.
Rests on log entry 60. -/
def Obligations.MoveAndCommitResults : Prop :=
  ∀ (s s1 : State) (p lc : Nat) (e : QEntry) (c : Machine.Core) (a d : Opnd),
    let w : TDesc := e.desc.toNat
    let j := (s1.pt p).live
    let cv := convRows d.fmt w.sat w.rndMode (w.result fun r k => a.elem j r k) { state := (j.core lc).rng }
    w.opnd lc 0 = some a → w.opnd lc 1 = some d →
    (TileExecutes s p lc .move (moveSpec p lc) s1 e c →
      exec (.move p lc) s = .next (State.inFlight
        ((if a.space = 3 then s1.allocate p (a.ranges (w.val 0) (w.val 1)) else s1).writeCodes p d (w.result fun r k => a.codeAt j r k))
        p lc .move (moveSpec p lc s w) e c none)) ∧
    (TileExecutes s p lc (.commit false) (commitSpec false p lc) s1 e c →
      exec (.commitWrite p lc) s = .next (State.inFlight (s1.writeRows p lc w d (w.result fun r k => a.elem j r k))
        p lc (.commit false) (commitSpec false p lc s w) e c none)) ∧
    (w.rndMode ≠ .stochastic → TileExecutes s p lc (.commit true) (commitSpec true p lc) s1 e c →
      exec (.commitAdd p lc) s = .next (State.inFlight
        (s1.writeCodes p d ((cv.1.zip (List.range (w.val 0))).map fun x => (x.1.1.zip (List.range (w.val 1))).map fun y =>
          if d.fmt.code = 0x0D then (d.codeAt j x.2 y.2 + y.1) % 2 ^ 32
          else (fadd (ofW32 (d.codeAt j x.2 y.2)) (ofW32 y.1)).toW32))
        p lc (.commit true) (commitSpec true p lc s w) e c none))

/-- TKT_FAA takes a ticket from counter DIM1 with n = DIM0 and writes the result to the scratchpad when slot 1 names a place, with the
result as its mailbox word; a re-execution takes the result it received before (R156). BARRIER sends the core's arrival for the generation it
keeps, which advances at its first execution; KV_PRUNE sets a bit for every
value below the threshold outside the protected ranges (R98, R110, R134, R135, R194).
Rests on log entry 52. -/
def Obligations.TicketBarrierAndPruneRows : Prop :=
  ∀ (s s1 : State) (p lc : Nat) (e : QEntry) (c : Machine.Core),
    let w : TDesc := e.desc.toNat
    (TileExecutes s p lc .tktFaa (tktFaaSpec p lc) s1 e c → (e.faa = none → (s1.pt p).live.tktFails (w.dim 1) = false) →
      exec (.tktFaa p lc) s = .next (
        let r := ((s1.pt p).live.ticket (w.dim 1)).faa (w.dim 0)
        let v := e.faa.getD (BitVec.ofNat 64 r.1)
        let s2 := if e.faa = none then s1.upJob p fun j => { j with tickets := Tbl.put j.tickets (w.dim 1) r.2 } else s1
        let t := match w.opnd lc 1 with
          | some o => s2.slmStore p (bwrites o.addr (leBytes 8 v.toNat)) none
          | none => (s2, false)
        State.inFlight (t.1, if t.2 then Code.uncorrectable else Code.done)
          p lc .tktFaa (tktFaaSpec p lc s w) e c (some v))) ∧
    (TileExecutes s p lc .barrier (barrierSpec p lc) s1 e c →
      exec (.barrier p lc) s = .next (
        let g := e.gen.getD (Tbl.get 0 (s1.core p lc).barGen (w.dim 0))
        let s2 := if e.gen = none then s1.upCore p lc fun k => { k with barGen := Tbl.set 0 k.barGen (w.dim 0) (g + 1) } else s1
        State.inFlight (s2.sendArrival p (w.dim 0) lc g (w.func % 16), Code.done)
          p lc .barrier (barrierSpec p lc s w) e c none)) ∧
    (∀ a d g, w.opnd lc 0 = some a → w.opnd lc 1 = some d → w.opnd lc 2 = some g →
      TileExecutes s p lc .kvPrune (kvPruneSpec p lc) s1 e c →
      exec (.kvPrune p lc) s = .next (
        let j := (s1.pt p).live
        let r := s1.storeIn p d.space d.core (rowWrites j d.space d.core d.addr 1 ((List.range (w.val 0)).map fun i =>
          if (a.elem j 0 i).below (ofW32 (e.word.getD 0).toNat) ∧ prunProtected j g i = false then 1 else 0))
        State.inFlight (r.1, storeStatus r) p lc .kvPrune (kvPruneSpec p lc s w) e c none))

/-- A fetch-and-add of n at a counter (R110): an exhausted counter answers EXHAUSTED with its value and does not move; otherwise the
answer is the old value and the counter rises by n, at most to its limit. One command carries it out whole, with nothing else of the
counter between: CORE_TKT_FAA for a dispatcher, TKT_FAA for a core. -/
def Obligations.TicketFetchAndAdd : Prop :=
  (∀ (t : Ticket) (n : Nat),
    (t.limit.toNat ≤ t.value.toNat → t.faa n = (2 ^ 63 + t.value.toNat % 2 ^ 63, t)) ∧
    (t.value.toNat < t.limit.toNat → (t.faa n).1 = t.value.toNat % 2 ^ 63 ∧ (t.faa n).2.limit = t.limit ∧
      (t.faa n).2.value.toNat = min (t.value.toNat + n) t.limit.toNat)) ∧
  (∀ (s : State) (d rd : Nat) (v : W64), HartRuns s d →
    let p := (s.dispPos d).1
    let i := bits (s.disp d).tktSel.toNat 13 0
    let r := ((s.pt p).live.ticket i).faa (bits v.toNat 31 0)
    i / 4096 < s.k → (s.pt p).live.tktFails i = false →
      exec (.coreTktFaa d rd v) s =
        .next ((s.upJob p fun j => { j with tickets := Tbl.put j.tickets i r.2 }).retire d rd r.1)) ∧
  (∀ (s s1 : State) (p lc : Nat) (e : QEntry) (c : Machine.Core),
    let w : TDesc := e.desc.toNat
    let r := ((s1.pt p).live.ticket (w.dim 1)).faa (w.dim 0)
    let s2 := s1.upJob p fun j => { j with tickets := Tbl.put j.tickets (w.dim 1) r.2 }
    TileExecutes s p lc .tktFaa (tktFaaSpec p lc) s1 e c → e.faa = none → (s1.pt p).live.tktFails (w.dim 1) = false → w.opnd lc 1 = none →
      exec (.tktFaa p lc) s = .next (State.inFlight (s2, Code.done) p lc .tktFaa (tktFaaSpec p lc s w) e c
        (some (BitVec.ofNat 64 r.1))))

/-- TILE_COMPLETE (R145): the instruction in flight leaves the unit, its pins and walk are released, a claim that it closes becomes
COMMITTED, a TABLE_SWAP makes its bank active (R218), and it completes with its status and word. REMAP_COPY_DONE lets the spare issue (R114), RESIDENCY_STALL reports a check that
has waited 4,096 beats when the boundary after comes, once (R233), and TILE_WATCHDOG declares late the core of an instruction that has not
completed by the end of the second beat after its issue (R436).
Rests on log entries 36, 56. -/
def Obligations.TileCompletionAndWatch : Prop :=
  ∀ (s : State) (p lc : Nat), s.mgmt.powerGood = true →
    (∀ f, (s.core p lc).comp = some f → (s.core p lc).failed ≠ some 1 →
      exec (.tileComplete p lc false) s = .next (
        let s0 := (s.upCore p lc fun c => { c with comp := none }).unpinTile p f.pages f.writes
        let s1 := match f.walk with
          | some (n, v) => s0.closeWalk p n v
          | none => s0
        let s2 := if f.closes then s1.claimClose p (TDesc.claimIdx f.q.desc.toNat) ((s1.phys p lc).getD 0) else s1
        let s3 := if TDesc.tileOp f.q.desc.toNat = some .tableSwap then
          s2.upCore p lc fun c => { c with bank := TDesc.func f.q.desc.toNat % 2 } else s2
        s3.completeTile p lc f.q f.status f.word)) ∧
    (∀ f, (s.core p lc).move = some f → (s.core p lc).failed ≠ some 1 →
      exec (.tileComplete p lc true) s = .next (
        let s0 := (s.upCore p lc fun c => { c with move := none }).unpinTile p f.pages f.writes
        let s1 := match f.walk with
          | some (n, v) => s0.closeWalk p n v
          | none => s0
        let s2 := if f.closes then s1.claimClose p (TDesc.claimIdx f.q.desc.toNat) ((s1.phys p lc).getD 0) else s1
        let s3 := if TDesc.tileOp f.q.desc.toNat = some .tableSwap then
          s2.upCore p lc fun c => { c with bank := TDesc.func f.q.desc.toNat % 2 } else s2
        s3.completeTile p lc f.q f.status f.word)) ∧
    ((s.core p lc).copying = true →
      exec (.remapCopyDone p lc) s = .next (s.upCore p lc fun c => { c with copying := false })) ∧
    (∀ b, (s.core p lc).check = some b → b + 4096 < s.mgmt.beat → (s.core p lc).stalled = false →
      exec (.residencyStall p lc) s =
        .next ((s.raiseP p 0x113 (s.core p lc).checkPage lc).upCore p lc fun c => { c with stalled := true })) ∧
    (∀ f, (s.core p lc).comp = some f → f.beat + 2 < s.mgmt.beat →
      exec (.tileWatchdog p lc false) s = .next (s.failCore p lc 1)) ∧
    (∀ f, (s.core p lc).move = some f → f.beat + 2 < s.mgmt.beat →
      exec (.tileWatchdog p lc true) s = .next (s.failCore p lc 1))

/-- The claim record (R153): claim_take takes a FREE record for the core and proceeds, skips its own COMMITTED record, and finds
another core's stale; closing it makes the core's own OPEN record COMMITTED and clears its ADDING bit. What it writes, the bank
detects as any write (R282). Whatever it answers, the operation ends what harts reserve of the record's unit (R284).
Rests on log entries 55, 56, 145. -/
def Obligations.ClaimRecordOperations : Prop :=
  ∀ (s : State) (p i pc : Nat), i ∉ (s.pt p).live.slmBad →
    let r := (s.pt p).claimRec i
    let t := s.slmOperate p (8 * i) none
    (t.pt p).claimRec i = r ∧
    (∀ d ∈ (t.pt p).live.disps, ∀ x, d.2.resv = some x → x.1 / 64 ≠ (0x1000000000 + 8 * i) / 64) ∧
    (bits r 1 0 = 0 → s.claimTake p i pc = (t.bankWrite p (8 * i) (setBits (setBits r 28 16 pc) 1 0 1), .proceed)) ∧
    (bits r 1 0 = 1 → s.claimTake p i pc = (t, if bits r 28 16 = pc then .proceed else .stale)) ∧
    (bits r 1 0 = 2 → s.claimTake p i pc = (t, if bits r 28 16 = pc then .skip else .stale)) ∧
    (bits r 1 0 = 3 → s.claimTake p i pc = (t, .state)) ∧
    (bits r 1 0 = 1 → bits r 28 16 = pc → s.claimClose p i pc = t.bankWrite p (8 * i) (setBits (setBits r 1 0 2) 2 2 0)) ∧
    (¬ (bits r 1 0 = 1 ∧ bits r 28 16 = pc) → s.claimClose p i pc = t)

/-! ### Dispatchers -/

/-- What a running hart's CSR accesses do (R92, R105, R106): CORE_TQPUSH's result is what R106 gives in its order and a push that
answers 0 adds the descriptor at the DLM offset to the core's queue; CORE_MBOX_POST sends CORE_MBOX_DATA to a mapped core;
CORE_MBOX_OVF reads and clears the overflow bits of a mapped core. Each writes rd and goes on. MAILBOX_POST (R92, R93): a
post that reaches a slot of a mapped core sets WORD and adds one to COUNT, which stops at 65,535; a post that finds it there sets the
core's OVF bit and raises MAILBOX_OVERFLOW. Of the posts that reach the slot in one cycle each is applied, in ascending order of its
input port, and of one port in the order of sending.
Rests on log entries 46, 147, 148. -/
def Obligations.DispatcherQueueAndMailbox : Prop :=
  (∀ (s : State) (d rd : Nat) (v : W64), HartRuns s d →
     let p := (s.dispPos d).1
     let lc := bits v.toNat 47 32
     (s.pushResult d v.toNat = 0 →
       exec (.coreTqpush d rd v) s = .next ((s.upCore p lc fun c =>
         { c with queue := c.queue ++ [{ desc := BitVec.ofNat 512 ((s.disp d).dlm.rdLe (bits v.toNat 17 6 * 64) 64) }] }).retire d rd 0)) ∧
     (s.pushResult d v.toNat ≠ 0 → exec (.coreTqpush d rd v) s = .next (s.retire d rd (s.pushResult d v.toNat))) ∧
     (s.preempted p = false → s.pushResult d v.toNat =
       if lc / 320 ≠ (s.dispPos d).2 then 2 else if s.mapped p lc = false then 5
       else if (s.disp d).umode = true ∧ bits v.toNat 17 6 < 0x400 then 4
       else if 16 ≤ (s.core p lc).queue.length then 1 else 0) ∧
     (s.preempted p = true → s.pushResult d v.toNat = 3) ∧
     (s.mapped p lc = true →
       exec (.coreMboxPost d rd v) s =
         .next ((s.upJob p fun j => { j with posts := j.posts ++
           [{ key := lc * 16 + bits v.toNat 3 0, src := 8192 + (s.dispPos d).2, word := (s.disp d).mboxData }] }).retire d rd 0) ∧
       exec (.coreMboxOvf d rd v) s =
         .next ((s.upCore p lc fun c => { c with ovf := 0 }).retire d rd (s.core p lc).ovf.toNat)) ∧
     (s.mapped p lc = false →
       exec (.coreMboxPost d rd v) s = .next (s.retire d rd 0x0011) ∧
       exec (.coreMboxOvf d rd v) s = .next (s.retire d rd 0x00110000))) ∧
  (∀ (s : State) (p lc slot : Nat) (who : List Nat) (now rest : List Post), s.mgmt.powerGood = true → slot < 16 →
     s.mapped p lc = true → splitPosts (lc * 16 + slot) who 0 (s.pt p).live.posts = (now, rest) →
     let n := Tbl.get 0 (s.core p lc).mboxCount slot
     let gone := s.upJob p fun j => { j with posts := rest }
     (now = [] → exec (.mailboxPost p lc ⟨slot, who⟩) s = .next gone) ∧
     (∀ m, now = [m] →
       let t := gone.upCore p lc fun c =>
         { c with mboxWord := Tbl.set 0 c.mboxWord slot m.word,
                  mboxCount := Tbl.set 0 c.mboxCount slot (min 65535 (Tbl.get 0 c.mboxCount slot + 1)),
                  ovf := if Tbl.get 0 c.mboxCount slot = 65535 then c.ovf ||| (1#16 <<< slot) else c.ovf }
       exec (.mailboxPost p lc ⟨slot, who⟩) s = .next (if n = 65535 then t.raiseP p 0x120 lc slot else t)) ∧
     (let order := now.foldl (fun l m => insertPort (s.postPort p lc) m l) []
      exec (.mailboxPost p lc ⟨slot, who⟩) s = .next (order.foldl (fun t m => t.applyPost p lc slot m.word) gone) ∧
      order.Perm now ∧ order.Pairwise fun a b => s.postPort p lc a ≤ s.postPort p lc b))

/-- Counter waits (R50, R51, R108): CORE_CCWAIT answers DONE at once when its counter has reached the target, in 32-bit arithmetic modulo
2^32; otherwise the hart stalls, with a timeout of T beats when T is not 0, and a timeout that has come due answers TIMEOUT.
Barriers (R97, R98): a participant's CORE_BARRIER sends its arrival for the generation it keeps, which advances, and stalls; a
dispatcher that takes no part gets INVALID_OPERAND. An arrival in flight reaches its context, which is released when it was the last.
Rests on log entry 127. -/
def Obligations.CounterAndBarrierWaits : Prop :=
  (∀ (s : State) (d rd : Nat) (v : W64), HartRuns s d →
     let c := bits v.toNat 45 40
     let target : W32 := BitVec.ofNat 32 v.toNat
     let t := bits v.toNat 63 48
     let low : W32 := (Tbl.get 0 (s.disp d).ccnt c).setWidth 32
     ((low - target).toNat < 2 ^ 31 → exec (.coreCcwait d rd v) s = .next (s.retire d rd 0)) ∧
     (2 ^ 31 ≤ (low - target).toNat →
       exec (.coreCcwait d rd v) s = .next (
         let s1 := s.upDisp d fun x => { x with stall := some (.ccwait rd c target t) }
         if t = 0 then s1 else { s1 with timers := s1.timers ++ [{ kind := .ccwait d, armed := s.mgmt.beat, t := t }] })) ∧
     ∀ (n rd' c' t' : Nat) (g : W32) (x : Timer) (s2 : State), s2.mgmt.powerGood = true → s2.timers[n]? = some x → x.due = true →
       x.kind = .ccwait d → (s2.disp d).stall = some (.ccwait rd' c' g t') →
       exec (.timeout n) s2 = .next (({ s2 with timers := s2.timers.eraseIdx n } : State).retire d rd' 0x0030)) ∧
  ((∀ (s : State) (d rd : Nat) (v : W64), HartRuns s d →
     let p := (s.dispPos d).1
     let i := (s.dispPos d).2
     let ctx := bits v.toNat 2 0
     let g := Tbl.get 0 (s.disp d).barGen ctx
     (((s.pt p).live.bar ctx).hasDisp i = true →
       exec (.coreBarrier d rd v) s = .next ((s.upDisp d fun x =>
         { x with stall := some (.barrier rd ctx g), barGen := Tbl.set 0 x.barGen ctx (g + 1), barSent := some (ctx, g) }).sendArrival
           p ctx (8192 + i) g 0)) ∧
     (((s.pt p).live.bar ctx).hasDisp i = false → exec (.coreBarrier d rd v) s = .next (s.retire d rd 0x0011))) ∧
   (∀ (s : State) (p ctx who slot : Nat) (g : W32) (rest : List (Nat × Nat × W32 × Nat)), s.mgmt.powerGood = true →
     takeFirst ctx (s.pt p).live.arrivals = some ((who, g, slot), rest) →
     exec (.barrierArrival p ctx) s = .next (((s.upJob p fun j =>
       { j.upBar ctx (fun b => b.arrive who g slot) with arrivals := rest }).releaseBar p ctx).releaseBar p ctx)) ∧
   (∀ (b : Bar) (who slot : Nat) (g : W32),
     (g = b.gen → who ∉ b.arrived → (b.arrive who g slot).arrived = who :: b.arrived) ∧
     (g = b.gen + 1 → who ∉ b.next → (b.arrive who g slot).next = who :: b.next ∧ (b.arrive who g slot).arrived = b.arrived) ∧
     (g ≠ b.gen → g ≠ b.gen + 1 → b.arrive who g slot = b)))

/-- CORE_TKT_FAA on a counter of the partition that reads correctly takes its ticket (R110). ECALL traps into the firmware: with a7 = 0 it
ends the part DONE with result a0 (R348). That another a7 ends it with INVALID_OPERAND is the model's choice (log entry 14), and the
trap's registers are the Privileged Architecture's (log entry 144). -/
def Obligations.TicketAccessAndEcall : Prop :=
  ∀ (s : State) (d rd : Nat) (v a7 a0 : W64), HartRuns s d →
    let p := (s.dispPos d).1
    let i := bits (s.disp d).tktSel.toNat 13 0
    let t := s.upDisp d fun x => x.trap false (if x.umode then 8 else 11) 0
    (i / 4096 < s.k → (s.pt p).live.tktFails i = false →
      exec (.coreTktFaa d rd v) s = .next (
        let r := ((s.pt p).live.ticket i).faa (bits v.toNat 31 0)
        (s.upJob p fun j => { j with tickets := Tbl.put j.tickets i r.2 }).retire d rd r.1)) ∧
    (a7 = 0 → exec (.ecall d a7 a0) s = .next (t.endPart d 0 a0)) ∧
    (a7 ≠ 0 → exec (.ecall d a7 a0) s = .next (t.endPart d 0x0011 0))

/-- The scratchpad's atomic operations on an aligned word of the window that the hart's protection allows and that reads correctly
(R282, R284): an AMO stores its result and answers the old value, LR reserves the word's 64-byte unit, and SC stores and answers 0 only
while the reservation is held, and ends it. A misaligned one takes its exception and ends the part with INVALID_OPERAND (R283).
Rests on log entries 15, 131, 144, 145. -/
def Obligations.ScratchpadAtomics : Prop :=
  ∀ (s : State) (d rd off : Nat) (dbl : Bool) (op : AmoOp) (v : W64), HartRuns s d →
    let p := (s.dispPos d).1
    let i := (s.dispPos d).2
    let w := if dbl then 8 else 4
    let a := 0x1000000000 + off
    let old := (s.pt p).live.slm.rdLe off w
    let held := match (s.disp d).resv with | some (x, _) => x / 64 == a / 64 | none => false
    let may := fun (k : MemUse) => (s.disp d).pmpAllows a w k = true
    (off + w ≤ s.scratchSize p → off % w = 0 → off / 8 ∉ (s.pt p).live.slmBad →
      (may .store → exec (.slmAmo d rd op dbl a v) s = .next (((s.slmStore p (bwrites off
        (leBytes w (Machine.AmoOp.apply op (8 * w) old (v.toNat % 2 ^ (8 * w))))) (some i)).1).retire d rd (loadWord w old))) ∧
      (may .load → exec (.lr d rd dbl a) s =
        .next ((s.upDisp d fun x => { x with resv := some (a, w) }).retire d rd (loadWord w old))) ∧
      (may .store → exec (.sc d rd dbl a v) s = .next (
        let t := if held then (s.slmStore p (bwrites off (leBytes w v.toNat)) (some i)).1 else s.slmOperate p off (some i)
        (t.upDisp d fun x => { x with resv := none }).retire d rd (if held then 0 else 1)))) ∧
    (off % w ≠ 0 →
      exec (.slmAmo d rd op dbl a v) s = .next (s.hartTrap d 6 a 0x0011) ∧
      exec (.lr d rd dbl a) s = .next (s.hartTrap d 4 a 0x0011) ∧
      exec (.sc d rd dbl a v) s = .next (s.hartTrap d 6 a 0x0011))

/-- The accesses of control code (R100, R101, R102, R105, R109, R283, R348, R434). A load, a store or a fetch that neither the local memory nor
the scratchpad window answers takes its exception, into M-mode at the handler with the pc, the cause and the address saved, and ends the
part with INVALID_OPERAND; so do a write of a read-only register, csrrs or csrrc on a register with an action, and an access to a
register that does not exist. A load of a scratchpad word that reads uncorrectable calls a rollback and ends the part
UNCORRECTABLE. An access that nothing stops is carried out; so is the instruction at the hart's pc, of two bytes or of four, which for the
integer operations writes the result on 64-bit words and goes on to the next instruction. A faulted dispatcher stops the tile issue of a partition with a job, which
rolls back.
Rests on log entries 14, 93, 144, 146. -/
def Obligations.ControlCodeFaults : Prop :=
  (∀ (s : State) (d rd a w c : Nat) (sign : Bool) (v : W64) (op : CsrOp), HartRuns s d →
    let p := (s.dispPos d).1
    let x := s.disp d
    let may := fun (k : MemUse) => x.pmpAllows a w k = true
    let nowhere := 0x40000 < a + w ∧ (a < 0x1000000000 ∨ 0x1000000000 + s.scratchSize p < a + w)
    let trap := fun (t : State) (cause tval status : Nat) => (t.upDisp d fun x => x.trap false cause tval).endPart d status 0
    let o := a - 0x1000000000
    (nowhere → exec (.accessFault d (.load rd a w sign)) s = .next (trap s 5 a 0x0011) ∧
      exec (.accessFault d (.store a w v)) s = .next (trap s 7 a 0x0011)) ∧
    (0x40000 < a + 2 → (a < 0x1000000000 ∨ 0x1000000000 + s.scratchSize p < a + 2) →
      exec (.accessFault d (.fetch a)) s = .next (trap s 1 a 0x0011)) ∧
    (a + w ≤ 0x40000 → may .load → exec (.accessFault d (.load rd a w sign)) s = .next (s.retire d rd (extend w sign (x.dlm.rdLe a w)))) ∧
    (a + w ≤ 0x40000 → may .store → exec (.accessFault d (.store a w v)) s =
      .next ((s.upDisp d fun x => { x with dlm := x.dlm.wrN a (leBytes w v.toNat) }).retire d 0 0)) ∧
    (0x1000000000 ≤ a → a + w ≤ 0x1000000000 + s.scratchSize p → may .load →
      (s.slmBadAt p o w = [] → exec (.accessFault d (.load rd a w sign)) s =
        .next (s.retire d rd (extend w sign ((s.pt p).live.slm.rdLe o w)))) ∧
      (∀ u us, s.slmBadAt p o w = u :: us → exec (.accessFault d (.load rd a w sign)) s =
        .next (trap (s.meetSlmBad p u) 5 (0x1000000000 + 8 * u) 0x0050))) ∧
    ((∀ y, op ≠ .write y) → c ∈ ([0x800, 0x802, 0x803, 0x804, 0x808, 0x809] : List Nat) →
      exec (.accessFault d (.csr rd c op)) s = .next (trap s 2 0 0x0011)) ∧
    (exec (.accessFault d (.csr rd 0xcc0 (.set none))) s = .next (s.retire d rd s.mgmt.beat) ∧
      exec (.accessFault d (.csr rd 0xcc0 (.write v))) s = .next (trap s 2 0 0x0011) ∧
      exec (.accessFault d (.csr rd 0x801 (.write v))) s =
        .next ((s.upDisp d fun x => { x with mboxData := v }).retire d rd x.mboxData.toNat)) ∧
    (bits x.tktSel.toNat 13 0 / 4096 < s.k → (s.pt p).live.tktBad = [] → exec (.accessFault d (.csr rd 0x806 (.set none))) s =
      .next (s.retire d rd ((s.pt p).live.ticket (bits x.tktSel.toNat 13 0)).value.toNat)) ∧
    (s.k ≤ bits x.tktSel.toNat 13 0 / 4096 → exec (.accessFault d (.csr rd 0x806 (.set none))) s = .next (trap s 5 0 0x0011))) ∧
  (∀ (x : Disp) (cause tval : Nat),
    let t := x.trap false cause tval
    t.mepc = x.pc ∧ t.mcause = BitVec.ofNat 64 cause ∧ t.mtval = BitVec.ofNat 64 tval ∧ t.umode = false ∧
    t.pc = BitVec.ofNat 64 (x.mtvec.toNat / 4 * 4) ∧ t.mstatus.toNat.testBit 3 = false ∧
    t.mstatus.toNat.testBit 7 = x.mstatus.toNat.testBit 3 ∧ t.mstatus.toNat.testBit 12 = !x.umode ∧ t.x = x.x ∧ t.dlm = x.dlm) ∧
  (∀ (s : State) (d : Nat), HartRuns s d →
    let x := s.disp d
    let pc := x.pc.toNat
    let h := x.dlm.rdLe pc 2
    pc + 2 ≤ 0x40000 → x.pmpAllows pc 2 .fetch = true →
    (h % 4 ≠ 3 → ∀ i, Rv.decode16 h = some i → exec (.accessFault d .run) s =
      .next (((s.upDisp d fun y => { y with len := 2 }).rvExec d i).upDisp d fun y => { y with len := 4 })) ∧
    (h % 4 ≠ 3 → Rv.decode16 h = none → exec (.accessFault d .run) s = .next (s.hartTrap d 2 0 0x0011)) ∧
    (h % 4 = 3 → pc + 4 ≤ 0x40000 → x.pmpAllows (pc + 2) 2 .fetch = true →
      (∀ i, Rv.decode32 (x.dlm.rdLe pc 4) = some i → exec (.accessFault d .run) s = .next (s.rvExec d i)) ∧
      (Rv.decode32 (x.dlm.rdLe pc 4) = none → exec (.accessFault d .run) s = .next (s.hartTrap d 2 0 0x0011)))) ∧
  (∀ (s : State) (d rd rs1 rs2 : Nat) (op : Rv.Alu) (f : W64 → W64 → W64),
    (op, f) ∈ ([(.add, fun a b => a + b), (.sub, fun a b => a - b), (.xor, fun a b => a ^^^ b), (.or, fun a b => a ||| b),
      (.and, fun a b => a &&& b), (.sll, fun a b => a <<< (b.toNat % 64)), (.srl, fun a b => a >>> (b.toNat % 64)),
      (.sra, fun a b => a.sshiftRight (b.toNat % 64)), (.slt, fun a b => if a.slt b then 1 else 0),
      (.sltu, fun a b => if a.ult b then 1 else 0), (.mul, fun a b => a * b), (.div, fun a b => if b = 0 then -1 else a.sdiv b),
      (.divu, fun a b => if b = 0 then -1 else a / b), (.rem, fun a b => a.srem b), (.remu, fun a b => a % b)] :
        List (Rv.Alu × (W64 → W64 → W64))) →
    let x := s.disp d
    s.rvExec d (.alu op false rd rs1 (.reg rs2)) = s.retire d rd (f (Tbl.get 0 x.x rs1) (Tbl.get 0 x.x rs2)).toNat) ∧
  (∀ (s : State) (d rd : Nat) (v : W64), Tbl.ok 0 (s.disp d).x = true →
    let x := s.disp d
    let y := (s.retire d rd v.toNat).disp d
    (∀ n, Tbl.get 0 y.x n = if n = rd % 32 ∧ n ≠ 0 then v else Tbl.get 0 x.x n) ∧
      y.pc = x.pc + x.len ∧ y.stall = none ∧ y.dlm = x.dlm ∧ y.f = x.f ∧ y.umode = x.umode ∧ y.mstatus = x.mstatus) ∧
  ∀ (s : State) (d : Nat) (k : DispFault), s.mgmt.powerGood = true → d < 16 → s.present (s.dispPos d).1 = true →
    (s.pt (s.dispPos d).1).job ≠ .noJob →
    exec (.dispatcherFault d k) s =
      .next ((s.upDisp d fun x => { x with stopped := true }).wantRollback (s.dispPos d).1 5)

/-! ### Tiers, sequences and steps -/

/-- The tier request queue (R234 to R236, R244). A write of TAIL stops the queue when it overruns it. While an entry waits, a row of
its kind carries out each of its pages and HEAD advances; an entry that R235 refuses whole raises ERRORS and TIER_REQUEST_ERROR.
At most 64 entries are consumed in a beat (R238).
What a page's own rows do (R228, R229, R233, R237, R238, R244, R245): a fetch whose page has been read whole ends and leaves the page resident and clean, the oldest
demand fetch first; a placement move takes a frame of the preferred stack, one in a beat for each base die; a cap whose last write pin is
gone takes effect and has an HBM page's image written once, a DEMOTING page's demotion being that write.
Rests on log entries 48, 132, 158. -/
def Obligations.TierRequestsAndPages : Prop :=
  (∀ (s : State) (p : Nat) (tail : W64), s.mgmt.powerGood = true →
     let q := s.pt p
     let e := q.trqEntry
     let d := sdiff tail.toNat ((s.setSlm64 p q.info.trqBase tail.toNat).pt p).trqHead
     let s1 := s.setSlm64 p q.info.trqBase tail.toNat
     let next := fun (t : State) => (t.setSlm64 p ((t.pt p).info.trqBase + 8) (((t.pt p).trqHead + 1) % 2 ^ 64)).upPt p fun x =>
       { x with trqTaken := x.trqTaken + 1 }
     (q.job ≠ .noJob →
       exec (.tierRequestTailWrite p tail) s = .next (
         if (((s1.pt p).info.trqEntries : Nat) : Int) < d then
           (s1.trqError p tail.toNat (s1.pt p).trqHead).upPt p fun x => { x with trqStop := true }
         else if 0 ≤ d then s1.upPt p fun x => { x with trqStop := false } else s1)) ∧
     (64 ≤ q.trqTaken → ∀ c ∈ [Instr.prefetch p, .cap p, .demote p], exec c s = .next s) ∧
     (q.trqReady = true → s.awake p = true → q.entryBad e = true →
       ∀ c ∈ [Instr.prefetch p, .cap p, .demote p], exec c s = .next (next (s.trqError p e q.trqHead))) ∧
     (q.trqReady = true → s.awake p = true → q.entryBad e = false →
       (bits e 3 0 = 1 → exec (.prefetch p) s = .next (next ((entryPages e).foldl
         (fun t n => if (t.page p n).state = 2 then t.upPage p n fun g => { g with promo := 1 } else t) s))) ∧
       (bits e 3 0 = 2 → exec (.cap p) s = .next (next ((entryPages e).foldl
         (fun t n => if (t.page p n).capped then t else if (t.page p n).wpins = 0 then t.capPage p n
           else t.upPage p n fun g => { g with capWait := true }) s))) ∧
       (bits e 3 0 = 3 → exec (.demote p) s = .next (next ((entryPages e).foldl
         (fun t n => if (t.page p n).pins + (t.page p n).opins = 0 then t.upPage p n fun g => { g with demote := true } else t) s))))) ∧
  (∀ (s : State) (p n : Nat), s.mgmt.powerGood = true →
     let g := s.page p n
     let pref := n % (3 * s.k)
     (g.state = 4 → g.drop = false → g.lost = false → g.capWrite = false → s.fld rStoHealth 0 0 3 0 ≠ 5 → (s.pt p).dispatches = true → (s.pt p).fetchNext n = true →
       g.got = 262144 → s.imgReadable g.img = true → exec (.demandFetchDone p n) s = .next (
         let t := (s.upPage p n fun g => { g with state := 3, fetching := false, bursts := 0, got := 0 }).upPt p fun q =>
           { q with fetchQ := q.fetchQ.filter fun x => x.2 != n }
         ({ t with store := { t.store with ended := Tbl.upd 0 t.store.ended p (· + 1) } } : State).tally fun t =>
           { t with stoRd := t.stoRd + 262144 })) ∧
     (g.got < 262144 → exec (.demandFetchDone p n) s = .next s) ∧
     (((s.pt p).fetchQ.any fun x => x.2 == n) = true → (s.pt p).fetchNext n = false → exec (.demandFetchDone p n) s = .next s) ∧
     (g.move = true → (s.pt p).dispatches = true → g.framed = true → g.pins = 0 → g.opins = 0 → g.cow = false → g.drop = false →
       0 < s.stackFree p pref → Tbl.get 0 (s.pt p).moved (pref / 3) = 0 →
       (s.badOf p n = [] → exec (.placementMoveDone p n) s = .next (
         (s.takeFrame p n pref fun g => { g with move := false, bursts := 0 }).upPt p fun q => { q with moved := Tbl.put q.moved (pref / 3) 1 })) ∧
       (∀ u us, s.badOf p n = u :: us → exec (.placementMoveDone p n) s = .next (s.meetBad p u))) ∧
     (g.capWait = true → g.wpins = 0 → g.capped = false → g.state ≠ 0 →
       exec (.capTakesEffect p n) s = .next (
         let t := s.upPage p n fun g => { g with capped := true, capWait := false, touched := true, capWrite := g.state == 1 || g.state == 5 }
         if g.state = 1 ∨ g.state = 5 then t.storeWrite p n 3 else t)) ∧
     ((s.store.writes.any fun w => w.p == p && w.n == n && !w.snap) = false →
       s.storeWrite p n 3 = { s with store := { s.store with writes := s.store.writes ++ [{ p := p, n := n, cls := 3 }] } }))

/-- Sequence edits (R167, R168): a request of an idle sequence is taken, REQ reads 0, BUSY is set and DROPPED cleared; one of a busy
sequence sets DROPPED. A walk that finds a fault, or more than 4,096 new blocks, ends the edit, and a leave that waited for it is requested; otherwise
it is valid with its new blocks noted, and word 3 shows them.
Rests on log entries 132, 149. -/
def Obligations.SequenceEditRows : Prop :=
  ∀ (s : State) (p n : Nat) (w : W64), s.mgmt.powerGood = true → (s.pt p).job ≠ .noJob → n < (s.pt p).info.seqEntries →
    let off := (s.pt p).seqOff n + 16
    let s1 := s.setSlm64 p off w.toNat
    let empty := bits w.toNat 1 1 == 1 && bits w.toNat 47 12 == 0 && bits w.toNat 63 48 == 0 && bits w.toNat 11 2 == 0
    let ed : Edit := { word := w, valid := empty }
    (w.toNat % 2 = 0 → exec (.seqEditRequest p n w) s = .next s1) ∧
    (w.toNat % 2 = 1 → (s1.seqOf p n).edit.isSome = true → exec (.seqEditRequest p n w) s = .next (
      ((s1.setSlm64 p ((s1.pt p).seqOff n + 16) (setBits w.toNat 0 0 0)).upSeq p n fun q => { q with dropped := true }).syncSeq p n)) ∧
    (w.toNat % 2 = 1 → (s1.seqOf p n).edit = none → exec (.seqEditRequest p n w) s = .next (
      ((s1.setSlm64 p ((s1.pt p).seqOff n + 16) (setBits w.toNat 0 0 0)).upSeq p n fun q => { q with dropped := false, edit := some ed }).syncSeq p n)) ∧
    ∀ e : Edit, (s.seqOf p n).edit = some e → e.valid = false →
      let stop := fun (r b : Nat) =>
        ((s.upSeq p n fun q => { q with edit := none, result := r, newBlocks := b % 65536 }).syncSeq p n).leaveNow p n
      let root := bits e.word.toNat 47 12
      (bits e.word.toNat 63 48 ≠ 0 ∨ bits e.word.toNat 11 1 ≠ 0 ∨ (s.pt p).validate root = .malformed →
        exec (.editValidated p n) s = .next (stop 0x0204 0)) ∧
      ∀ bs, bits e.word.toNat 63 48 = 0 → bits e.word.toNat 11 1 = 0 → (s.pt p).validate root = .ok bs →
        exec (.editValidated p n) s = .next (if 4096 < bs.length then stop 0x0012 bs.length
          else (s.upSeq p n fun q => { q with edit := some { e with valid := true, blocks := bs }, newBlocks := bs.length }).syncSeq p n)

/-- A STEP from its start to its entry point (R246 to R248, R341, R346, R347): its descriptor starts with the manifest; at beat O the held
pages return, leaves are requested, each entry of the manifest gets its status, and the frames that its reservations need are asked for. The
manifest with its statuses is copied to the scratchpad once; the entry point starts at the boundary that ends O without a reservation list, and otherwise at O + 5 once the reservations are made,
from the frames free at the boundary that ends O + 4, each granted whole or refused whole in the manifest's order. An entry that was
granted before a rollback waits until it can be granted again; at a first opening none waits.
Rests on log entries 47, 104. -/
def Obligations.StepOpensAndEnters : Prop :=
  (∀ (s : State) (p n : Nat) (d : ADesc) (m : Option (List W64)) (ws : List W64), s.mgmt.powerGood = true → s.starts p n 2 d → (s.pt p).job = .running →
    (s.pt p).step = none → d.ready ≠ 0 →
    (∀ x ∈ (s.pt p).descs, x.done = true ∨ x.ready = 0 ∨ x.start.isSome = true ∨ d.ready ≤ x.ready) →
    bits (d.w 2) 15 0 < (s.pt p).info.entries.length → bits (d.w 5) 63 32 + 16 * bits (d.w 5) 12 0 ≤ s.scratchSize p →
    (m = some ws ∧ ws.length = 2 * bits (d.w 5) 12 0 ∧ ws ≠ [] ∨ bits (d.w 5) 12 0 = 0 ∧ ws = []) →
    let t : StepSt := { sq := d.sq, seq := d.seq, start := s.mgmt.beat, entry := bits (d.w 2) 15 0, arg := BitVec.ofNat 64 (d.w 3),
                        manAddr := d.w 4, manSpad := bits (d.w 5) 63 32, count := bits (d.w 5) 12 0, manifest := ws }
    exec (.step p n m) s = .next ((s.started p d).upPt p fun q => { q with step := some t })) ∧
  (∀ (s : State) (p : Nat) (t : StepSt), s.mgmt.powerGood = true → (s.pt p).step = some t → t.opened = none → t.start < s.mgmt.beat →
    (s.pt p).job = .running → (s.pt p).paused = none → (∀ c, (s.pt p).col.cutAfter = some c → (s.pt p).stepNo < c) →
    let es := manEntries t.manifest
    let s1 := (s.returnHeld p).readLists p es
    let a := es.foldl ((s1.pt p).manEntry (s1.scratchSize p)) {}
    let old := ((s1.pt p).findDesc t.sq t.seq).bind fun d => d.outcomes
    let outs := (a.out.zip (List.range es.length)).map fun x => keptOutcome (old.bind fun l => l[x.2]?) x.1
    let s2 := (es.zip (a.out.zip outs)).foldl (fun x e =>
      if manRole e.1 = 3 ∧ e.2.1 = some 0 ∧ e.2.2 = some 0 then x.leaveSeq p (manSeq e.1) else x) s1
    let t2 := { t with opened := some s2.mgmt.beat, resv := es.any fun e => manCount e != 0,
                       statuses := outs.map fun o => o.getD 0xffff }
    let s3 := s2.upPt p fun q => { q with
      need := (es.zip outs).foldl (fun n e => if e.2.isNone then n + manCount e.1 else n) 0, stepNo := q.stepNo + 1, step := some t2, col := if s2.grouped p then { q.col with trig := [] } else q.col }
    exec (.stepOpen p) s = .next (if t2.resv = true then s3 else s3.copyManifest p t2)) ∧
  (∀ (s : State) (p o : Nat) (t : StepSt), (s.pt p).step = some t → t.opened = some o → t.resv = false → t.entered = false →
    (s.pt p).paused = none → (s.pt p).job = .running → s.enterDue p = s.enterStep p) ∧
  (∀ (s : State) (p o : Nat) (t : StepSt), s.mgmt.powerGood = true → (s.pt p).step = some t → t.opened = some o →
    t.resv = true → t.entered = false → (s.pt p).paused = none → (s.pt p).job = .running →
    let room := t.frames.getD (s.freeFrames p)
    let es := (manEntries t.manifest).zip t.statuses
    let old := ((s.pt p).findDesc t.sq t.seq).bind fun d => d.outcomes
    let granted := fun (s1 : State) (sts : List Nat) =>
      ((s1.upPt p fun q => { q with need := 0, step := some { t with statuses := sts } }).copyManifest p { t with statuses := sts }).enterStep p
    (s.since o < 5 → exec (.reservation p) s = .next s) ∧
    (5 ≤ s.since o → old = none → ∃ s1 sts, s.reserve p room none 0 es = some (s1, sts) ∧ sts.length = es.length ∧
      exec (.reservation p) s = .next (granted s1 sts)) ∧
    (5 ≤ s.since o → ∀ s1 sts, s.reserve p room old 0 es = some (s1, sts) → exec (.reservation p) s = .next (granted s1 sts)) ∧
    (5 ≤ s.since o → s.reserve p room old 0 es = none → exec (.reservation p) s = .next s)) ∧
  ∀ (s : State) (p room i st : Nat) (e : W64 × W64) (rest : List ((W64 × W64) × Nat)),
    let pages := ((s.pt p).resvWords e).map fun w => bits w 47 18
    let fits := s.canCharge p pages.length = true ∧ pages.length ≤ room ∧ pages.length ≤ s.freeFrames p
    (st ≠ 0xffff → s.reserve p room none i ((e, st) :: rest) = (s.reserve p room none (i + 1) rest).map fun r => (r.1, st :: r.2)) ∧
    (st = 0xffff → fits → s.reserve p room none i ((e, st) :: rest) =
      ((pages.foldl (fun s n => s.grantPage p n) (s.charge p pages.length)).reserve p (room - pages.length) none (i + 1) rest).map
        fun r => (r.1, 0 :: r.2)) ∧
    (st = 0xffff → ¬ fits → s.reserve p room none i ((e, st) :: rest) =
      (s.reserve p room none (i + 1) rest).map fun r => (r.1, 1 :: r.2))

/-! ### Registers of the management function -/

/-- The registers of PF0 whose writes the change log records (R24, R242, R251, R278, R325, R381, R384, R451, R518 to R522, R533, R534,
R537, R540, R578): an accepted write takes effect with its entry in the log; while no entry can be made durable (the store
is not mounted or has FAILED) the write leaves the register unchanged, RESULT, where there is one, reads RESOURCE_HELD, and
SEC_LOG_REFUSED reports it. A write of a 64-bit register drops a low half that waits for its high half (R11).
Rests on log entries 25, 49, 90. -/
def Obligations.LoggedRegisterWrites : Prop :=
  ∀ (s : State) (p : Nat) (v : W64) (w : W32), s.mgmt.powerGood = true → p < s.parts → p < 4 →
    let x := v.toNat
    let y := w.toNat
    let wroteTo := fun (u : State) (what old new : Nat) (f refuse : State → State) => (Host.Outcome.next (
      if s.store.mounted = true ∧ s.fld rStoHealth 0 0 3 0 ≠ 5 then (f (u.logChange what 0 old new)).noteSetting what
      else refuse (u.logRefused what)) : Res)
    let wrote := wroteTo s
    (exec (.memCutTake p v) s = wroteTo (s.unstage rMemCutPtn 0 p) (0x501080 + 8 * p) (s.rd rMemCutPtn 0 p) (bits x 16 16 * 65536 + bits x 7 0)
      (fun t =>
        let t := t.setFld rMemCutPtn 0 p 7 0 (bits x 7 0)
        if bits x 16 16 = 1 then t.upPt p fun q => { q with cutTake := some t.mgmt.beat } else t) id) ∧
    (bits x 31 0 ≤ bits x 63 32 → (s.wr rMemPoolPtn 0 p x).poolSum p 0 ≤ s.fld rMemPoolSize 0 0 31 0 →
      exec (.memPoolPtnWrite p v) s = wroteTo (s.unstage rMemPoolPtn 0 p) (0x501010 + 8 * p) (s.rd rMemPoolPtn 0 p) x
        (fun t => (t.wr rMemPoolPtn 0 p x).setFld rMemPoolResult 0 0 15 0 0) fun t => t.setFld rMemPoolResult 0 0 15 0 0x0020) ∧
    (s.fld rMemSlmSplitPtn 0 p 15 15 = 0 → bits y 11 8 + bits y 7 4 + bits y 3 0 = 12 → (s.pt p).job = .noJob →
      (∀ e ∈ (s.pt p).live.codec, e.2.state ≠ 1) →
      exec (.memSlmSplitWrite p w) s = wrote (0x500000 + 8 * p) (s.rd rMemSlmSplitPtn 0 p) (bits y 11 0)
        (fun t => (t.setFld rMemSlmSplitPtn 0 p 15 15 1).upPt p fun q => { q with splitNew := some (bits y 11 0) })
        fun t => t.setFld rMemSlmSplitPtn 0 p 31 16 0x0020) ∧
    (s.fld rMgtReset 0 0 15 15 = 0 → bits y 3 0 ≠ 0 → (∀ q < 4, bits (bits y 3 0) q q = 1 → s.present q = true) → s.shapeBusy = false →
      exec (.mgtResetWrite w) s = wrote 0x408 0 (bits y 3 0)
        (fun t => (List.range 4).foldl
          (fun t q => if bits (bits y 3 0) q q = 1 ∧ (t.pt q).func ≠ .discarding then t.wantRollback q 9 else t)
          (let t := (t.setFld rMgtReset 0 0 15 15 1).setFld rMgtReset 0 0 31 16 0
           { t with mgmt := { t.mgmt with resetMask := bits y 3 0 } }))
        fun t => t.setFld rMgtReset 0 0 31 16 0x0020) ∧
    (s.shapeBusy = false → bits y 1 0 ≠ 3 →
      exec (.mgtPtnShapeWrite w) s = wrote 0x200 (s.rd rMgtPtnShape 0 0) (bits y 1 0)
        (fun t => { t.setFld rMgtPtnShape 0 0 1 0 (bits y 1 0) with
          mgmt := { t.mgmt with shapeReq := some (bits y 1 0, t.mgmt.beat) } })
        fun t => t.setFld rMgtPtnShape 0 0 23 8 0x0020) ∧
    (1400 ≤ bits x 15 0 → bits x 15 0 ≤ bits x 31 16 → bits x 31 16 ≤ bits x 47 32 → bits x 15 0 ≤ 2800 → bits x 31 16 ≤ 3300 →
      bits x 47 32 ≤ 3600 →
      exec (.pwrLimitsWrite v) s = wroteTo (s.unstage rPwrLimits 0 0) 0x100000 (s.fld rPwrLimits 0 0 47 0) (bits x 47 0)
        (fun t => (t.setFld rPwrLimits 0 0 47 0 x).setFld rPwrLimits 0 0 63 48 0) fun t => t.setFld rPwrLimits 0 0 63 48 0x0020) ∧
    (2400 ≤ bits y 15 0 → bits y 15 0 ≤ 3600 → bits y 15 0 % 25 = 0 →
      exec (.pwrCeilingWrite w) s = wrote 0x100008 (s.fld rPwrCeiling 0 0 15 0) (bits y 15 0)
        (fun t => (t.setFld rPwrCeiling 0 0 15 0 (bits y 15 0)).setFld rPwrCeiling 0 0 31 16 0)
        fun t => t.setFld rPwrCeiling 0 0 31 16 0x0020) ∧
    (let new := setBits (setBits (s.rd rPwrPtnState 0 p) 31 16 (bits y 31 16)) 9 8 (bits y 9 8)
     exec (.pwrPtnStateWrite p w) s = wrote (0x100040 + 8 * p) (s.rd rPwrPtnState 0 p) new (fun t => t.wr rPwrPtnState 0 p new) id) ∧
    (bits y 0 0 = 1 → s.l4Held = false → exec (.l4Req w) s = wrote 0x100060 0 1
      (fun t => { t with mgmt := { t.mgmt with l4Req := some t.mgmt.beat } }.setFld rPwrModule 0 0 31 16 0)
      fun t => t.setFld rPwrModule 0 0 31 16 0x0020) ∧
    (sum6 x = 64 → exec (.lnkVcwWrite v) s = wroteTo (s.unstage rLnkVcw 0 0) 0x300018 (s.rd rLnkVcw 0 0 % 2 ^ 42) (x % 2 ^ 42)
      (fun t => (t.setFld rLnkVcw 0 0 41 0 x).setFld rLnkVcw 0 0 63 48 0) fun t => t.setFld rLnkVcw 0 0 63 48 0x0020) ∧
    (s.shareOver p x = false → exec (.lnkSluiceWrite p v) s = wroteTo (s.unstage rLnkSluicePtn 0 p) (0x300020 + 8 * p) (s.rd rLnkSluicePtn 0 p % 2 ^ 42) (x % 2 ^ 42)
      (fun t => (t.setFld rLnkSluicePtn 0 p 41 0 x).setFld rLnkSluicePtn 0 p 63 48 0) fun t => t.setFld rLnkSluicePtn 0 p 63 48 0x0020) ∧
    (s.standsFor 23 = 31 → s.standsFor 24 = 31 →
      exec (.lnkSpareWrite w) s = wrote 0x300010 (s.fld rLnkSpare 0 0 1 0) (bits y 0 0 + 2 * bits y 1 1)
        (fun t => (t.setFld rLnkSpare 0 0 1 0 (bits y 0 0 + 2 * bits y 1 1)).setFld rLnkSpare 0 0 31 16 0)
        fun t => t.setFld rLnkSpare 0 0 31 16 0x0020) ∧
    (let new := setBits (setBits (s.rd rMemBuddyPtn 0 p) 47 31 (bits x 47 31)) 0 0 x
     bits (s.rd rMemBuddyPtn 0 p) 0 0 = 0 → (bits x 0 0 = 1 → s.otherMember (bits new 47 36) = true ∧ 2 ≤ bits new 33 31) →
      (s.pt p).job = .noJob →
      exec (.memBuddyWrite p v) s = wroteTo (s.unstage rMemBuddyPtn 0 p) (0x5010C0 + 8 * p) (s.rd rMemBuddyPtn 0 p) new
        (fun t => (t.wr rMemBuddyPtn 0 p (setBits new 2 1 (bits x 0 0))).setFld rMemBuddyPtn 0 p 63 48 0)
        fun t => t.setFld rMemBuddyPtn 0 p 63 48 0x0020) ∧
    (bits y 1 0 ≠ 3 → (bits y 1 0 = 0 ∨ s.fld rMgtSb3 0 0 1 0 = 0 ∨ bits y 1 0 = s.fld rMgtSb3 0 0 1 0) →
      exec (.mgtSb3Write w) s = wrote 0x700 (s.fld rMgtSb3 0 0 1 0) (bits y 1 0)
        (fun t => { t with mgmt := { t.mgmt with sb3Req := some (bits y 1 0, t.mgmt.beat) } }.setFld rMgtSb3 0 0 31 16 0)
        fun t => t.setFld rMgtSb3 0 0 31 16 0x0020)

/-! ### Cuts, the store and the memories -/

/-- The course of a cut (R252, R253, R258, R261, R303, R304, R345, R448). Two beats after issue stopped, with nothing in flight and the
codec engines stopped, the job state of the boundary is saved, the dirty pages and the save copy go to the flush, and issue resumes,
unless a suspension holds it. Once every page of
the flush is written the cut record is sent to the journal; once that is acknowledged, and while the store can be written, the cut is durable: DONE takes its beat and CUT_DURABLE is raised, and after the initial cut JOB_OPEN completes. A member's group cut is
taken before its next STEP.
Rests on log entries 48, 58, 99. -/
def Obligations.CutCourse : Prop :=
  (∀ (s : State) (p : Nat) (m : Nat × Nat × Tbl Nat), s.mgmt.powerGood = true → (s.pt p).cutMark = some m → (s.pt p).cutPhase = .saving → m.1 + 2 ≤ s.mgmt.beat →
    (s.pt p).paused.isSome = true →
    (s.pt p).drained = true → (s.pt p).enginesStopped = true →
    let dirty := ((s.pt p).live.pages.filter fun e => e.2.dirty && e.2.state != 0 && (s.pt p).kind e.1 != 2).map (·.1)
    let s1 := s.upJob p fun j => { j with pages := j.pages.map fun e =>
      (e.1, { e.2 with touched := false, cow := e.2.cow || dirty.contains e.1 }) }
    let s2 := dirty.foldl (fun t n => t.storeWrite p n 3) s1
    let s3 := s2.upPt p fun q => { q with
      pend := some (s.image p m), cutMark := none, flushed := 0, saveLeft := 4160 * s2.k, cutSent := false }
    let s4 := s3.setCutPhase p .flushing
    let held := (s.pt p).job = .suspending ∨ (s.pt p).job = .suspended ∨ (s.pt p).job = .resuming
    exec (.cutSaveDone p) s = .next (if held then s4 else s4.unpause p)) ∧
  (∀ (s : State) (p : Nat), (s.pt p).cutPhase = .flushing → (s.pt p).cutSent = false → s.flushOver p = true → s.storeWritable = true →
    s.sendCut p = (s.upPt p fun q => { q with cutSent := true }).sendRecord (.cut p) [((s.pt p).pend.map (·.beat)).getD 0]) ∧
  (∀ (s : State) (p : Nat), s.mgmt.powerGood = true → s.store.records.contains (.cut p) = true ∨ s.storeWritable = false →
    exec (.cutDurable p) s = .next s) ∧
  (∀ (s : State) (p : Nat) (img : CutImg), s.mgmt.powerGood = true → (s.pt p).pend = some img → (s.pt p).cutPhase = .flushing →
    (s.pt p).cutSent = true → s.store.records.contains (.cut p) = false → s.storeWritable = true →
    let n := (s.pt p).flushed
    let s1 := { s with store := { s.store with lastFlush := Tbl.set 0 s.store.lastFlush p (if s.mirroring p then 0 else n) } }
    let s2 := s1.upPt p fun q => Ptn.forget { q with
      pend := none, cutSent := false, durable := some { img with bytes := n }, targetLost := false, 
      older := if s1.grouped p = true ∧ q.groupG < img.stepNo then q.keptCuts else [],
      sqs := q.sqs.map fun (e : Nat × Sq) => (e.1, { e.2 with durable := Tbl.get 0 img.ringDone e.1 }) } img
    let s3 := (((s2.setCutPhase p .idle).wr rMemCutDonePtn 0 p img.beat).raiseP p 0x111 img.beat n).tally fun t =>
      { t with cuts := t.cuts + 1 }
    let s4 := (s3.upPt p fun q => { q with cutInit := false, cutEpoch := img.beat / 2 ^ 20 }).setJob p .running
    exec (.cutDurable p) s = .next (
      if (s3.pt p).cutInit then
        match (s4.pt p).descs.find? fun d => d.opcode == 1 && d.start.isSome && !d.done with
        | some d => s4.finish p d 0 0 img.beat 0
        | none => s4
      else s3)) ∧
  (∀ (s : State) (p n : Nat), s.mgmt.powerGood = true → (s.pt p).col.cutAfter = some n → (s.pt p).col.judged ≠ s.mgmt.beat →
    (s.pt p).job = .running →
    (s.pt p).paused = none → (s.pt p).func = .ready → (s.pt p).step = none → n ≤ (s.pt p).stepNo → s.cutOpen p = false →
    (s.pt p).newestCut ≤ (s.pt p).groupG → s.queuesDrained p = true →
    let s1 := s.upCol p fun c => { c with cutAfter := none }
    exec (.groupCut p) s = .next (((s1.upPt p fun q => { q with cutEpoch := s1.epoch }).buddyBack p).takeCut p s1.lastBeat))

/-- What ends a store write and a stripe, and acknowledges a journal record (R243, R245, R252, R255, R258, R289, R302, R303, R333): the
image, which becomes the page's home and, of a flush, the cut's, frees the frame of a demoted page; one of the flush clears CUT_COW and
an HBM page whose image stands is BOTH and clean; a page that the forager cannot read on its way to the buddy keeps its state. A stripe that is
not full two beats after its first unit is closed with padding; a record that the journal buffer has room for is acknowledged in order, one of
a mirrored partition only once its buddy has it as well (R452).
Rests on log entries 24, 48, 158, 160. -/
def Obligations.StoreWriteRows : Prop :=
  ∀ (s : State) (p n : Nat) (w : SWrite) (r : JRec) (rest : List JRec), s.mgmt.powerGood = true →
    let flush := decide (2 ^ 40 ≤ w.n) || w.snap || (s.page w.p w.n).cow
    let s1 := { s with store := { s.store with
      writes := s.store.writes.erase w, ended := Tbl.upd 0 s.store.ended w.p (· + 1) } }
    let s2 := if w.snap then s1 else s1.upPage p n fun g => { g with img := w.img.getD 0 }
    let s3 := if flush then s2.upPt p fun q => { q with pend := q.pend.map fun c =>
        { c with data := c.data.upPage n fun g => { g with img := w.img.getD 0 } } } else s2
    let s4 := if w.snap then s3.upPage p n fun g => { g with snap := none }
      else if (s.page p n).state = 5 then
        s3.upPage p n fun g => { g.unframe 2 with cow := false, dirty := false, capWrite := false, evicted := true }
      else s3.upPage p n fun g => { g with cow := false, capWrite := false, dirty := false, state := if g.state = 1 then 3 else g.state }
    let s5 := if flush then s4.upPt p fun q => { q with flushed := q.flushed + 262144 }
      else { s4 with store := { s4.store with other := Tbl.set 0 s4.store.other p (Tbl.get 0 s4.store.other p + 262144) } }
    let s6 := if flush ∧ s.mirroring p then s5
      else s5.tally fun t => { t with stoWr := t.stoWr + 262144 }
    ((s.store.writes.find? fun x => x.p == p && x.n == n && s.writeDone x) = some w → s.storeWritable = true →
      (∀ u us, s.mirrorBad w = u :: us → exec (.storeWriteAck p n) s = .next (s.meetBad p u)) ∧
      (s.mirrorBad w = [] → exec (.storeWriteAck p n) s = .next (
        if (3600 ≤ s6.avgPe ∨ (s6.store.spares.any fun e => e.2.2 == 0) ∨ s6.store.journalSpare = 0) ∧ s6.storeWritable then
          s6.setStoreState fun t => t.setFld rStoHealth 0 0 3 0 4 else s6))) ∧
    (∀ k t, s.store.nand.openStripe = some (k, t) → 2 < s.since s.store.stripeBeat → exec .stripeClose s = .next (s.upNand fun x =>
      { x with stripes := Tbl.put x.stripes k { t with
        units := t.units ++ List.replicate (t.width - t.units.length) none, closed := true } })) ∧
    (s.canLog = true → s.store.records = r :: rest → s.store.buffered + 64 ≤ 134217728 →
      let t := { s with store := { s.store with records := rest, buffered := s.store.buffered + 64 } }
      (s.buddyHas r = false → exec .journalRecordAck s = .next s) ∧
      (s.buddyHas r = true →
        (∀ q m, r = .accept q m → exec .journalRecordAck s = .next (s.accept q m)) ∧
        (∀ q, r = .completion q → exec .journalRecordAck s = .next (t.refreshReady q)) ∧
        ((∀ q m, r ≠ .accept q m) → (∀ q, r ≠ .completion q) → exec .journalRecordAck s = .next t)))

/-- The ladder of a store read (R288 to R293, R442). The first step that decodes gives the unit, step 1 without a count, step 2 with the
threshold set that the block then keeps, step 3 by the soft decision, both counted RETRIED; else the other 15 units of its stripe rebuild
it, counted REBUILT, and a second unit of the block in its cycle retires the block; and where one of them reads nothing, the page loses
its image, which is counted and raises STORE_UNRECOVERABLE. A decode is four codewords of 4,096 data bytes, 32 metadata bytes and 420
parity bytes whose CRC-32C is the unit's.
Rests on log entry 158. -/
def Obligations.StoreReadLadder : Prop :=
  (∀ (d i : Bytes), d.length = 4096 → i.length = 32 → (Config.ldpcParity (d ++ i)).length = 420 → isCodeword (codeword d i) = true) ∧
  (∀ (n pos seq e : Nat) (cws : List Bytes), decodes (some (n, pos, seq)) (.words cws e) = true →
    cws.length = 4 ∧ (∀ c ∈ cws, c.length = 4548) ∧
      leNat (((cws.headD []).drop 4096).take 4) = (unitCrc (cws.flatMap fun c => c.take 4096) n pos seq).toNat) ∧
  ∀ (s : State) (p n unit : Nat) (u : Nat × Nat) (t : Stripe) (r : LadderIn), s.mgmt.powerGood = true → unit < 16 →
    s.present p = true → s.store.mounted = true → (Tbl.get {} s.store.nand.imgs (s.page p n).img).units[unit]? = some u →
    Tbl.find s.store.nand.stripes u.1 = some t →
    let m := t.pkgOf u.1 u.2
    let b := s.store.nand.block m t.blk
    let k := stepOf r.unit (s.store.nand.unitId t u.2) b.thresholds
    let tried := s.setFld rStoErr 0 0 63 32 (satAdd (2 ^ 32 - 1) (s.fld rStoErr 0 0 63 32) 1)
    let steps := ((t.others u.1 u.2).zip (r.others ++ List.replicate 15 ({} : UnitReads))).map fun x =>
      if s.store.rebuild.contains x.1.1 then 0
      else (stepOf x.2 (match x.1.2 with | some j => s.store.nand.unitId t j | none => none)
        (s.store.nand.block x.1.1 t.blk).thresholds).1
    let read := tried.setFld rStoErr 0 0 63 32 (satAdd (2 ^ 32 - 1) (tried.fld rStoErr 0 0 63 32) (steps.filter (· != 1)).length)
    let built := read.setFld rStoErr 0 0 31 16 (satAdd (2 ^ 16 - 1) (read.fld rStoErr 0 0 31 16) 1)
    s.lostPkgs.contains m = false →
    (k.1 = 1 → exec (.storeUnitRead p n unit r) s = .next s.checkReadOnly) ∧
    (k.1 = 2 → exec (.storeUnitRead p n unit r) s =
      .next (tried.upNand fun x => x.upBlock m t.blk fun b => { b with thresholds := k.2 }).checkReadOnly) ∧
    (k.1 = 3 → exec (.storeUnitRead p n unit r) s = .next tried.checkReadOnly) ∧
    (k.1 = 0 → steps.contains 0 = false → exec (.storeUnitRead p n unit r) s = .next (match b.step4 with
      | none => built.upNand fun x => x.upBlock m t.blk fun b => { b with step4 := some u.1 }
      | some j => if j = u.1 then built else built.retireBlock m t.blk).checkReadOnly) ∧
    (k.1 = 0 → steps.contains 0 = true → exec (.storeUnitRead p n unit r) s = .next
      ((read.setFld rStoErr 0 0 15 0 (satAdd (2 ^ 16 - 1) (read.fld rStoErr 0 0 15 0) 1)).imageLost (s.page p n).img).checkReadOnly)

/-- The store's health (R293, R294, R302, R305, R359, R370, R429): a lost package closes the open stripe and starts a rebuild, and the
fourth fails the store and ends the jobs; a finished rebuild restores the margin; a hold-up test that is due, every 256 epochs and every
epoch while the state is insufficient, sets the energy, the margin and its state.
Rests on log entry 158. -/
def Obligations.StoreHealthRows : Prop :=
  ∀ (s : State) (n energy : Nat), s.mgmt.powerGood = true → s.store.mounted = true →
    let margin := energy * 100 / 140
    let st := if 200 ≤ margin then 1 else if 120 ≤ margin then 2 else 3
    let old := s.fld rStoHoldup 0 0 1 0
    let s0 := { s with store := { s.store with heldUp := s.mgmt.beat } }
    let s1 := s0.wr rStoHoldup 0 0 (Nat.min energy 65535 * 65536 + Nat.min margin 255 * 256 + st)
    (n < 16 → s.fld rStoHealth 0 0 (40 + n) (40 + n) ≠ 1 → exec (.packageLost n) s = .next (
      let t := s.setStoreState fun x =>
        let x := x.setFld rStoHealth 0 0 (40 + n) (40 + n) 1
        if 4 ≤ (List.range 16).foldl (fun c i => c + x.fld rStoHealth 0 0 (40 + i) (40 + i)) 0 then x.setFld rStoHealth 0 0 3 0 5
        else
          let x := x.setFld rStoHealth 0 0 39 32 0
          if x.fld rStoHealth 0 0 3 0 = 4 then x else x.setFld rStoHealth 0 0 3 0 2
      let t := { t with store := { t.store with rebuild := t.store.rebuild ++ [n] } }
      let t := { t with store := { t.store with nand := { t.store.nand.padStripe with rebuildAll := t.rebuildWork.length } } }
      if t.fld rStoHealth 0 0 3 0 = 5 then
        (List.range 4).foldl (fun t p => if (t.pt p).job = .noJob then t else t.wantEnd p 7) t
      else t)) ∧
    (s.store.rebuild ≠ [] → s.fld rStoHealth 0 0 3 0 ≠ 5 → s.rebuildWork = [] → s.store.nand.reloc = [] →
      exec .rebuildDone s = .next (
        let t := s.setStoreState fun x =>
          let x := x.setFld rStoHealth 0 0 39 32 100
          if x.fld rStoHealth 0 0 3 0 = 2 then x.setFld rStoHealth 0 0 3 0 3 else x
        { t with store := { t.store with rebuild := [], rebuilt := t.store.rebuilt + 1 } })) ∧
    (old ≠ 0 → (if old = 3 then 1 else 256) * 2 ^ 20 ≤ s.since s.store.heldUp → exec (.holdupTest energy) s = .next (
      if old = st then s1
      else if st = 1 then (List.range 10).foldl (fun t q => t.withdraw q 0x021) (s1.raiseM 0x021 (s1.rd rStoHoldup 0 0) 0)
      else s1.raiseM 0x021 (s1.rd rStoHoldup 0 0) 0))

/-- Shared memories (R231, R232, R267, R271 to R274, R278, R312, R314 to R316): the adders add to the enabled elements of a unit that its page's check pins; a
finished SLM split takes its new sizes and zeroes the scratchpad and the codec reference stores; a host window access within BAR4 wakes a
partition in L2 or L3; one of resident pages pins them, reads or writes the partition's bytes (dropping and logging those of protected
blocks), and unpins them; one that meets a bad word stops there, and one that misses reads all ones, drops a write and is logged.
Rests on log entry 5. -/
def Obligations.SharedMemoryRows : Prop :=
  ∀ (s : State) (p va v : Nat) (t : DType) (mask : BitVec 32) (addends : Bytes) (a : WinAccess), s.mgmt.powerGood = true →
    (t ≠ .fp64 → (s.pt p).inRange [(va, 64)] = true → s.residOf p (pageOf va) true = .pin →
      exec (.memorySideAdd p va t mask addends) s =
        .next ((s.touchPage p (pageOf va) true).memAdd p va t mask addends).1) ∧
    ((s.pt p).splitNew = some v → exec (.slmSplitDone p) s = .next (
      (((s.give rMemSlmSplitPtn 0 p v).noteSetting (0x500000 + 8 * p)).upPt p fun q =>
        { q with splitNew := none, live := { q.live with slm := [], slmBad := [] } }).clearStores p)) ∧
    let wa := s.fld rPtnHostwin (p + 1) 0 47 30 * 2 ^ 30 + a.off
    let ns := pagesOf [(wa, a.len)]
    a.off + a.len ≤ s.barSize (p + 1) 4 → s.funcState p = .ready → s.tdiOpen (p + 1) = true → s.fld rPtnHostwin (p + 1) 0 0 0 = 1 →
    (s.pt p).job ≠ .noJob → (s.pt p).job ≠ .opening → (s.pt p).inRange [(wa, a.len)] = true →
    (∀ n ∈ ns, ((s.pt p).kind n = 1 ∨ (s.pt p).kind n = 3) ∧ (s.pt p).pageBound n = false) →
    let w := s.wake p
    (∀ n, w.winStop p a.wr.isSome ns = some n → exec (.hostWindowAccess p a) s = .next (
      if a.wr.isSome then w.winMissed p n ns else (w.winMissed p n ns).emit (.window p (some (List.replicate a.len 0xff#8))))) ∧
    (a.wr = none → w.winStop p false ns = none → w.dvBadIn p [(wa, a.len)] = [] → exec (.hostWindowAccess p a) s = .next (
      let t := ns.foldl (fun t n => t.pinUnit p n false) w
      ns.foldl (fun t n => t.unpinUnit p n false) (t.emit (.window p (some (t.dvRead p wa a.len)))))) ∧
    (∀ u us, a.wr = none → w.winStop p false ns = none → w.dvBadIn p [(wa, a.len)] = u :: us →
      exec (.hostWindowAccess p a) s = .next ((w.meetBad p u).emit (.window p none))) ∧
    (∀ bs, a.wr = some bs → bs.length = a.len → w.winStop p true ns = none →
      exec (.hostWindowAccess p a) s = .next (ns.foldl (fun t n => t.unpinUnit p n true)
        ((ns.foldl (fun t n => t.pinUnit p n true) w).winWrite p (bwrites wa bs))))

/-! ### Attestation, isolation and security operations -/

/-- The DOE mailbox and the SPDM responder (R318, R498 to R500): Discovery lists three protocols and an Abort drops the object in
progress; a response raises vector 0 of the PF while the mailbox's interrupt is enabled. The connection goes by version, capabilities and algorithms; measurements come as the blocks asked for; a signed
answer carries the log's COUNT and HEAD and a signature, which is a free value; up to four sessions are opened, finished and
ended. A request before the algorithms are agreed is an ERROR.
Rests on log entries 8, 80. -/
def Obligations.SpdmResponses : Prop :=
  ∀ (s : State) (idx off len req n op : Nat) (flags : W32) (nonce : BitVec 256) (share pay : Bytes) (sid : Nat),
    s.mgmt.powerGood = true →
    let resp := fun (t : State) (kind : String) (ws : List Nat) =>
      let t := ({ t with sec := { t.sec with spdm := { t.sec.spdm with response := some ws } } }).emit (.message kind 0 ws)
      if bits (t.cfgRd 0 0x2C8) 1 1 = 1 then t.msix 0 0 else t
    let signed := fun (t : State) (kind : String) (ws : List Nat) => resp { t with free := t.free + 1 } kind
      (ws ++ [(Config.freeValue t.free).toNat])
    let ready := s.sec.spdm.stage = 3
    let body := fun (i : Nat) => [i] ++ byteNats ((s.measure i).getD [])
    let log := byteNats s.opaqueData
    (exec (.doeDiscovery idx) s = .next (if idx ≤ 2 then resp s "DOE_DISCOVERY" [1, idx, (idx + 1) % 3]
      else resp s "DOE_DISCOVERY" [0xffff, 0, 0])) ∧
    (exec .doeAbort s = .next { s with sec := { s.sec with spdm := { s.sec.spdm with response := none, error := false, inbox := [] } } }) ∧
    (exec .getVersion s = .next (resp (s.spdmStage 1) "VERSION" [0x12])) ∧
    (1 ≤ s.sec.spdm.stage → exec (.getCapabilities flags) s = .next (resp (s.spdmStage 2) "CAPABILITIES" [spdmCaps])) ∧
    (2 ≤ s.sec.spdm.stage → exec (.negotiateAlgorithms 1 8 2 2) s = .next (resp (s.spdmStage 3) "ALGORITHMS" [1, 8, 2, 2])) ∧
    (s.sec.spdm.stage < 3 → ∀ c ∈ [Instr.getDigests, .getCertificate 0 off len, .challenge 0 nonce, .getMeasurements n true nonce,
      .keyExchange req share], exec c s = .next (resp s "ERROR" [4])) ∧
    (ready → exec .getDigests s = .next (resp s "DIGESTS" (byteNats (sha256 s.chain)))) ∧
    (ready → off ≤ s.chain.length → exec (.getCertificate 0 off len) s = .next (
      let part := (s.chain.drop off).take len
      resp s "CERTIFICATE" ([part.length, s.chain.length - off - part.length] ++ byteNats part))) ∧
    (ready → s.sec.hasAlias = true → exec (.challenge 0 nonce) s =
      .next (signed s "CHALLENGE_AUTH" (byteNats (sha256 s.chain) ++ [nonce.toNat] ++ log))) ∧
    (ready → exec (.getMeasurements 0 false nonce) s = .next (resp s "MEASUREMENTS" [13])) ∧
    (ready → exec (.getMeasurements 0xff false nonce) s = .next (resp s "MEASUREMENTS" (measureIndices.flatMap body))) ∧
    (ready → n ≠ 0 → n ≠ 0xff → (s.measure n).isSome = true → s.sec.hasAlias = true →
      exec (.getMeasurements n true nonce) s = .next (signed s "MEASUREMENTS" (body n ++ [nonce.toNat] ++ log))) ∧
    (ready → s.sec.hasAlias = true → share.length = 384 → ∀ i, s.freeSession = some i →
      let t := s.upSessions fun x => Tbl.put x (req % 65536 + 65536 * i) (false, 0)
      exec (.keyExchange req share) s = .next (signed t "KEY_EXCHANGE_RSP" [req % 65536 + 65536 * i])) ∧
    (∀ k, Tbl.find s.sec.spdm.sessions sid = some (false, k) →
      exec (.finish sid true) s = .next (resp (s.upSessions fun x => Tbl.put x sid (true, k)) "FINISH_RSP" [sid]) ∧
      exec (.finish sid false) s = .next (resp (s.upSessions fun x => Tbl.del x sid) "ERROR" [6])) ∧
    (∀ k, Tbl.find s.sec.spdm.sessions sid = some (true, k) →
      exec (.heartbeat sid) s = .next (resp s "HEARTBEAT_ACK" [sid]) ∧
      (op = 1 ∨ op = 2 → exec (.keyUpdate sid op) s =
        .next (resp (s.upSessions fun x => Tbl.put x sid (true, (Tbl.get (true, 0) s.sec.spdm.sessions sid).2 + 1))
          "KEY_UPDATE_ACK" [sid, op])) ∧
      exec (.endSession sid) s = .next (resp (s.upSessions fun x => Tbl.del x sid) "END_SESSION_ACK" [sid]) ∧
      (16384 < pay.length → exec (.vendorDefinedRequest sid 3 pay) s = .next (({ s with sec := { s.sec with
        spdm := { s.sec.spdm with error := true } } }).emit (.message "DOE_ERROR" 0 []))) ∧
      (pay.length ≤ 16384 → exec (.vendorDefinedRequest sid 3 pay) s = .next (resp s "VENDOR_DEFINED_RESPONSE" [sid])))

/-- IDE_KM and TDISP inside an SPDM session (R501 to R504, R518, R521): key sets are programmed, come into use and go out of use with
an entry in the change log; an integrity failure makes the stream Insecure and its TDIs ERROR. A TDI is locked with its stream,
its nonce and the log's COUNT and HEAD, if that stream is Secure and associated with it, runs on its nonce with keys in both sub-streams, and is stopped with its job discarded.
Rests on log entries 81, 82, 84, 85. -/
def Obligations.IdeAndTdispResponses : Prop :=
  ∀ (s : State) (sid k fn n sub set off len : Nat) (key : BitVec 256) (iv : BitVec 96) (nonce : BitVec 256), s.mgmt.powerGood = true →
    Tbl.find s.sec.spdm.sessions sid = some (true, k) → s.canLog = true → 1 ≤ fn → fn ≤ 4 →
    let put := fun (t : State) (f : IdeStream → IdeStream) =>
      ((t.logChange (n * 65536) 2 0 (sub * 2 + set)).upIde n f).answer "KP_ACK" [0]
    let td := s.tdi fn
    (exec (.query sid 0) s = .next (s.answer "QUERY_RESP" ((List.range 9).map fun i => if (s.ide i).secure then 1 else 0))) ∧
    (n < 9 → sub < 2 → set < 2 →
      exec (.keyProg sid n sub set key iv) s =
        .next (put s fun x => { x with keys := Tbl.put x.keys (sub * 2 + set) (key.toNat * 2 ^ 96 + iv.toNat) }) ∧
      ((Tbl.find (s.ide n).keys (sub * 2 + set)).isSome = true → exec (.kSetGo sid n sub set) s =
        .next (put s fun x => { x with secure := true, active := (sub * 2 + set) :: x.active.filter fun y => y / 2 != sub })) ∧
      exec (.kSetStop sid n sub set) s = .next (put s fun x =>
        let left := x.active.filter fun y => y != sub * 2 + set
        { x with keys := Tbl.del x.keys (sub * 2 + set), active := left, secure := x.secure && left != [] })) ∧
    (exec (.ideIntegrityFailure n) s = .next ([1, 2, 3, 4].foldl
      (fun t i => if (t.tdi i).stream = n ∧ ((t.tdi i).state = 1 ∨ (t.tdi i).state = 2) then t.setTdi i 3 else t)
      (s.upIde n ideFailed))) ∧
    (exec (.getTdispVersion sid fn) s = .next (s.answer "TDISP_VERSION" [0x10])) ∧
    (exec (.getTdispCapabilities sid fn) s = .next (s.answer "TDISP_CAPABILITIES" [0x81, 0x82, 0x83, 0x84, 0x85, 0x86, 0x87])) ∧
    (exec (.getDeviceInterfaceState sid fn) s = .next (s.answer "DEVICE_INTERFACE_STATE" [td.state])) ∧
    (td.state = 0 → ideFunction (s.ide n) ≠ some fn ∨ (s.ide n).secure = false ∨ s.present (fn - 1) = false →
      exec (.lockInterfaceRequest sid fn n nonce) s = .next (s.answer "TDISP_ERROR" [1])) ∧
    (td.state = 0 → s.present (fn - 1) = true → 1 ≤ n → n ≤ 8 → ideFunction (s.ide n) = some fn → (s.ide n).secure = true →
      let s1 := { s with sec := { s.sec with tdi := Tbl.set {} s.sec.tdi fn { td with stream := n, nonce := nonce.toNat } } }
      let s2 := s1.setTdi fn 1
      let lock := { s2.tdi fn with count := s2.log.count, head := s2.logHead }
      let s3 := { s2 with sec := { s2.sec with tdi := Tbl.set {} s2.sec.tdi fn lock } }
      exec (.lockInterfaceRequest sid fn n nonce) s = .next (s3.answer "LOCK_INTERFACE_RESPONSE" [nonce.toNat])) ∧
    (td.state = 1 ∨ td.state = 2 → off ≤ (s.report fn).length → exec (.getDeviceInterfaceReport sid fn off len) s = .next (
      let part := ((s.report fn).drop off).take len
      s.answer "DEVICE_INTERFACE_REPORT" ([part.length, (s.report fn).length - off - part.length] ++ byteNats part))) ∧
    (td.state = 1 → nonce.toNat = td.nonce → (∀ y < 2, (s.ide td.stream).keys.any (fun z => z.1 / 2 == y) = true) →
      exec (.startInterfaceRequest sid fn nonce) s = .next ((s.setTdi fn 2).answer "START_INTERFACE_RESPONSE" [])) ∧
    (td.state ≠ 0 → exec (.stopInterfaceRequest sid fn) s =
      .next (((s.setTdi fn 0).startDiscard (fn - 1) 2).answer "STOP_INTERFACE_RESPONSE" [])) ∧
    (td.state = 1 ∨ td.state = 2 → exec (.tdiProtectedWrite fn) s = .next (s.setTdi fn 3))

/-- The operations of SEC_OP (R494, R495, R511, R515, R516, R518, R520, R521, R523, R524): an accepted one takes effect with its entry
in the change log and RESULT reads DONE. LOG_READ writes the entries asked for, at once or when the PF may master the bus, and is not logged.
Rests on log entries 8, 44, 106. -/
def Obligations.SecurityOperations : Prop :=
  ∀ (s : State) (v : W64) (hash : BitVec 256) (blob : Bytes) (img : Bytes) (sig : SigVerdict) (kb : Bytes), s.mgmt.powerGood = true →
    let x := v.toNat
    let arg := bits x 39 32
    let s0 := (((s.unstage rSecOp 0 0).setFld rSecOp 0 0 39 32 arg).setFld rSecOp 0 0 31 8 (bits x 31 8)).setFld rSecOp 0 0 3 0 (bits x 3 0)
    let done := fun (old new : Nat) (f : State → State) => (f (s0.logChange (bits x 3 0) 1 old new)).setFld rSecOp 0 0 63 48 0
    let kh := bfld kb 32 1
    let km := bfld kb 33 1 % 16
    (s0.canLog = true →
      (bits x 3 0 = 1 → 1 ≤ arg → arg ≤ 5 → img.length = bits x 31 8 * 1024 → 1024 ≤ img.length →
        envelopeOk img arg sig.sigOk s0.firmwareKey = true → s0.svn arg ≤ envSvn img →
        exec (.fwStage v img sig) s = .next (done 0 (bodyDigest img / 2 ^ 192) fun t =>
          let c := s0.fw arg
          let slot := fun (n : Nat) => ({ staging := n, svn := envSvn img, verified := true, digest := BitVec.ofNat 256 (bodyDigest img) } : FwSlot)
          let c := if c.a.staging < c.b.staging then { c with a := slot (c.b.staging + 1) } else { c with b := slot (c.a.staging + 1) }
          let sec := { t.sec with fw := Tbl.put t.sec.fw arg c }
          { t with sec := if arg ≤ 2 then sec.addPairs else sec })) ∧
      (bits x 3 0 = 2 → 1 ≤ arg → arg ≤ 5 → (s0.fw arg).newer = true →
        let n := Nat.max (s0.svn arg) (Nat.min 64 (s0.fw arg).running.svn)
        exec (.svnCommit v) s = .next (done (s0.svn arg) n fun t => t.setFld rSecSvn 0 0 (8 * arg + 7) (8 * arg) n)) ∧
      (bits x 3 0 = 3 → Config.unwrapJobKey blob = some kb → blob.length = 384 → kb.length = 48 → 1 ≤ kh → kh ≤ 63 →
        leNat (kb.drop 34) = 0 → s0.handleUsed kh = false →
        let was := match Tbl.find s0.sec.jobKeys kh with | some e => kh * 16 + e.mask | none => 0
        exec (.jobkeyLoad v blob) s = .next (done was (kh * 16 + km) fun t =>
          { t with sec := { t.sec with jobKeys := Tbl.put t.sec.jobKeys kh { key := beNat (kb.take 32), mask := km } } })) ∧
      (bits x 3 0 = 4 → 1 ≤ arg → arg ≤ 63 → s0.handleUsed arg = false →
        exec (.jobkeyErase v) s = .next (done (arg * 16 + (Tbl.get {} s0.sec.jobKeys arg).mask) 0 fun t =>
          { t with sec := { t.sec with jobKeys := Tbl.del t.sec.jobKeys arg } })) ∧
      (bits x 3 0 = 5 → arg ≤ 7 → exec (.pubkeySet v hash) s =
        .next (done (Tbl.get 0 s0.sec.pubKeys arg / 2 ^ 192) (hash.toNat / 2 ^ 192) fun t =>
          { t with sec := { t.sec with pubKeys := Tbl.put t.sec.pubKeys arg hash.toNat } })) ∧
      (bits x 3 0 = 6 → arg ≤ 7 → exec (.pubkeyClear v) s =
        .next (done (Tbl.get 0 s0.sec.pubKeys arg / 2 ^ 192) 0 fun t =>
          { t with sec := { t.sec with pubKeys := Tbl.del t.sec.pubKeys arg } }))) ∧
    (bits x 3 0 = 7 → 1 ≤ bits x 31 8 → bits x 31 8 ≤ 65536 → s0.rd rSecOpArg2 0 0 + bits x 31 8 ≤ s0.log.count →
      s0.log.count ≤ s0.rd rSecOpArg2 0 0 + s0.log.entries.length →
      exec (.logRead v) s = .next (
        let bs := (((s0.log.entries.reverse.drop (s0.rd rSecOpArg2 0 0 - (s0.log.count - s0.log.entries.length))).take (bits x 31 8)).flatMap
          LogEntry.bytes)
        let t := if s0.busMaster 0 then s0.emit (.hostWrite 0 (s0.rd rSecOpAddr 0 0) bs)
          else { s0 with mgmt := { s0.mgmt with posted := s0.mgmt.posted ++ [(s0.rd rSecOpAddr 0 0, bs)] } }
        t.setFld rSecOp 0 0 63 48 0)) ∧
    exec .secLogCountRead s = .next (((List.range 4).foldl (fun t i => t.wr rSecLogHead 0 i (bfld s.logHead (8 * i) 8)) s).emit
      (.readData 0 0x200100 8 (BitVec.ofNat 64 s.log.count)))

/-- Link authentication at a port (R391 to R394, R517): the chain goes out in answer to a hello, in chunks of 256 bytes, the peer's chain is collected, its key
exchange is checked and answered, and its finish, a MAC over the transcript of both ends, brings the port UP with fresh counters, the transcript's hash as T_auth and the open jobs' keys; a check that fails sets the port
FAILED.
Rests on log entries 8, 166, 192. -/
def Obligations.LinkAuthentication : Prop :=
  ∀ (s : State) (n chunk len : Nat) (nonce hash mac : BitVec 256) (data share : Bytes) (svn : W64) (a b : Bool), s.mgmt.powerGood = true →
    s.pstate n = PS.authenticating →
    let x := s.lauth n
    let fails := ((s.upLauth n fun y => { tAuth := y.tAuth, peer := y.peer }).failPort n).raiseAt 0 0x051 n 0 0x0070 s.mgmt.beat
    let good := x.chain.length = x.len ∧ beNat (sha256 x.chain) = x.hash ∧ share.length = 384 ∧ a = true ∧ b = true ∧
      (∀ c ∈ [1, 2, 3, 4, 5], s.svn c ≤ bits svn.toNat (8 * c + 7) (8 * c)) ∧ s.sec.hasAlias = true
    (exec (.authHello n nonce hash len) s = .next ((List.range (ceilDiv s.chain.length 256)).foldl
      (fun t i => t.emit (.message "AUTH_CERT" n (i :: byteNats ((s.chain.drop (256 * i)).take 256))))
      (s.upLauth n fun y =>
        { stage := 1, own := y.own, nonce := nonce.toNat, hash := hash.toNat, len := len, tAuth := y.tAuth, peer := y.peer }))) ∧
    (x.stage = 1 → chunk * 256 = x.chain.length → data.length ≤ 256 → x.chain.length + data.length ≤ x.len →
      exec (.authCert n chunk data) s = .next (s.upLauth n fun y => { y with chain := y.chain ++ data })) ∧
    (x.stage = 1 → good → exec (.authKex n share a b svn) s = .next (
      let t := s.upLauth n fun y => { y with stage := 2, share := share, draw := s.free }
      let r := { t with free := t.free + 1 }.freshW64
      r.2.emit (.message "AUTH_KEX" n (byteNats (Config.kexShare s.free) ++ [r.1.toNat])))) ∧
    (x.stage = 1 → ¬ good → exec (.authKex n share a b svn) s = .next fails) ∧
    let mac' := beNat (hmac (Config.finishKey (Config.linkSecret x.share x.draw)) (s.transcript n))
    (x.stage = 2 → mac.toNat = mac' → exec (.authFinish n mac) s = .next (
      let t := s.emit (.message "AUTH_FINISH" n [mac'])
      let t := t.upLauth n fun y => { tAuth := beNat (sha256 (s.transcript n)), peer := Config.chainSerial y.chain }
      let t := t.upPort n fun q => { q with txCtr := 0, rxCtr := 0, rxLast := [], auth := (0, 0), ready := [] }
      let t := t.upPort n fun q => { q with keys := Tbl.put q.keys 4 (t.mgmtKeys n (Config.linkSecret x.share x.draw)) }
      ((t.reinstallKeys n).portUp n (t.port n).lanes).announceAt n)) ∧
    (x.stage = 2 → mac.toNat ≠ mac' → exec (.authFinish n mac) s = .next fails)

/-! ### Power-good, resets and the partition shape -/

/-- The fall of power-good (R40, R304, R528, R529, R533, R544): a power loss, a thermal trip of a sensor with a trip point, and L4 once
its request has met a boundary and the journal buffer has drained. Nothing volatile is left: no register but SEC_SVN, no
link, event queue, timeout or session; the change log, the fuses, the keys of the root of trust and what the store and its journal
hold stay, and every partition keeps its job and its durable cut, which is the cut under way once its record was acknowledged.
Rests on log entries 24, 25, 26. -/
def Obligations.FallOfPowerGood : Prop :=
  ∀ (s : State) (aux : Bool) (n b : Nat), s.mgmt.powerGood = true →
    exec (.powerLoss aux) s = .next (s.fallPower aux false) ∧
    (n < 0x5e → exec (.thermalTrip n) s = .next (s.fallPower true true)) ∧
    (s.mgmt.l4Req = some b → s.past b = true → s.store.records = [] → s.store.buffered = 0 →
      exec .l4Entry s = .next (s.fallPower true false)) ∧
    ∀ trip : Bool,
      let t := s.fallPower aux trip
      t.mgmt.powerGood = false ∧ t.mgmt.standby = aux ∧ t.mgmt.tripped = trip ∧ t.mgmt.beat = 0 ∧
      (∀ e ∈ t.regs, e.1 = rSecSvn.key 0 0) ∧ t.links = {} ∧ t.evq = [] ∧ t.lcl = [] ∧ t.timers = [] ∧ t.boot = {} ∧
      t.sec.spdm = {} ∧ t.sec.ide = [] ∧ t.sec.tdi = [] ∧ t.sec.auth = [] ∧
      t.log = s.log ∧ t.power.fuse = s.power.fuse ∧ t.sec.fw = s.sec.fw ∧ t.sec.jobKeys = s.sec.jobKeys ∧
      t.sec.pubKeys = s.sec.pubKeys ∧ t.store.credit = s.store.credit ∧ t.store.charged = s.store.charged ∧
      t.pending = s.pending ∧ t.ptn.map (·.1) = s.ptn.map (·.1) ∧
      ∀ p q, (p, q) ∈ s.ptn → ∃ q', (p, q') ∈ t.ptn ∧ q'.job = q.job ∧ q'.info = q.info ∧ q'.live.cores = [] ∧
        q'.live.slm = [] ∧ q'.durable = if q.cutSent = true ∧ s.store.records.contains (.cut p) = false then q.pend.orElse (fun _ => q.durable)
          else q.durable

/-- Resets (R319 to R325, R339, R360, R567). A conventional reset clears the functions' configuration (of the PF all but its MSI-X table), DOE, sessions, IDE
and waiting events, disables the telemetry ring and discards or resets each partition; FLR of PF0 clears PF0's own part; FLR of a
partition function clears its configuration and starts a discard, which ends the job with every accepted descriptor ABORTED; when
the reset ends the function is READY and RESET_DONE is raised; a suspended job stays so.
Rests on log entry 87. -/
def Obligations.ResetRows : Prop :=
  (∀ (s : State) (pin : ResetPin), s.mgmt.powerGood = true →
    let s1 := (((s.clrLine rMsixPf0Pba 0).clearSpace 0).dropEvents 0).clearDoe
    let s2 := { s1 with lcl := s1.lcl.map fun (e : Nat × Lcl) => (e.1, { e.2 with pend := [], raised := [] }),
                        mgmt := { s1.mgmt with perst := s1.mgmt.perst || pin == ResetPin.perst }, sec := { s1.sec with ide := [] } }
    exec (.conventionalReset pin) s = .next ((List.range 4).foldl
      (fun t p =>
        let locked := (t.tdi (p + 1)).state == 1 || (t.tdi (p + 1)).state == 2
        let t := ((t.clearConfig (p + 1)).dropEvents (p + 1)).setTdi (p + 1) 0
        if t.present p = false ∨ t.shapeBusy ∨ (t.pt p).func = .discarding then t
        else if locked then t.startDiscard p 0 else (t.wantRollback p 0x0b).setFunc p .resetting)
      ((s2.setFld rMgtPcieLink 0 0 0 0 0).setFld rMgtTelCfg 0 0 31 31 0))) ∧
  (∀ s : State, s.mgmt.powerGood = true →
    let s1 := (((s.clearConfig 0).dropEvents 0).clearDoe).setFld rMgtTelCfg 0 0 31 31 0
    exec .flrPf0 s = .next { s1 with lcl := s1.lcl.map fun (e : Nat × Lcl) =>
      (e.1, { e.2 with
        pend := e.2.pend.filter fun x => decide (0x100 ≤ x), raised := e.2.raised.filter fun x => decide (0x100 ≤ x.1) }) }) ∧
  (∀ (s : State) (p : Nat), s.mgmt.powerGood = true → p < 4 →
    exec (.flrPartitionFunction p) s =
      .next ((((s.clearConfig (p + 1)).dropEvents (p + 1)).setTdi (p + 1) 0).startDiscard p 2)) ∧
  (∀ (s : State) (p b : Nat), s.mgmt.powerGood = true → (s.pt p).flr = some b → (s.pt p).func = .discarding → s.since b ≠ 0 →
    let s1 := (s.upPt p fun q => { q with journal := q.journal.filterMap JEntry.atDiscard }).disableRings p
    let s2 := ((s1.discardAll p 2 fun _ => false).releaseJob p).setJob p .noJob
    let s3 := s2.upPt p fun q => { q with
      descs := [], flr := none, abort := none, rollReq := none, endCause := none, rolling := some s2.lastBeat }
    exec (.functionDiscard p) s = .next (s3.disableRings p)) ∧
  (∀ (s : State) (p b : Nat), s.mgmt.powerGood = true → (s.pt p).rolling = some b → s.present p = true → s.shapeBusy = false →
    (s.pt p).rollReq = none → 2 ≤ s.since b → (s.pt p).drained = true → s.bootReady = true → (s.pt p).flr = none →
    let s1 := s.upPt p fun q => { rewriteAfterReset q with
      rolling := none, func := .ready,
      sqs := q.sqs.map fun (e : Nat × Sq) => (e.1, { e.2 with target := BitVec.ofNat 64 (s.accepted p e.1) }) }
    let s2 := { s1 with mgmt := { s1.mgmt with everReady := true } }
    let s3 := if (s2.pt p).job = .suspended then s2 else s2.unpause p
    exec (.resetDone p) s = .next ((((s3.raiseAt (p + 1) 0x102 (s.pt p).resetKind 0 0 s3.lastBeat).upPt p fun q =>
      { q with resetKind := 3 }).resetServed p).refreshReady p))

/-- A change of the partition shape (R23 to R25, R241, R278, R384, R508): at a boundary after the request it begins, with the request in
REQ_SHAPE, unless a job, an accepted descriptor or an enabled ring stands against it; when it ends the partitions of the shape are formed
with empty memories, new keys and default shares, the shape is stored as a setting, a reset that waited for the change is served, and RESULT reads DONE.
Rests on log entries 25, 86, 156. -/
def Obligations.ShapeChangeRows : Prop :=
  ∀ (s : State) (r b : Nat), s.mgmt.powerGood = true →
    (s.mgmt.shapeReq = some (r, b) → s.since b ≠ 0 →
      (s.shapeHeld = true → exec .shapeChange s =
        .next ({ s with mgmt := { s.mgmt with shapeReq := none } }.setFld rMgtPtnShape 0 0 23 8 0x0020)) ∧
      (s.shapeHeld = false → exec .shapeChange s =
        .next (({ s with mgmt := { s.mgmt with shapeReq := none } }.setFld rMgtPtnShape 0 0 1 0 r).setFld rMgtPtnShape 0 0 7 7 1))) ∧
    (s.shapeBusy = true →
      let s1 := (s.setFld rMgtPtnShape 0 0 3 2 (s.fld rMgtPtnShape 0 0 1 0)).formPartitions
      let v := s1.fld rMgtPtnShape 0 0 1 0
      let s2 := { s1 with flash := { s1.flash with settings := Tbl.put s1.flash.settings 0x200 (BitVec.ofNat 64 v) },
                          mgmt := { s1.mgmt with everReady := true } }
      let s3 := (List.range 4).foldl (fun t p => t.resetServed p) s2
      exec .shapeChangeDone s = .next ((s3.setFld rMgtPtnShape 0 0 23 8 0).setFld rMgtPtnShape 0 0 7 7 0)) ∧
    ∀ p < 4, ∃ q, (s.formPartitions).pt p = q ∧ q.live = {} ∧ q.job = .noJob ∧ q.descs = [] ∧
      q.func = (if s.present p then .ready else .absent) ∧ q.journal = (s.pt p).journal ∧ q.sqs = (s.pt p).sqs

/-! ### Rings, descriptors and events -/

/-- The configuration of rings and the doorbell (R313, R326, R327, R332): a valid enable of a submission ring whose completion ring is
enabled, or of a completion ring, takes its registers and reads DONE; a ring with work left cannot be disabled; a doorbell moves the
ring's target forward and frees a stalled ring, and one beyond the ring's entries stalls it.
Rests on log entries 105, 126. -/
def Obligations.RingConfigurationAndDoorbell : Prop :=
  ∀ (s : State) (p n : Nat) (w : W32) (tail : W64), s.mgmt.powerGood = true → n < 64 → s.funcState p = .ready → s.shapeBusy = false →
    s.tdiOpen (p + 1) = true →
    let v := w.toNat
    let f := p + 1
    let cq := bits v 21 16
    let base := bits (s.rd rPtnSqBase f n) 63 12
    let d := sdiff tail.toNat (s.accepted p n)
    (bits v 31 31 = 1 → s.sqOn p n = false → 6 ≤ bits v 4 0 → bits v 4 0 ≤ 16 → s.cqOn p cq = true →
      (∀ m < 64, m ≠ n → s.sqOn p m = true → bits (s.rd rPtnSqBase f m) 63 12 ≠ base) →
      let s1 := s.wr rPtnSqCfg f n (bits v 31 30 * 2 ^ 30 + cq * 65536 + bits v 4 0)
      let s2 := (s1.setFld rPtnSqStatus f n 2 0 1).setFld rPtnSqStatus f n 7 4 0
      let s3 := s2.setFld rPtnSqStatus f n 31 16 0
      exec (.ptnSqCfgWrite p n w) s = .next (s3.upSq p n fun x => { x with
        target := BitVec.ofNat 64 (s2.accepted p n), shadow := [], shadowed := true })) ∧
    (bits v 31 31 = 0 →
      (∃ e ∈ (s.pt p).descs, e.sq = n ∧ e.done = false ∧ e.mode ≠ 2) ∨
      (∃ e ∈ (s.pt p).journal, e.sq = n ∧ e.written = false ∧ e.rewrite = false) →
      exec (.ptnSqCfgWrite p n w) s = .next (s.setFld rPtnSqStatus f n 31 16 0x0020)) ∧
    (bits v 31 31 = 0 → s.sqOn p n = true → (∀ e ∈ (s.pt p).descs, e.sq = n → e.done = true ∨ e.mode = 2) →
      (∀ e ∈ (s.pt p).journal, e.sq = n → e.written = true ∨ e.rewrite = true) →
      exec (.ptnSqCfgWrite p n w) s = .next (
        ((s.setFld rPtnSqCfg f n 31 31 0).setFld rPtnSqStatus f n 2 0 0).setFld rPtnSqStatus f n 31 16 0)) ∧
    (bits v 31 31 = 1 → s.cqOn p n = false → 6 ≤ bits v 4 0 → bits v 4 0 ≤ 16 → exec (.ptnCqCfgWrite p n w) s = .next (
      let t := s.wr rPtnCqCfg f n (2 ^ 31 + bits v 23 16 * 65536 + bits v 4 0)
      ((t.upCq p n fun c => { c with written := 0, given := 0, head := 0 }).setFld rPtnCqStatus f n 2 0 1).setFld
        rPtnCqStatus f n 31 16 0)) ∧
    (s.sqOn p n = true →
      (d ≤ 0 → exec (.doorbell p n tail 8) s = .next s) ∧
      (((2 ^ s.fld rPtnSqCfg f n 4 0 : Nat) : Int) < d → exec (.doorbell p n tail 8) s = .next (s.stallSq p n 2)) ∧
      (0 < d → d ≤ ((2 ^ s.fld rPtnSqCfg f n 4 0 : Nat) : Int) → exec (.doorbell p n tail 8) s = .next (
        let t := s.upSq p n fun x => { x with target := tail }
        if t.fld rPtnSqStatus f n 2 0 = 2 then (t.setFld rPtnSqStatus f n 2 0 1).setFld rPtnSqStatus f n 7 4 0 else t)))

/-- From the slot to the completion (R303, R328, R330, R331, R333, R336, R338, R369): the headgate reads the slot of the descriptor it
expects and sends its acceptance record, to the buddy too where the partition is mirrored; its acknowledgement, for which the journal
buffer has room and which waits for the buddy's, accepts the descriptor and advances A; NOP completes DONE whatever the job's state; a
journaled completion is written into its slot, or into the next one where it has none, while the host has room for it, and the ring is
FULL otherwise.
Rests on log entries 9, 24, 128, 130, 160, 183. -/
def Obligations.AcceptanceAndCompletion : Prop :=
  ∀ (s : State) (p n : Nat) (ws : List W64) (rest : List (List W64)) (d : ADesc) (head : Option W64) (e : JEntry), s.mgmt.powerGood = true →
    let f := p + 1
    let x := (s.pt p).sq n
    let expect := (s.accepted p n + x.awaiting.length) % 2 ^ 64
    let h := (head.map (·.toNat)).getD ((s.pt p).cq n).head
    let s1 := (s.upCq p n fun c => { c with head := h }).upPt p fun q => { q with journal := freeJournal n h q.journal }
    let log2 := s.fld rPtnCqCfg f n 4 0
    let slot := e.slot.getD ((s1.pt p).cq n).given
    (s.funcState p = .ready → s.sqOn p n = true → s.tdiOpen f = true → s.fld rPtnSqStatus f n 2 0 = 1 → s.holdBits p n = 0 →
      x.awaiting.length < 256 → (s.pt p).awaitingAll < 1024 → 0 < sdiff x.target.toNat expect →
      let r := s.emit (.hostRead f (s.rd rPtnSqBase f n + 64 * (expect % 2 ^ s.fld rPtnSqCfg f n 4 0)) 64)
      (exec (.headgateFetch p n none) s = .next (r.stallSq p n 3)) ∧
      (ws.length = 8 → (ws.getD 0 0).toNat ≠ expect → exec (.headgateFetch p n (some ws)) s = .next (r.stallSq p n 1)) ∧
      (ws.length = 8 → (ws.getD 0 0).toNat = expect → exec (.headgateFetch p n (some ws)) s = .next (
        (r.upSq p n fun y => { y with awaiting := y.awaiting ++ [ws] }).sendRecord (.accept p n) (ws.map (·.toNat))))) ∧
    (x.awaiting = ws :: rest → s.store.buffered + 64 ≤ 134217728 → s.buddyHas (.accept p n) = false →
      exec (.descriptorAccepted p n) s = .next s) ∧
    (x.awaiting = ws :: rest → s.store.buffered + 64 ≤ 134217728 → s.buddyHas (.accept p n) = true →
      let t := (s.upSq p n fun y => { y with awaiting := rest }).give rPtnSqNext f n ((s.accepted p n + 1) % 2 ^ 64)
      let t := t.upPt p fun q => { q with
        descs := q.descs ++ [({ sq := n, seq := s.accepted p n, words := ws, ord := q.accOrd } : ADesc)], accOrd := q.accOrd + 1 }
      let t := { t with store := { t.store with records := dropRec (.accept p n) t.store.records, buffered := t.store.buffered + 64 } }
      exec (.descriptorAccepted p n) s = .next (t.refreshReady p)) ∧
    (s.starts p n 8 d → exec (.nop p n) s = .next ((s.started p d).finish p d 0 0 0 0)) ∧
    (s.cqOn p n = true → s.busMaster f = true → (s.pt p).func = .ready →
      s1.nextRecord p n = some e →
      (2 ^ log2 ≤ (slot + 2 ^ 64 - h) % 2 ^ 64 → exec (.completionWrite p n head) s = .next (s1.setFld rPtnCqStatus f n 2 0 2)) ∧
      ((slot + 2 ^ 64 - h) % 2 ^ 64 < 2 ^ log2 →
        let t := s1.emit (.hostWrite f (s.rd rPtnCqBase f n + 32 * (slot % 2 ^ log2)) (complBytes e.words slot log2))
        let t := t.upPt p fun q => { q with
          journal := q.journal.map fun y => if y = e then { y with written := true, cq := n, slot := some slot } else y }
        let t := t.upCq p n fun c => { c with written := Nat.max c.written (slot + 1), given := Nat.max c.given (slot + 1) }
        let t := t.upSq p e.sq fun y => { y with completed := if e.rewrite then y.completed else y.completed + 1 }
        let t := t.setFld rPtnCqStatus f n 2 0 1
        exec (.completionWrite p n head) s = .next ((t.raiseLocal f 0x100).record f (t.fld rPtnCqCfg f n 23 16)
          { ev := 0x100, beat := t.mgmt.beat, d0 := n, d1 := ((t.pt p).cq n).written })))

/-- Event queues and local interfaces (R309, R361 to R370): the oldest waiting record of a function that is there is written while its
queue has room, the queue is FULL once no slot is free and RUNNING again when its head has moved, and the message
goes out after COUNT of them or when the timer fires; a queue is enabled empty; a claim takes the most urgent pending event, a
completion makes it idle, and a level source that ends before its claim is withdrawn.
Rests on log entries 123, 135. -/
def Obligations.EventRows : Prop :=
  ∀ (s : State) (fn q e : Nat) (head : Option W64) (r : EvRec) (rest : List EvRec) (v : W64), s.mgmt.powerGood = true →
    let x := s.evQ fn q
    let h := (head.map (·.toNat)).getD x.head
    let log2 := bits (s.evCfg fn q) 36 32
    let base := if fn = 0 then s.rd rEvtPf0QBase 0 (q - 1) else s.rd rEvtQBase fn q
    let signal := fun (t : State) => (t.upEvQ fn q fun y => { y with u := 0, due := none }).msix fn q
    let l := s.lclOf q
    let n := v.toNat
    (s.evOn fn q = true → s.busMaster fn = true → fn = 0 ∨ s.present (fn - 1) = true → x.waiting = r :: rest →
      (2 ^ log2 ≤ (x.written + 2 ^ 64 - h) % 2 ^ 64 → exec (.eventRecordWrite fn q head) s =
        .next ((s.upEvQ fn q fun y => { y with head := h }).setEvStatus fn q 1 0 2)) ∧
      ((x.written + 2 ^ 64 - h) % 2 ^ 64 < 2 ^ log2 →
        let s1 := s.emit (.hostWrite fn (base + 32 * (x.written % 2 ^ log2)) (r.bytes x.written log2 x.lostNext))
        let due := fun (y : EvQ) => if x.u + 1 = 1 then some ((s1.mgmt.beat + y.time) % 2 ^ 64) else y.due
        let s2 := s1.upEvQ fn q fun y => { y with
          waiting := rest, written := (y.written + 1) % 2 ^ 64, head := h, u := x.u + 1, lostNext := false, due := due y }
        let used : Nat := ((x.written + 1) % 2 ^ 64 + 2 ^ 64 - h) % 2 ^ 64
        let s3 := s2.setEvStatus fn q 1 0 (if used < 2 ^ log2 then 1 else 2)
        exec (.eventRecordWrite fn q head) s = .next (if x.count ≤ x.u + 1 then signal s3 else s3))) ∧
    (s.evOn fn q = true → s.busMaster fn = true → fn = 0 ∨ s.present (fn - 1) = true → x.waiting = [] → s.evStatus fn q 1 0 = 2 →
      exec (.eventRecordWrite fn q head) s = .next ((s.upEvQ fn q fun y => { y with head := h }).setEvStatus fn q 1 0
        (if (x.written + 2 ^ 64 - h) % 2 ^ 64 < 2 ^ log2 then 1 else 2))) ∧
    (∀ b, x.due = some b → s.past b = true → fn = 0 ∨ s.present (fn - 1) = true → exec (.coalescingTimer fn q) s = .next (signal s)) ∧
    (evqExists fn q = true → fn ≤ 4 → (fn ≠ 0 → s.funcState (fn - 1) = .ready) → s.tdiOpen fn = true → s.evOn fn q = false →
      bits n 63 63 = 1 → 6 ≤ bits n 36 32 → bits n 36 32 ≤ 16 → bits n 23 16 ≠ 0 →
      let s0 := if fn = 0 then s.unstage rEvtPf0QCfg 0 (q - 1) else s.unstage rEvtQCfg fn q
      let s1 := s0.setEvCfg fn q (bits n 23 0 + bits n 36 32 * 2 ^ 32 + 2 ^ 63)
      let s2 := s1.upEvQ fn q fun y => { y with
        written := 0, head := 0, u := 0, due := none, waiting := [], count := bits n 23 16, time := bits n 15 0 }
      exec (.evtQCfgWrite fn q v) s = .next ((s2.setEvStatus fn q 31 16 0).setEvStatus fn q 1 0 1)) ∧
    (q < 10 → l.pend = [] → exec (.evtLclClaim q) s =
      .next ((s.wr rEvtLclClaim (16 + q) 0 4095).emit (.readData (16 + q) 8 4 4095))) ∧
    (q < 10 → s.mostUrgent q l.pend = e → e ≠ 4095 →
      let s1 := (s.wr rEvtLclClaim (16 + q) 0 (s.pri q e * 65536 + e)).emit
        (.readData (16 + q) 8 4 (BitVec.ofNat 64 (s.pri q e * 65536 + e)))
      let l2 : Lcl := { pend := l.pend.filter (· ≠ e), raised := l.raised.filter (·.1 ≠ e), active := e :: l.active.filter (· ≠ e) }
      exec (.evtLclClaim q) s = .next { s1 with lcl := Tbl.put s1.lcl q l2 }) ∧
    (e ∈ l.active → exec (.evtLclComplete q e) s =
      .next { s with lcl := Tbl.put s.lcl q { l with active := l.active.filter (· ≠ e) } }) ∧
    (e ∈ l.pend → e = 0x021 ∨ e = 0x040 ∨ e = 0x042 ∨ e = 0x113 → s.levelOn e = false → exec (.levelWithdraw q e) s =
      .next { s with lcl := Tbl.put s.lcl q { l with pend := l.pend.filter (· ≠ e), raised := l.raised.filter (·.1 ≠ e) } }) ∧
    (e = 0x021 ∨ e = 0x040 ∨ e = 0x042 ∨ e = 0x113 → s.levelOn e = true → exec (.levelWithdraw q e) s = .next s)

/-! ### Jobs -/

/-- Suspension and resumption (R352 to R355): a job at work is paused at the boundary and its state saved, with nothing in flight and the
codec engines stopped, before the completion, a cut being saved or not; suspending a suspended job and resuming a running one complete DONE; without a job both end ABORTED with cause 4; a resumed job
goes on from its save copy. That a command
which the state does not enable changes nothing is the model's choice (log entry 2).
Rests on log entry 100. -/
def Obligations.SuspensionAndResumption : Prop :=
  ∀ (s : State) (p n sq seq b : Nat) (d e : ADesc), s.mgmt.powerGood = true →
    let q := s.pt p
    (s.starts p n 5 d → exec (.jobSuspend p n) s = .next (s.started p d)) ∧
    (s.starts p n 6 d → exec (.jobResume p n) s = .next (s.started p d)) ∧
    (s.control p 5 = some d → q.rolling = none → q.susp = none →
      (q.job = .suspended → exec (.suspensionEffect p) s = .next (s.finish p d 0 0 0 0)) ∧
      (q.job = .noJob → exec (.suspensionEffect p) s = .next (s.finish p d 0x0002 4 0 0)) ∧
      (q.job = .running →
        let t := (s.setJob p .suspending).pause p s.lastBeat
        exec (.suspensionEffect p) s = .next (t.upPt p fun q => { q with susp := some (d.sq, d.seq, t.lastBeat) }))) ∧
    (q.susp = some (sq, seq, b) → b + 2 ≤ s.mgmt.beat → q.drained = true → q.enginesStopped = true → q.findDesc sq seq = some e →
      let t := (s.upPt p fun q => { q with susp := none, saved := some (s.image p (b, q.startOrd, q.ringProgress (s.accepted p))) }).setJob
        p .suspended
      exec (.suspendSaveDone p) s = .next (t.finish p e 0 0 0 0)) ∧
    (q.susp = some (sq, seq, b) → s.mgmt.beat < b + 2 → exec (.suspendSaveDone p) s = .next s) ∧
    (s.control p 6 = some d → q.rolling = none → q.resume = none →
      (q.job = .running → exec (.resumptionEffect p) s = .next (s.finish p d 0 0 0 0)) ∧
      (q.job = .noJob → exec (.resumptionEffect p) s = .next (s.finish p d 0x0002 4 0 0)) ∧
      (q.job = .suspended → exec (.resumptionEffect p) s = .next (
        (s.upPt p fun q => { q with resume := some (d.sq, d.seq, s.lastBeat) }).setJob p .resuming))) ∧
    (q.resume = some (sq, seq, b) → b + 1 < s.mgmt.beat → q.findDesc sq seq = some e → q.resumeRoll = none →
      exec (.resumeRestoreDone p) s = .next (
        let u := s.finish p e 0 0 0 0
        let u := match q.saved with
          | some img => u.restoreSaved p img
          | none => u
        let t := (u.upPt p fun q => { q with resume := none, resumeRoll := none, saved := none }).setJob p .running
        (t.unpause p).refreshReady p))

/-- JOB_OPEN and the ends of a job (R343 to R345, R356, R357): an open while there is a job is refused; a package that keeps every check
sets the job up and its initial cut is due; a close releases the job and completes; an abort starts whatever precedes it and discards
every accepted descriptor at the boundary after. That a command
which the state does not enable changes nothing is the model's choice (log entry 2).
Rests on log entries 8, 88. -/
def Obligations.JobOpenCloseAndAbort : Prop :=
  ∀ (s : State) (p n sq seq b : Nat) (d : ADesc) (prog wpkg : Option Bytes) (psig wsig : SigVerdict) (f : OpenFound) (code cause : Nat),
    s.mgmt.powerGood = true →
    let q := s.pt p
    let opening := (s.started p d).setJob p .opening
    (s.starts p n 1 d → q.job ≠ .noJob → exec (.jobOpen p n prog wpkg psig wsig) s = .next ((s.started p d).finish p d 0x0020 0 0 0)) ∧
    (s.starts p n 1 d → q.job = .noJob → q.splitNew = none → opening.checkOpen p d prog wpkg psig.sigOk wsig.sigOk = .error (code, cause) →
      exec (.jobOpen p n prog wpkg psig wsig) s = .next ((opening.setJob p .noJob).finish p d code cause 0 0)) ∧
    (s.starts p n 1 d → q.job = .noJob → q.splitNew = none → opening.checkOpen p d prog wpkg psig.sigOk wsig.sigOk = .ok f →
      exec (.jobOpen p n prog wpkg psig wsig) s = .next (opening.setUpJob p d f)) ∧
    (s.starts p n 7 d → d.func = 0 → q.job = .noJob → exec (.jobClose p n) s = .next ((s.started p d).finish p d 0 0 0 0)) ∧
    (s.starts p n 7 d → d.func = 0 → q.job = .running → exec (.jobClose p n) s = .next (
      ((((s.started p d).setJob p .closing).releaseJob p).finish p d 0 0 0 0).setJob p .noJob)) ∧
    (s.ctrlRing p n = true → s.startsOpen p = true → q.abort = none →
      (q.descs.find? fun x => x.sq == n && !x.done && x.start.isNone && x.opcode == 7 && x.wellFormed true) = some d →
      exec (.jobCloseAbort p n) s = .next ((s.started p d).upPt p fun q => { q with abort := some (d.sq, d.seq, s.mgmt.beat) })) ∧
    (q.abort = some (sq, seq, b) → s.since b = 0 → exec (.abortEffect p) s = .next s) ∧
    (q.abort = some (sq, seq, b) → s.since b ≠ 0 →
      let t := s.discardAll p 1 fun x => x.sq == sq && decide (seq ≤ x.seq)
      let t := ((t.releaseJob p).upPt p fun q => { q with abort := none, rollReq := none, endCause := none }).setJob p .noJob
      exec (.abortEffect p) s = .next (match (t.pt p).findDesc sq seq with
        | some x => t.finish p x 0 0 0 0
        | none => t))

/-- EGRESS and INGRESS (R350, R351): a copy that fails a check moves nothing and completes with the check's code; one that keeps them
goes page by page; a copy in progress goes on; a host read that fails ends it ABORTED with cause 5.
Rests on log entries 9, 50. -/
def Obligations.CopiesBetweenHostAndMemory : Prop :=
  ∀ (s : State) (p n : Nat) (d : ADesc) (bs : Bytes), s.mgmt.powerGood = true → (s.pt p).job = .running →
    let len := bits (d.w 4) 31 0
    let t := s.started p d
    (s.starts p n 3 d → t.copyCheck p (d.w 2) len true ≠ 0 → exec (.egress p n) s =
      .next (t.finish p d (t.copyCheck p (d.w 2) len true) 0 len 0)) ∧
    (s.starts p n 3 d → t.copyCheck p (d.w 2) len true = 0 → t.busMaster (p + 1) = true → exec (.egress p n) s = .next (t.copyGo p d (d.w 2) (d.w 3) none len)) ∧
    (s.starts p n 4 d → t.copyCheck p (d.w 3) len false ≠ 0 → exec (.ingress p n (some bs)) s =
      .next (t.finish p d (t.copyCheck p (d.w 3) len false) 0 len 0)) ∧
    (s.starts p n 4 d → t.copyCheck p (d.w 3) len false = 0 → bs.length = len → exec (.ingress p n (some bs)) s =
      .next (t.copyGo p d (d.w 3) 0 (some bs) len)) ∧
    (s.starts p n 4 d → t.copyCheck p (d.w 3) len false = 0 → exec (.ingress p n none) s = .next (t.finish p d 0x0002 5 len 0)) ∧
    ((s.pt p).ringHead n = some d → d.start.isSome = true → (s.pt p).paused = none → s.startsOpen p = true →
      (d.opcode = 3 → s.busMaster (p + 1) = true → exec (.egress p n) s = .next (s.copyGo p d (d.w 2) (d.w 3) none len)) ∧
      (d.opcode = 4 → bs.length = len → exec (.ingress p n (some bs)) s = .next (s.copyGo p d (d.w 3) 0 (some bs) len)))

/-! ### Faults and recovery -/

/-- Page restores and lost images (R439 to R442): a frame that has read uncorrectable is acted on at the next boundary: a clean page
with an image drops its frame once nothing pins it, a clean one without loses nothing, a dirty one rolls the partition back; an image
that cannot be read is written again, or costs the cut, or ends the job. Dies, phases and the buddy (R434, R453, R456): a failed die
pauses its partition and, without a buddy's images, ends its job; a regulator phase is taken offline and the 25th of a die fails it;
a buddy that refuses an image, or has no route for 256 beats, leaves mirroring LOST. That a command
which the state does not enable changes nothing is the model's choice (log entry 2).
Rests on log entries 54, 124. -/
def Obligations.FaultsOfPagesDiesAndPhases : Prop :=
  (∀ (s : State) (p n i : Nat), s.mgmt.powerGood = true →
     let g := s.page p n
     let u := s.upPage p n fun g => { g with lost := false }
     let kept := fun (c : CutImg) => (c.data.page n).state
     (g.drop = true → g.acted = false → g.dropAt < s.mgmt.beat →
       (g.state = 3 → exec (.pageRestore p n) s = .next (s.upPage p n fun g => { g with acted := true })) ∧
       (g.state = 4 → s.place p n = some i → exec (.pageRestore p n) s = .next (
         (s.takeFrame p n i fun g => { g with bad := [], drop := false, acted := false }).countRestore p)) ∧
       (g.state = 1 ∨ g.state = 5 → exec (.pageRestore p n) s =
         .next ((s.upPage p n fun g => { g with acted := true }).wantRollback p 1))) ∧
     (g.acted = true → g.state = 3 → g.pins = 0 → g.opins = 0 →
       exec (.frameDrop p n) s = .next ((s.upPage p n fun g => g.unframe 2).countRestore p)) ∧
     (g.pins ≠ 0 → exec (.frameDrop p n) s = .next s) ∧
     (g.lost = true → g.state = 3 → g.drop = false → exec (.storeImageLost p n) s = .next (
       u.upPage p n fun g => { g with state := 1, dirty := true, touched := true })) ∧
     (g.lost = true → g.state ≠ 3 → u.mirroring p = false → ∀ c, (s.pt p).durable = some c →
       (g.touched = true → g.framed = true → kept c ≠ 0 → exec (.storeImageLost p n) s = .next (
         u.upPt p fun q => { q with targetLost := true, cutEarly := true })) ∧
       (g.touched = false ∨ g.framed = false → exec (.storeImageLost p n) s = .next (u.wantEnd p 6)))) ∧
  (∀ (s : State) (die ph p : Nat) (refused : Bool), s.mgmt.powerGood = true → die < 4 →
     let failed := fun (t : State) => { t with mgmt := { t.mgmt with deadDies := die :: t.mgmt.deadDies } }
     let off := { s with mgmt := { s.mgmt with phases := (die * 64 + ph) :: s.mgmt.phases } }
     (s.mgmt.deadDies.contains die = false →
       ((s.pt (die / s.k)).job = .noJob → exec (.dieFailed die) s = .next (failed s)) ∧
       ((s.pt (die / s.k)).job ≠ .noJob → s.mirroring (die / s.k) = true → exec (.dieFailed die) s =
         .next ((failed s).pause (die / s.k) s.mgmt.beat)) ∧
       ((s.pt (die / s.k)).job ≠ .noJob → s.mirroring (die / s.k) = false → exec (.dieFailed die) s =
         .next (((failed s).pause (die / s.k) s.mgmt.beat).wantEnd (die / s.k) 6))) ∧
     (ph < 64 → s.mgmt.phases.contains (die * 64 + ph) = false →
       (off.failedPhases die < 25 → exec (.regulatorPhaseFailed die ph) s = .next off) ∧
       (25 ≤ off.failedPhases die → exec (.regulatorPhaseFailed die ph) s = exec (.dieFailed die) off)) ∧
     (p < 4 → s.mirroring p = true →
       (refused = true ∨ 256 ≤ (s.pt p).buddyGone → exec (.buddyLost p refused) s = .next (
         { s with store := { s.store with mirrorWait := s.store.mirrorWait.filter fun r => r.mirrored != some p } }.setFld rMemBuddyPtn 0 p 2 1 2)) ∧
       (refused = false → (s.pt p).buddyGone < 256 → exec (.buddyLost p refused) s = .next s)))

/-- ROLLBACK (R444, R446, R450): at the boundary after the one that called for it, a partition in a job returns to its last durable cut,
its job RUNNING and its STEP continuing from there; without a cut the job ends ABORTED with cause 6; one that opens completes its open
so; a function without a job resets alone. LAST_CAUSE and the count record it. That a command
which the state does not enable changes nothing is the model's choice (log entry 2).
Rests on log entry 51. -/
def Obligations.RollbackTakesEffect : Prop :=
  ∀ (s : State) (p cause b : Nat) (img : CutImg), s.mgmt.powerGood = true → s.present p = true → s.shapeBusy = false →
    (s.pt p).rollReq = some (cause, b) →
    let why := if (s.pt p).rolling.isSome then 0x0d else cause
    let now := s.lastBeat
    let s1 := (s.countRollback p why).upPt p fun q =>
      { q with rollReq := none, rolling := some now, func := .resetting, resetKind := if why = 0x0b then 0 else 3 }
    let s2 := s1.pause p now
    (s.since b = 0 → exec (.rollback p) s = .next s) ∧
    (s.since b ≠ 0 → (s.pt p).job = .noJob → exec (.rollback p) s = .next s1) ∧
    (s.since b ≠ 0 → (s.pt p).job = .opening → exec (.rollback p) s = .next (s2.undoOpen p 0x0002 6)) ∧
    (s.since b ≠ 0 → (s.pt p).job = .running → s2.rollTarget p = none → exec (.rollback p) s = .next (s2.endJob p 6)) ∧
    (s.since b ≠ 0 → (s.pt p).job = .running → s2.rollTarget p = some img → exec (.rollback p) s = .next (
      ((s2.restoreImage p img).upPt p fun q => { q with resume := none, saved := none }).setJob p .running))

/-- MEM_RESTORE_PTNp (R454, R455): GO names another module of the hive and finds the partition vacant, or is refused with its code; no
copy at the buddy ends it ABORTED; a copy whose packages keep the checks of an open is taken over, its end reported.
Rests on log entry 45. -/
def Obligations.RestoreFromBuddy : Prop :=
  ∀ (r : State) (p : Nat) (v : W64) (prog wpkg : Option Bytes) (psig wsig : SigVerdict) (h : BuddyCopy) (d : ADesc) (f : OpenFound),
    r.mgmt.powerGood = true → p < 4 → r.present p = true → bits v.toNat 0 0 = 1 →
    let x := v.toNat
    let s := r.unstage rMemRestorePtn 0 p
    let field := bits x 47 32
    let go := fun (held : Option BuddyCopy) => exec (.restoreGo p v held prog wpkg psig wsig) r
    let t := (s.logChange (0x501100 + 8 * p) 0 (s.rd rMemRestorePtn 0 p) (field * 2 ^ 32 + 1)).setFld rMemRestorePtn 0 p 47 32 field
    let res := fun (c st : Nat) (u : State) =>
      ((u.setFld rMemRestorePtn 0 p 63 48 c).setFld rMemRestorePtn 0 p 2 1 st).noteSetting (0x501100 + 8 * p)
    (s.otherMember (bits x 47 36) = false → go (some h) = .next (s.setFld rMemRestorePtn 0 p 63 48 0x0011)) ∧
    (s.otherMember (bits x 47 36) = true → s.vacant p = false → go (some h) = .next (s.setFld rMemRestorePtn 0 p 63 48 0x0020)) ∧
    (s.otherMember (bits x 47 36) = true → s.vacant p = true → s.store.mounted = true → s.fld rStoHealth 0 0 3 0 ≠ 5 →
      go none = .next (res 0x0002 3 t) ∧
      ((h.descs.find? fun d => d.opcode == 1) = some d → t.checkOpen p d prog wpkg psig.sigOk wsig.sigOk = .ok f →
        let key := (Tbl.get {} t.sec.jobKeys (bits (d.w 7) 31 0)).key
        let u := (t.takeOver p d f h).raiseP p 0x103 2 0
        go (some h) = .next (if Config.unwrapEscrow (escrowKey key h.serial (bits x 33 32)) = false then res 0x0070 3 t
          else res 0 2 (if bits (d.w 7) 31 0 = 0 then u else u.installKeys p (u.pt p).info.keyId))))

/-! ### Links -/

/-- Flits (R44, R373 to R378, R380, R382, R391, R394): a port that is UP sends in every flit time a NAK that is due, else a flit to be sent
again, else a packet flit under the next FSEQ, else an idle flit, sealed under its key slot at the port's counter, with its parity, on the
lanes in use; a flit with more than eight symbol errors or out of order is NAKed, one
that does not authenticate counts a failure, and one in order acknowledges and delivers its slots, of which a whole packet for this module has its effect then; a NAK sends again, and the eighth for
one FSEQ retrains the port; credits come back to their channel.
Rests on log entries 37, 38, 188, 189. -/
def Obligations.FlitRows : Prop :=
  (∀ (s : State) (n k : Nat) (h : Slot) (rest : List Slot) (c : Option (Nat × Nat × Nat)), hdr h 27 16 = s.addr → hdr h 52 50 ≤ 4 →
    let vc := 2 * hdr h 11 9 + (if hdr h 12 12 = 1 ∧ 2 ≤ hdr h 11 9 then 1 else 0)
    let freed := (s.upPort n fun q => { q with freed := Tbl.upd 0 q.freed vc (· + (rest.length + 1)) }).returnCredits n 64
    (hdr h 3 0 = 1 ∨ hdr h 3 0 = 2 ∨ hdr h 3 0 = 4 → s.packetIn n k (h :: rest) c =
      packetArrival (packetOf h rest c) { freed with links := { freed.links with inbox := freed.links.inbox ++ [packetOf h rest c] } }) ∧
    (hdr h 3 0 = 3 → s.packetIn n k (h :: rest) c = waggleMessage (hdr h 29 28) (hdr h 35 30) (waggleOf h rest) freed) ∧
    (hdr h 3 0 = 5 → hdr h 71 64 = 7 → s.packetIn n k (h :: rest) c =
      keyReadyIn n ((mgmtWords rest).getD 0 0) ((mgmtWords rest).getD 1 0) freed) ∧
    (hdr h 3 0 = 5 → hdr h 71 64 = 1 → s.packetIn n k (h :: rest) c =
      creditIn n ((mgmtWords rest).getD 0 0) ((mgmtWords rest).getD 1 0) ((mgmtWords rest).getD 2 0) s) ∧
    (5 < hdr h 3 0 → s.packetIn n k (h :: rest) c = freed.countErr n 15 8 1)) ∧
  ∀ (s : State) (n fseq vc cls k : Nat) (x : FlitIn) (b : Port) (l : List Slot) (st : Nat), s.mgmt.powerGood = true → s.pup n = true →
    (let ticks := ((s.port n).ticks + 1) % 64
     let p := s.port n
     let q : Port := { p with ticks := ticks, txCtr := p.txCtr + 1, tokens := if ticks = 0 then Nat.min 512 (p.tokens + 23) else p.tokens,
                              nakFor := p.nakFor.map fun (y : Nat × Nat) => (y.1, y.2 + 1) }
     let ack := BitVec.ofNat 11 q.rx
     let idle : Flit := { fseq := BitVec.ofNat 11 q.tx, ack := ack, typ := 1, key := 4, start := 31, slots := List.replicate 18 0 }
     let goes := fun (q : Port) (f : Flit) =>
       let wire := flitSymbols (sealFlit (Tbl.get {} q.keys f.key.toNat).tx (p.txCtr + 1) f)
       let t := (s.upPort n fun _ => q.carried f).emit (.flit n f (onLanes (lanesIn p.lanes) wire))
       let t := if f.typ = 0 then t.tally fun c => { c with linkTx := c.linkTx + 288 } else t
       (Host.Outcome.next (if ticks = 0 then t.returnCredits n 1 else t) : Res)
     (q.nakDue = true → exec (.flitTransmit n) s = goes { q with nakDue := false, nakFor := some (q.rx, 0) } { idle with typ := 2 }) ∧
     (q.nakDue = false → q.sent < q.replay.length → exec (.flitTransmit n) s =
       goes { q with sent := q.sent + 1 } { q.replay.getD q.sent idle with ack := ack }) ∧
     (q.nakDue = false → q.replay.length ≤ q.sent → 512 ≤ q.replay.length → exec (.flitTransmit n) s = goes q idle) ∧
     (q.nakDue = false → q.replay.length ≤ q.sent → q.replay.length < 512 →
       (s.fillFlit 18 q [] none 31 = (b, l, none, st) → exec (.flitTransmit n) s = goes q idle) ∧
       (s.fillFlit 18 q [] none 31 = (b, l, some k, st) → exec (.flitTransmit n) s =
         let f : Flit := { fseq := BitVec.ofNat 11 q.tx, ack := ack, typ := 0, key := BitVec.ofNat 3 k, start := BitVec.ofNat 5 st, slots := l }
         goes { b with tx := (b.tx + 1) % 2048, replay := b.replay ++ [f], sent := b.sent + 1 } f))) ∧
    (let s1 := s.upPort n fun q => { q with rxCtr := q.rxCtr + 1 }
     let ctr := (s1.port n).rxCtr
     (s1.flitBytes n x = none → exec (.flitReceive n x) s = .next (s1.upPort n Port.wantNak)) ∧
     ∀ bs errors, s1.flitBytes n x = some (bs, errors) →
       let h := flitOf (leNat (bs.take 4)) []
       let came := s1.upPort n fun q => q.carried h
       let fixed := if 0 < errors then came.countErr n 63 32 1 else came
       ((fixed.port n).keyFor h.key.toNat = none → exec (.flitReceive n x) s = .next (fixed.authFail n)) ∧
       ((fixed.port n).keyFor h.key.toNat = some k →
         let opened := openFlit (Tbl.get {} (fixed.port n).keys k).rx ctr bs
         (opened = none ∨ ctr ≤ Tbl.get 0 (fixed.port n).rxLast k →
           exec (.flitReceive n x) s = .next ((fixed.upPort n Port.wantNak).authFail n)) ∧
         ∀ f, opened = some f → Tbl.get 0 (fixed.port n).rxLast k < ctr →
           let s2 := fixed.upPort n fun q => { q with rxLast := Tbl.set 0 q.rxLast k ctr }
           let s3 := s2.upPort n fun q => q.acked f.ack.toNat
           (f.typ = 3 → exec (.flitReceive n x) s = .next (s2.countErr n 15 8 1)) ∧
           (f.typ = 2 → exec (.flitReceive n x) s = .next (nakArrives n f.ack.toNat s2)) ∧
           (f.typ = 1 → exec (.flitReceive n x) s = .next s3) ∧
           (f.typ = 0 → f.fseq.toNat ≠ (s3.port n).rx → exec (.flitReceive n x) s = .next (s3.upPort n Port.wantNak)) ∧
           (f.typ = 0 → f.fseq.toNat = (s3.port n).rx → exec (.flitReceive n x) s = .next (
             let r := parsePkts 36 ((s3.port n).part ++ f.slots)
             let t := s3.upPort n fun q => { q with rx := (q.rx + 1) % 2048, part := r.2, nakDue := false, nakFor := none }
             (r.1.zip (x.colls ++ List.replicate 18 none)).foldl (fun t y => t.packetIn n k y.1 y.2) t)))) ∧
    (let y := fseq % 2048
     let t := (s.upPort n fun q =>
       let q := q.acked y
       { q with sent := 0, retry := (y, if q.retry.1 = y then q.retry.2 + 1 else 1) }).countErr n 31 16 1
     exec (.nak n fseq) s = .next (if 8 ≤ (t.port n).retry.2 then (t.upPort n fun q => { q with retry := (y, 0) }).retrain n else t)) ∧
    exec (.credit n vc cls k) s = .next (s.upPort n fun q => { q with
      credits := Tbl.set 0 q.credits (2 * vc + cls) (Nat.min (vcBuffer vc) (Tbl.get 0 q.credits (2 * vc + cls) + k)),
      outst := giveBack (2 * vc + cls) k q.outst })

/-- Lanes, ports and spares (R371, R372, R385, R386, R389 to R391, R393, R558): a failed lane retrains its port, or fails it with fewer than four
left; the ends agree on the lanes that work at both, by the lane map of the harness; a FAILED port on a spare is UP again; a harness that passes trains its port; the state
of other modules' ports is noted and told on; what a failed port held goes over the new route, before what waits there; key slots open and close. That a command
which the state does not enable changes nothing is the model's choice (log entry 2).
Rests on log entry 109. -/
def Obligations.PortRows : Prop :=
  ∀ (s : State) (n lane slot fseq : Nat) (mask : BitVec 8) (ctr keyId : W64) (origin : BitVec 12) (up : Bool) (h : Harness),
    s.mgmt.powerGood = true →
    let st := s.pstate n
    let lost := s.setFld rLnkPStatus 0 n (16 + lane) (16 + lane) 1
    let w := ones 8 (s.port n).agreed.toNat
    let where_ := origin.toNat * 32 + n
    (n < 25 → lane < 8 → st ≠ 0 → st ≠ 5 → st ≠ 6 → s.fld rLnkPStatus 0 n (16 + lane) (16 + lane) = 0 →
      exec (.laneFailed n lane) s = .next (if lost.working n < 4 then lost.failPort n else lost.retrain n)) ∧
    (st = 4 → exec (.laneMap n mask ctr) s = .next (s.upPort n fun q => { q with
      agreed := s.nearMask n mask &&& ~~~ (BitVec.ofNat 8 (s.fld rLnkPStatus 0 n 23 16)), rxCtr := ctr.toNat - 1 })) ∧
    (∀ i < 8, (s.nearMask n mask).getLsbD i =
      mask.getLsbD (((Tbl.find s.boot.harness n).map fun h => farLane h i).getD i)) ∧
    (st = 4 → 4 ≤ w → exec (.retrainingDone n true) s = .next (s.portUp n (s.port n).agreed)) ∧
    (st = 4 → w < 4 → exec (.retrainingDone n true) s = .next (s.failPort n)) ∧
    (st = 4 → exec (.retrainingDone n false) s = .next (s.failPort n)) ∧
    (n < 25 → st ≠ 0 → st ≠ 6 → exec (.portFailed n) s = .next (s.failPort n)) ∧
    (∀ k, ([23, 24] : List Nat).find? (fun k => s.standsFor k == n) = some k → st = 5 →
      let t := (s.setFld rLnkPStatus 0 n 30 26 k).setFld rLnkPStatus 0 n 23 16 0
      exec (.spareTakeoverDone ⟨n, ctr⟩) s = .next (if (Tbl.get {} t.sec.auth n).tAuth = 0 then t.setPState n PS.training
        else (t.upPort n fun q => { q with rxCtr := ctr.toNat - 1 }).portUp n 0xff)) ∧
    (n < 25 → s.phaseOver 3 = true → s.phase 7 ≠ 0 →
      let t := s.upBoot fun b => { b with harness := Tbl.put b.harness n h }
      let gone := s.upBoot fun b => { b with harness := Tbl.del b.harness n }
      (t.phase 7 ≠ 0 → st = 0 ∨ st = 5 ∨ st = 6 → t.harnessPasses n h = true →
        exec (.harnessMate n (some h)) s = .next (t.setPState n PS.training)) ∧
      (gone.phase 7 ≠ 0 → st ≠ 0 → st ≠ 6 → exec (.harnessMate n none) s = .next (gone.failPort n))) ∧
    (origin.toNat ≠ s.addr → s.links.down.contains where_ = up → exec (.portState origin n up) s = .next (
      let down := if up then s.links.down.filter (· ≠ where_) else where_ :: s.links.down
      ({ s with links := { s.links with down := down } }).flood origin.toNat n up 25)) ∧
    (origin.toNat = s.addr ∨ s.links.down.contains where_ ≠ up → exec (.portState origin n up) s = .next s) ∧
    (st = 5 → s.standsFor 23 ≠ n → s.standsFor 24 ≠ n →
      let q := (s.port n).acked (fseq % 2048)
      exec (.resync n fseq) s = .next ((q.unsent.filter fun x => !portOwn x.2).reverse.foldl (fun t x => t.relay n x.1 true true x.2)
        (s.upPort n fun _ => { q with replay := [], sent := 0, queue := [], cur := none, lead := [], part := [] }))) ∧
    exec (.keyReady n slot keyId) s = .next (s.upPort n fun q => { q with
      ready := Tbl.put q.ready slot keyId.toNat
      keys := q.keys.map fun e => if e.2.keyId = keyId.toNat ∧ e.2.keyId ≠ 0 then (e.1, { e.2 with peer := some slot }) else e }) ∧
    exec (.keyRetire n slot) s = .next (s.upPort n fun q => { q with
      ready := Tbl.del q.ready slot
      keys := q.keys.map fun e => if e.2.peer = some slot then (e.1, { e.2 with peer := none }) else e })

/-! ### Collectives -/

/-- Collective groups and communication queues (R403 to R407): a hello that names an enabled group by its TAG is heard, or fails the
group when its shape or key differs, and one that names none is kept; a group still FORMING after two epochs is reported once; an
enable fixes the shape and begins to form; a queue is enabled empty on an enabled group; a write of TAIL makes the link engine
take entries.
Rests on log entry 39. -/
def Obligations.GroupsAndCommunicationQueues : Prop :=
  ∀ (s : State) (h : Hello) (p g q : Nat) (v tail : W64), s.mgmt.powerGood = true → s.present p = true →
    let x := v.toNat
    let off := bits x 31 0
    let s0 := s.unstage rColGrpShape (p + 1) g
    let c0 := s.unstage rColCqCfg (p + 1) q
    (h.dptn = p → ((List.range 64).find? fun k => s.grpOn p k && s.grpTag p k == h.tag.toNat) = none →
      exec (.groupHello h) s = .next (s.upCol p fun c => { c with hellos := c.hellos ++ [h] })) ∧
    (h.dptn = p → h.target = 0 → ((List.range 64).find? fun k => s.grpOn p k && s.grpTag p k == h.tag.toNat) = some g →
      let same := h.shape.toNat = bits (s.rd rColGrpShape (p + 1) g) 47 16 ∧ h.keyId.toNat = s.keyId p
      (same → exec (.groupHello h) s = .next ((s.upGrp p g fun y => { y with
        heard := (h.src.toNat, h.sptn, h.group) :: y.heard.filter fun z => z.1 ≠ h.src.toNat }).checkReady p g)) ∧
      (¬ same → s.grpState p g = 1 ∨ s.grpState p g = 2 → exec (.groupHello h) s = .next (s.setGrp p g 3))) ∧
    (s.grpState p g = 1 → (s.grp p g).warned = false → 2 ^ 21 < s.since (s.grp p g).since → exec (.groupFormingTimeout p g) s =
      .next ((s.upGrp p g fun y => { y with warned := true }).raiseP p 0x130 g (s.rd rColGrpStatus (p + 1) g))) ∧
    (s.tdiOpen (p + 1) = true → s.grpOn p g = true →
      (bits x 63 63 = 1 → exec (.colGrpEnWrite p g v) s = .next (s0.grpResult p g 0)) ∧
      (bits x 63 63 = 0 → s.grpUsed p g = true → exec (.colGrpEnWrite p g v) s = .next (s0.grpResult p g 0x0020)) ∧
      (bits x 63 63 = 0 → s.grpUsed p g = false → exec (.colGrpEnWrite p g v) s = .next (
        let t := (s0.setFld rColGrpShape (p + 1) g 63 63 0).setGrp p g 0
        ((t.upGrp p g fun _ => {}).setFld rColGrpStatus (p + 1) g 47 20 0).grpResult p g 0))) ∧
    (s.tdiOpen (p + 1) = true → s.grpOn p g = false → bits x 63 63 = 1 →
      let s1 := s0.setFld rColGrpShape (p + 1) g 47 0 x
      let sh := shapeOf x
      (sh.mask = 0 ∨ sh.has s1.addr = false → exec (.colGrpEnWrite p g v) s = .next (s1.grpResult p g 0x0011)) ∧
      (sh.mask ≠ 0 → sh.has s1.addr = true → (s1.pt p).job = .running → (s1.pt p).info.keyId ≠ 0 →
        ((List.range 64).any fun k => k != g && s1.grpOn p k && s1.grpTag p k == bits x 15 0) = false →
        exec (.colGrpEnWrite p g v) s = .next (
          let t := (s1.setFld rColGrpShape (p + 1) g 63 63 1).grpResult p g 0
          ((t.setFld rColGrpStatus (p + 1) g 47 35 sh.size).setFld rColGrpStatus (p + 1) g 31 20 (sh.rank t.addr)).formGroup p g 0))) ∧
    (s.tdiOpen (p + 1) = true → s.fld rColCqCfg (p + 1) q 63 63 = 0 → bits x 63 63 = 1 → 4 ≤ bits x 60 56 → bits x 60 56 ≤ 12 →
      off % 64 = 0 →
      let s1 := ((c0.setFld rColCqCfg (p + 1) q 60 56 (bits x 60 56)).setFld rColCqCfg (p + 1) q 53 48 (bits x 53 48)).setFld
        rColCqCfg (p + 1) q 31 0 x
      off + 64 + 2 ^ bits x 60 56 * 64 ≤ s1.scratchSize p → s1.grpOn p (bits x 53 48) = true →
      exec (.colCqEnWrite p q v) s = .next (
        let t := (((s1.setFld rColCqCfg (p + 1) q 63 63 1).setCqWord p q 1 0).setCqWord p q 2 0).setCqWord p q 3 0
        ((t.setFld rColCqStatus (p + 1) q 47 32 0).setFld rColCqStatus (p + 1) q 1 0 1).cqResult p q 0)) ∧
    (s.fld rColCqCfg (p + 1) q 63 63 = 1 → exec (.commQueueTailWrite p q tail) s =
      .next ((s.setCqWord p q 0 tail.toNat).takeEntries 64 p q))

/-- Triggered operations and packets (R14, R44, R409 to R413): PUT and ADD pin and read their source and send it, CTR_ADD sends its increment,
NOP completes; without a route an operation ends ROUTE_LOST, with its group FAILED it ends GROUP_FAILED; a packet's write, adds or
increment, once the packet is accepted, are made and acknowledged; an operation completes with what its acknowledgements carry, which is
no reserved code, or TIMEOUT.
Rests on log entries 38, 67, 70. -/
def Obligations.TriggeredOperations : Prop :=
  ∀ (s t : State) (p q n : Nat) (o : COp) (a : Acks) (m : Packet), s.mgmt.powerGood = true →
    (let pages := pagesOf [(o.src, o.count)]
     let u := pages.foldl (fun u n => u.pinUnit p n false) t
     let o' := { o with armed := some u.mgmt.beat, pins := pages }
     let sent := fun (ptype : Nat) => (u.upOp p o.q o.n fun _ => o').sendBytes (o.count / 256 + 1) p o' (u.peerAddr p o) ptype o.dst
       (u.dvRead p o.src o.count) none
     let end_ := fun (r : State × Bool) => if r.2 then r.1 else r.1.finishOp p o' 0x0403
     s.opStarts p q n o → s.opPages p (unitOfOp o.q o.n) pages [] [(o.src, o.count)] = .ready t →
       (o.op = 0x01 → exec (.put p q n) s = .next (end_ (sent 1))) ∧ (o.op = 0x02 → exec (.add p q n) s = .next (end_ (sent 2)))) ∧
    (let o' := { o with armed := some s.mgmt.beat }
     let r := (s.upOp p o.q o.n fun _ => o').sendPacket p o' (s.peerAddr p o) 4 0 [] false o.count none
     s.opStarts p q n o → (o.op = 0x03 → exec (.ctrAdd p q n) s = .next (if r.2 then r.1 else r.1.finishOp p o' 0x0403)) ∧
       (o.op = 0x04 → exec (.colNop p q n) s = .next (s.finishOp p o 0))) ∧
    ((s.pt p).col.find q n = some o → o.done = false → o.armed = none → o.ready = none →
      s.grpState p (s.cqGroup p q) = 3 →
      (o.op = 0x01 → exec (.put p q n) s = .next (s.finishOp p o 0x0405)) ∧
      (o.op = 0x04 → exec (.colNop p q n) s = .next (s.finishOp p o 0x0405)) ∧
      (o.op = 0x10 → o.func = 1 → exec (.sumI64 p q n) s = .next (s.finishOp p o 0x0405)) ∧
      (o.op = 0x20 → exec (.allreduce p q n) s = .next (s.finishOp p o 0x0405))) ∧
    ((s.pt p).col.find q n = some o → o.done = false → ∀ b, o.armed = some b →
      (∀ st, o.ready = some st → exec (.operationComplete p q n a) s = .next ((s.finishOp p o st).takeEntries 64 p q)) ∧
      (o.ready = none → Code.known a.status.toNat = false → exec (.operationComplete p q n a) s = .next s) ∧
      (o.ready = none → o.op ≤ 0x03 → Code.known a.status.toNat = true → s.opDue o = false → exec (.operationComplete p q n a) s =
        .next ((s.finishOp p o a.status.toNat).takeEntries 64 p q)) ∧
      (o.ready = none → o.timeout ≠ 0 → b + o.timeout < s.mgmt.beat → exec (.operationTimeout p q n) s = .next (
        let u := s.finishOp p o 0x0030
        if o.isColl then u.setGrp p (u.cqGroup p q) 3 else u))) ∧
    (m.dptn = p → s.came m = true → s.present p = true → (s.pt p).job = .noJob → exec (.packetArrival m) s = .next (s.took m)) ∧
    (m.dptn = p → s.came m = true → s.present p = true → (s.pt p).job ≠ .noJob → s.awake p = false →
      exec (.packetArrival m) s = .next (s.setL p 1)) ∧
    (m.dptn = p → s.came m = true → s.present p = true → (s.pt p).job ≠ .noJob → s.awake p = true →
      (m.ptype = 4 → exec (.packetArrival m) s = .next (((s.took m).bumpTrig p (m.rctr % 256) m.inc).emit (.ack m 0))) ∧
      (m.ptype = 1 ∨ m.ptype = 2 → m.coll = none → ∀ u st, s.land p m = (u, some st) → exec (.packetArrival m) s = .next (
        ((if m.rctrEn = true ∧ st = 0 then u.bumpTrig p (m.rctr % 256) 1 else u).took m).emit (.ack m st))))

/-- Waggles and data collectives (R415 to R422): a WAGGLE that starts in its turn takes its lanes from SRC, a BARRIER none, and its
first round goes out; a message for a waggle that runs is held for its round and the rounds go on; a data collective that starts in its turn
copies what its operation asks from SRC to DST and goes through its steps as far as what has come allows. That a command
which the state does not enable changes nothing is the model's choice (log entry 2).
Rests on log entries 38, 40, 41, 68. -/
def Obligations.WagglesAndDataCollectives : Prop :=
  ∀ (s t : State) (p q n : Nat) (o : COp) (m : WagMsg), s.mgmt.powerGood = true →
    let g := s.cqGroup p o.q
    (s.opStarts p q n o → o.op = 0x10 → o.ord = (s.grp p g).wagDone →
      let run := fun (lanes : List W64) =>
        let w : Wag := { gen := o.ord, func := o.func, lanes := lanes }
        let u := s.upOp p o.q o.n fun x => { x with armed := some s.mgmt.beat, wag := w }
        (Host.Outcome.next (u.opWag p o (u.wagStart p g w (u.grp p g).held)) : Res)
      (o.func = 0 → exec (.waggleBarrier p q n) s = run (List.replicate (Nat.max 1 (Nat.min 8 o.lanes)) 0)) ∧
      (∀ (f : Nat) (row : Instr),
        (f, row) ∈ ([(1, .sumI64 p q n), (2, .minI64 p q n), (3, .maxI64 p q n), (4, .sumF64 p q n), (5, .minF64 p q n),
          (6, .maxF64 p q n)] : List (Nat × Instr)) →
        o.func = f → rangeBad 8 (s.pt p).live.slmBad [(o.src, 8 * o.lanes)] = [] →
        exec row s = run ((List.range o.lanes).map fun i => BitVec.ofNat 64 ((s.pt p).live.slm.rdLe (o.src + 8 * i) 8)))) ∧
    (s.present p = true → m.own = false → (s.grp p n).wagDone ≤ m.gen → m.gen ≤ (s.grp p n).wagDone + 1 →
      let u := s.upGrp p n fun x => { x with held := x.held ++ [m] }
      let runs := (u.pt p).col.ops.find? fun x => u.cqGroup p x.q == n && x.op == 0x10 && x.armed.isSome && !x.done && x.ready.isNone
      (runs = none → exec (.waggleMessage p n m) s = .next u) ∧
      (runs = some o → u.opDue o = false → exec (.waggleMessage p n m) s = .next (
        u.opWag p o (u.wagRun 4 p n o.wag (u.grp p n).held)))) ∧
    (s.present p = true → m.own = true →
      let u := s.upCol p fun c => { c with ownHeld := c.ownHeld ++ [m] }
      (m.gen < (s.pt p).col.ownGen → exec (.waggleMessage p n m) s = .next s) ∧
      ((s.pt p).col.ownGen ≤ m.gen → (s.pt p).col.own = none → exec (.waggleMessage p n m) s = .next u) ∧
      (∀ w, (s.pt p).col.ownGen ≤ m.gen → (s.pt p).col.own = some w →
        exec (.waggleMessage p n m) s = .next ((u.wagRun 4 p n w (u.pt p).col.ownHeld).own p n))) ∧
    (s.opStarts p q n o → o.ord = (s.grp p g).colDone →
      let es := esize o.dt
      let cb := s.chunkElems p o * es
      let r := (s.grpShape p g).rank s.addr
      let go := fun (reads : List (Nat × Nat)) (copy : List (Nat × Nat × Nat)) (row : Instr) =>
        let u := copy.foldl (fun (u : State) (x : Nat × Nat × Nat) =>
          if x.1 = x.2.1 then u else (u.dvWrite p (bwrites x.2.1 (u.dvRead p x.1 x.2.2))).1) t
        let u := (pagesOf reads).foldl (fun u n => u.pinUnit p n false) u
        let o' := { o with armed := some u.mgmt.beat, pins := pagesOf reads }
        let turn := fun (m : Packet) => match m.coll with
          | some (k, _) => k == o.ord
          | none => false
        let mine := (u.grp p g).early.filter turn
        let u := u.upGrp p g fun x =>
          { x with early := x.early.filter fun m => match m.coll with | some (k, _) => k != o.ord | none => false }
        s.opPages p (unitOfOp o.q o.n) (pagesOf reads) (pagesOf [(o.dst, o.count * es)]) reads = .ready t →
          exec row s = .next (mine.foldl (fun u m => u.collLand p o' m) (u.colRun 8 p o'))
      (o.op = 0x20 → go [(o.src, o.count * es)] [(o.src, o.dst, o.count * es)] (.allreduce p q n)) ∧
      (o.op = 0x21 → go [(o.src, o.count * es)] [(o.src, o.dst, o.count * es)] (.reduceScatter p q n)) ∧
      (o.op = 0x22 → go [(o.src + r * cb, cb)] [(o.src + r * cb, o.dst + r * cb, cb)] (.allgather p q n)) ∧
      (o.op = 0x23 → r = o.peer → go [(o.src, o.count * es)] [(o.src, o.dst, o.count * es)] (.broadcast p q n)) ∧
      (o.op = 0x23 → r ≠ o.peer → go [] [] (.broadcast p q n)) ∧
      (o.op = 0x24 → go [(o.src, o.count * es)] [(o.src + r * cb, o.dst + r * cb, cb)] (.alltoall p q n)))

/-! ### The codec -/

/-- Sessions, pictures and engines (R174, R462 to R488): OPEN takes a valid session block whose areas are backed, CLOSE empties the session;
ENCODE submits a picture, and one that ends a mini-GOP starts its coding; DECODE frees the slots that RELEASE names and starts; both
are refused in a session of the wrong state; abandoned blocks are concealed with their code; an engine fault runs the picture once more, then
fails its session; the engine's end completes the descriptor: a decoded unit's picture is that which decoding and film grain give, with
no damage code where the unit and its references are whole, and a write at a page-table block that was dropped is told.
Rests on log entries 72, 73, 74, 76, 77, 78, 79, 163, 196. -/
def Obligations.CodecSessionsAndPictures : Prop :=
  ∀ (s t : State) (p n e block : Nat) (rest left : List Nat) (d : ADesc) (r : CdcRun) (o : CodecOut) (trouble : CodecTrouble),
    s.mgmt.powerGood = true →
    let c := s.cdc p d.ses
    let goes := fun (f : Nat) => s.starts p n 0x30 d ∧ d.func = f ∧ (s.pt p).splitNew = none ∧ (s.pt p).job = .running ∧
      (s.pt p).paused = none
    let refused := fun (x : Nat) => (Host.Outcome.next ((s.started p d).cdcFinish p d x 0 0) : Res)
    let working := s.run p e = some r ∧ r.start.isSome = true ∧ (s.pt p).findDesc r.sq r.seq = some d ∧ (s.pt p).paused = none
    (goes 1 → d.w 7 ≠ d.ses → exec (.openSession p n) s = refused 0x0501) ∧
    (goes 1 → d.w 7 = d.ses → bits (d.w 2) 63 48 = 0 → d.w 2 % 64 = 0 → (∀ i ∈ ([3, 4, 5, 6] : List Nat), d.w i = 0) →
      (c.state ≠ 0 → exec (.openSession p n) s = refused 0x0503) ∧
      (c.state = 0 → s.areaCheck p [(d.w 2, 128)] [] = 0 → s.residAll p (pagesOf [(d.w 2, 128)]) [] = .pin → s.dvBadIn p [(d.w 2, 128)] = [] →
        let t := s.passUnits p (unitOfRing d.sq) (pagesOf [(d.w 2, 128)])
        let x : CdcSes := { state := 1, block := t.dvRead p (d.w 2) 128 }
        x.blockOk (2 * t.k) = true → t.areaCheck p [] x.areas = 0 → t.fld rMemSlmSplitPtn 0 p 11 8 = 2 → (t.eng p x.engine).failed = false →
        (t.eng p (x.engine + 1)).failed = false →
        let buf := Nat.min (x.initDelay * x.bitrate * x.fpsNum) (x.bufSize * 90000 * x.fpsNum)
        exec (.openSession p n) s = .next (
          ((t.started p d).upCdc p d.ses fun _ => { x with buf := buf }).cdcFinish p d 0 0 0))) ∧
    (goes 4 → d.w 7 = d.ses → (∀ i ∈ ([2, 3, 4, 5, 6] : List Nat), d.w i = 0) → s.run p c.engine = none →
      exec (.closeSession p n) s = .next (((s.started p d).upCdc p d.ses fun _ => {}).cdcFinish p d 0 0 0)) ∧
    (goes 2 → d.w 7 = d.ses → bits (d.w 2) 63 48 = 0 → bits (d.w 3) 63 48 = 0 → bits (d.w 4) 63 32 = 0 → d.w 5 = 0 → bits (d.w 6) 63 2 = 0 →
      let len := bits (d.w 4) 31 0
      let key := bits (d.w 6) 0 0 == 1
      let eos := bits (d.w 6) 1 1 == 1
      let since := c.nextSince key
      let pic : CdcPic := { src := d.w 2, roi := [], key := since == 1 }
      let all := c.queued ++ [pic]
      let wr := (d.w 3, len) :: c.areas
      (c.state ≠ 1 ∨ c.dec = true → exec (.encode p n) s = refused 0x0503) ∧
      (c.state = 1 → c.dec = false → (c.bFrames + 1) * c.maxAu ≤ len → s.engineFree p c.engine c.pair = true →
        s.areaCheck p [(d.w 2, c.picBytes c.height)] wr = 0 → s.residAll p [] [] = .pin → s.dvBadIn p [] = [] →
        (c.ends key eos since = false → exec (.encode p n) s = .next (
          ((s.started p d).upCdc p d.ses fun c => { c with queued := c.queued ++ [pic], since := since }).cdcFinish p d 0 0 0)) ∧
        (c.ends key eos since = true → exec (.encode p n) s = .next (
          s.whenPinned p d (all.map fun x => (x.src, c.picBytes c.height)) wr fun rd wp u =>
            let run : CdcRun := { sq := d.sq, seq := d.seq, ses := d.ses, start := some u.mgmt.beat, rd := rd, wr := wp }
            (((u.started p d).setRun p c.engine run).upEng p c.engine fun g => { g with ses := d.ses }).upCdc p d.ses
              fun c => { c with queued := all, since := if eos = true then 0 else since })))) ∧
    (goes 3 → d.w 7 = d.ses → bits (d.w 2) 63 48 = 0 → bits (d.w 3) 31 0 ≠ 0 → bits (d.w 4) 63 48 = 0 → bits (d.w 5) 63 24 = 0 → d.w 6 = 0 →
      let rd := [(d.w 2, bits (d.w 3) 31 0)]
      let wr := (if d.w 4 = 0 then [] else [(d.w 4, c.dmgLen)]) ++ c.areas
      let kept := c.held.filter fun i => bits (d.w 5) i i == 0
      let u := s.upCdc p d.ses fun c => { c with held := kept }
      (c.state ≠ 1 ∨ c.dec = false → exec (.decode p n) s = refused 0x0503) ∧
      (c.state = 1 → c.dec = true → s.engineFree p c.engine c.pair = true → s.areaCheck p rd wr = 0 →
        (({ c with held := kept }).freeSlots = [] → exec (.decode p n) s = .next ((u.started p d).cdcFinish p d 0x0504 0 0)) ∧
        (({ c with held := kept }).freeSlots ≠ [] → exec (.decode p n) s = .next (u.startRun p d rd wr c.engine)))) ∧
    (working → d.func = 3 → exec (.blockAbandoned p e block rest) s = .next (s.setRun p e (r.abandon 2 (block :: rest)))) ∧
    (working → d.func = 3 → r.start.getD 0 + d.budget c ≤ s.mgmt.beat →
      exec (.pictureBudgetExpired p e left) s = .next (s.setRun p e (r.abandon 3 left))) ∧
    (s.run p e = some r → r.start.isSome = true → t = s.resetEngine p e → trouble = .engineError ∨ trouble = .firmwareCheck →
      (r.replayed = false → (t.eng p e).failed = false → exec (.codecPictureRestart p e trouble) s =
        .next ((t.unpinRun p r).setRun p e { r with replayed := true, start := none, gone := [], blocks := 0, stopped := false })) ∧
      (r.replayed = true → exec (.codecPictureRestart p e trouble) s = .next (t.failPicture p e r))) ∧
    (s.run p (s.leadOf p e) = none → s.present p = true → e < 2 * s.k → trouble = .engineError ∨ trouble = .firmwareCheck →
      exec (.codecPictureRestart p e trouble) s = .next (s.resetEngine p e)) ∧
    (∀ k : CdcSes, k.unit.clean = true → r.gone = [] → k.unit.key = true ∨ k.whole = true →
      (k.codes r o.damage).all (· == 0) = true) ∧
    (working → (s.pt p).job = .running → s.runBad p r = [] → s.storeBad p e r = [] →
      s.framesFor p (r.wr.filter fun n => (s.page p n).cow) = true →
      let u := ((r.wr.filter fun n => (s.page p n).cow).foldl (fun u n => u.touchPage p n true) s).stopWaiting p (unitOfEngine e)
      let c := (u.cdc p r.ses).fed (u.unitOf p d (u.cdc p r.ses))
      let done := exec (.codecPictureDone p e o) s
      let stop := fun (x : Nat) => (Host.Outcome.next (((u.upCdc p r.ses fun _ => c).endRun p e r 0).cdcFinish p d x 0 0) : Res)
      (d.func = 3 → c.unit.usable = false → done = .next (
        let v := (u.raiseP p 0x140 r.ses 0).upCdc p r.ses fun _ => { c with damaged := c.damaged + 1 }
        (v.endRun p e r 0).cdcFinish p d 0x0060 0 0)) ∧
      (d.func = 3 → c.unit.usable = true → withinLimits c.unit = false → done = stop 0x0502) ∧
      (d.func = 3 → c.unit.usable = true → withinLimits c.unit = true → c.width < c.unit.width ∨ c.height < c.unit.height →
        done = stop 0x0012) ∧
      (d.func = 3 → c.unit.usable = true → withinLimits c.unit = true → c.unit.width ≤ c.width → c.unit.height ≤ c.height →
        c.freeSlots.contains o.slot = true →
        let codes := c.codes r o.damage
        let n := (codes.filter fun x => x != 0).length
        let w := u.dvWrite p (u.decodeWrites p c r o ++ if d.w 4 = 0 then [] else bwrites (d.w 4) (codes.map fun x => BitVec.ofNat 8 x))
        let x := c.took o.slot codes
        let v := if n = 0 then w.1.upCdc p r.ses fun _ => x
          else (w.1.raiseP p 0x140 r.ses n).upCdc p r.ses fun _ => { x with damaged := x.damaged + 1 }
        let st := if n ≠ 0 then 0x0060 else if r.replayed = true then 0x0003 else 0
        done = .next ((v.endRun p e r 1).cdcFinish p d (if w.2.1 = true then Code.ptWriteViolation else st)
          (slotsResult ((c.slotsOf o.slot c.unit.shown).take 8)) 0)) ∧
      (d.func = 2 → d.coded = none → ∀ x, (u.cdc p r.ses).takePics o.pics = some (x, []) → o.pics.length = (u.cdc p r.ses).queued.length →
        (∀ i < (u.cdc p r.ses).queued.length, (o.pics.filter fun y => y.pic == i).length = 1) →
        let bs := o.pics.map CodedPic.bytes
        let w := u.dvWrite p (clampWrites (u.cdc p r.ses).areas o.writes ++ bwrites (d.w 3) bs.flatten)
        let v := w.1.upCdc p r.ses fun _ => { x with queued := [], pictures := (u.cdc p r.ses).pictures + bs.length }
        let v := (v.endRun p e r bs.length).upPt p fun q => q.upDesc d.sq d.seq fun y => { y with coded := some bs }
        done = .next (v.cdcFinish p { d with coded := some bs }
          (if w.2.1 = true then Code.ptWriteViolation else if r.replayed = true then 0x0003 else 0) bs.flatten.length (bs.length % 256))))

/-! ### Power states and bring-up -/

/-- The brake and the ladder of power states (R529 to R534, R541): the brake is noted at once; a partition goes to L1 after 16 quiet
beats, to L2 and to L3 after its delay without running work, never deeper than MAX_DEPTH, and wakes from L2 or L3 to L1; the
state it enters shows in PWR_PTNp_STATE with the beat it began. That a command
which the state does not enable changes nothing is the model's choice (log entry 2). The caches of the partition's pages are dropped in
L3, and a delay counts on the 64-bit beat count.
Rests on log entries 18, 162. -/
def Obligations.PowerLadder : Prop :=
  ∀ (s : State) (p : Nat), s.mgmt.powerGood = true →
    let set := fun (l : Nat) => (s.setFld rPwrPtnState 0 p 2 0 l).upPower fun w =>
      { w with ladder := Tbl.set {} w.ladder p { s.ladder p with since := s.mgmt.beat } }
    let waited := fun (hi lo : Nat) => s.fld rPwrPtnState 0 p hi lo * 2 ^ 20 ≤ s.since (s.ladder p).since
    exec .brakeAssert s = .next { s with mgmt := { s.mgmt with brake := true } } ∧
    exec .brakeRelease s = .next { s with mgmt := { s.mgmt with brake := false } } ∧
    (s.present p = true → s.lstate p = 0 → 1 ≤ s.maxDepth p → 16 ≤ (s.ladder p).quiet → exec (.l1Entry p) s = .next (set 1)) ∧
    (s.lstate p = 1 → 2 ≤ s.maxDepth p → s.dozes p = true → waited 23 16 → exec (.l2Entry p) s = .next (set 2)) ∧
    (s.lstate p = 2 → s.maxDepth p = 3 → s.dozes p = true → waited 31 24 →
      exec (.l3Entry p) s = .next ((set 3).dropLines fun x => x / 3221225472 / s.k == p)) ∧
    (s.present p = true → s.lstate p = 2 ∨ s.lstate p = 3 → exec (.wake p) s = .next (set 1)) ∧
    (s.maxDepth p = 0 → exec (.l1Entry p) s = .next s ∧ exec (.l2Entry p) s = .next s ∧ exec (.l3Entry p) s = .next s)

/-- A write of PWR_LIMITS (R540): it is accepted only if 1,400 ≤ PL1 ≤ PL2 ≤ FAST and no field is above its reset value (2,800,
3,300 and 3,600 W). Any other write leaves the register as it is but for RESULT, which reads INVALID_OPERAND. Either way a low
half that waits for its high half is dropped (R11). -/
def Obligations.PowerLimitsWrite : Prop :=
  ∀ (s : State) (v : W64), s.mgmt.powerGood = true →
    let pl1 := bits v.toNat 15 0
    let pl2 := bits v.toNat 31 16
    let fast := bits v.toNat 47 32
    let ok := 1400 ≤ pl1 ∧ pl1 ≤ pl2 ∧ pl2 ≤ fast ∧ pl1 ≤ 2800 ∧ pl2 ≤ 3300 ∧ fast ≤ 3600
    (¬ ok → exec (.pwrLimitsWrite v) s = .next ((s.unstage rPwrLimits 0 0).setFld rPwrLimits 0 0 63 48 0x0011)) ∧
    (ok → s.store.mounted = true → s.fld rStoHealth 0 0 3 0 ≠ 5 → exec (.pwrLimitsWrite v) s = .next (
      let t := (s.unstage rPwrLimits 0 0).logChange 0x100000 0 (s.fld rPwrLimits 0 0 47 0) (bits v.toNat 47 0)
      ((t.setFld rPwrLimits 0 0 47 0 v.toNat).setFld rPwrLimits 0 0 63 48 0).noteSetting 0x100000))

/-- Bring-up phase by phase (R550 to R558): power-good starts the count and phase 1, the stagger release lets the dies and stacks be
powered; a row of a running phase does its work, ends the phase with its RESULT and starts what may follow; a firmware class
boots a verified slot no older than its fuse, and without one the boot fails; without a carrier the store does not mount. The logical
cores of a die that fails are mapped like those of any other (log entry 157). That a command
which the state does not enable changes nothing is the model's choice (log entry 2).
Rests on log entries 11, 31, 107, 108, 124, 125, 157. -/
def Obligations.BringUpPhases : Prop :=
  ∀ (s : State) (slot : Nat) (slots : List (FwSlot × FwSlot)) (fw : Tbl FwClass) (ok : Bool) (carrier : Option CarrierIn)
    (near : List (Nat × Harness)) (failed : List (Nat × Nat)) (gone cores dies : List Nat) (m : MountIn) (found : List (Nat × TrainIn)),
    (s.mgmt.powerGood = false → s.mgmt.standby = false → exec (.powerGood slot) s = .next (
      let t := { s with
        mgmt := { s.mgmt with powerGood := true, slot := slot % 64, beat := 0, refCycle := 0, sincePg := 0 }
        power := { s.power with hist1 := [(2 ^ 20, 2800)], hist2 := [(256, 3300)] } }
      (t.wr rMgtBringup 0 0 (slot % 64 * 2 ^ 46 + slot % 64 * 15000 * 65536)).startPhase 1)) ∧
    (s.mgmt.powerGood = true →
      let ended := fun (n : Nat) (t : State) (result : Nat) => (Host.Outcome.next (t.endPhase n result).advance : Res)
      (s.mgmt.staggered = false → s.fld rMgtBringup 0 0 35 16 ≤ s.mgmt.sincePg →
        exec .staggerRelease s = .next { s with mgmt := { s.mgmt with staggered := true } }.advance) ∧
      (s.phase 1 = 1 → slots.length = 5 →
        (bootAll s.svn 1 slots = none → exec (.rootOfTrust slots ok) s =
          .next (((s.setFld rMgtBuPhase 0 0 63 60 4).bootCause 1 1).bootState)) ∧
        (bootAll s.svn 1 slots = some fw → ∀ t, t = { s with sec := { s.sec with fw := fw, hasAlias := true } } →
          let pair := (t.fwDigest 1, t.fwDigest 2)
          let u := { t with sec := { t.sec with pairs := if t.sec.pairs.contains pair then t.sec.pairs else pair :: t.sec.pairs } }
          let fall := fw.foldl (fun v (e : Nat × FwClass) => if e.2.older then v + 2 ^ (e.1 - 1) else v) 0
          let u := (u.setFld rSecStatus 0 0 11 7 fall).setFld rSecStatus 0 0 1 0 (if fall = 0 then 1 else 2)
          u.phase 1 = 1 → exec (.rootOfTrust slots true) s = ended 1 u.revokeKeys 2)) ∧
      (s.phase 2 = 1 → exec (.mgmtFw true) s = ended 2 ((List.range 4).foldl (fun t d => t.loadAge d) s) 2) ∧
      (s.phase 3 = 1 → exec (.identity carrier near) s = ended 3 (s.upBoot fun b => { b with
        carrier := carrier, harness := near.foldl (fun t (e : Nat × Harness) => if e.1 < 25 then Tbl.put t e.1 e.2 else t) [] }) 2) ∧
      (s.phase 4 = 1 →
        let t := (List.range 12).foldl (fun t h => t.trainStack failed gone h) s
        let t := t.hbm.repaired.foldl (fun t r => t.redoRepair r) t
        exec (.hbmTrain failed gone) s = (if failed = [] ∧ gone = [] then ended 4 t 2 else ended 4 (t.bootCause 4 7) 3)) ∧
      (s.phase 5 = 1 →
        (s.boot.carrier = none → exec (.storeMount m) s = ended 5 (s.bootCause 5 2) 4) ∧
        (∀ c, s.boot.carrier = some c → carrierOk c = true → c.bbmDigest.toNat = beNat ((c.bytes.drop 0x30).take 32) →
          120 ≤ m.energy * 100 / 140 → m.journalOk = true → exec (.storeMount m) s = ended 5
            ((holdupTest m.energy { s with store := { s.store with heldUp := s.mgmt.beat } }).mountStore c m) 2)) ∧
      (s.phase 6 = 1 →
        let retired := cores.foldl (fun l c => if l.contains c then l else c :: l) s.cmap.retired
        let dead := (List.range 4).filter fun d => dies.contains d || decide (25 ≤ s.failedPhases d)
        let map := (List.range 4).foldl (fun t d => (List.range 4).foldl (fun t j => mapGroup retired d j t) t) []
        let t := { s with cmap := { retired := retired, map := map }, mgmt := { s.mgmt with deadDies := dead } }
        let t := (List.range 4).foldl (fun t d => t.syncSpares d) t
        exec (.coreTest cores dies) s = (if dead = [] then ended 6 t 2 else ended 6 (t.bootCause 6 8) 3)) ∧
      (s.phase 7 = 1 →
        let t := (List.range 25).foldl (fun t n => t.trainPort n ((found.find? fun e => e.1 == n).map (·.2))) s
        exec (.portTrain found) s = ended 7 t (if t.boot.cabled = [] then 2 else 3)) ∧
      (s.phase 8 = 1 →
        let t := (List.range 25).foldl (fun (t : State) n => if t.pstate n = 2 then t.linkAuthFailed n else t) s
        exec .linkAuth s = ended 8 t (if (List.range 25).any fun n => t.pstate n == 5 && !t.boot.cabled.contains n then 3 else 2)) ∧
      (s.phase 9 = 1 →
        let t := s.applySettings.settingsInForce
        let t := { t with regs := t.flash.rings.foldl (fun r (e : Nat × W64) => Tbl.put r e.1 e.2) t.regs }
        let t := (List.range 4).foldl (fun t p => t.formAt p) t
        let t := { t with flash := { t.flash with shape := t.fld rMgtPtnShape 0 0 3 2 } }
        exec .partitions s = ended 9 t (if (List.range 4).any fun p => t.present p && t.ptnDead p then 3 else 2)) ∧
      (s.phase 9 ≠ 1 → exec .partitions s = .next s))

/-- Hive and apiary (R559 to R564): a hello joins its sender and the members it has heard to the set, and news is told on; the hive
ends when the members agree or 2 s have passed; the leader's mask is final; a lower serial becomes the candidate; when it has
not changed for 680 ms the election ends; the first coordinates received give the hive its own, and the apiary ends with
LNK_ADDR VALID; the module ends phase 12 with its adoption. That a command
which the state does not enable changes nothing is the model's choice (log entry 2).
Rests on log entries 111, 112, 113, 114, 115. -/
def Obligations.HiveAndApiary : Prop :=
  ∀ (s : State) (port pos hops x y : Nat) (serial origin ref : W64) (heard : List (W64 × Nat)) (mask : BitVec 16) (addr : BitVec 12) (adopted : Bool),
    s.mgmt.powerGood = true →
    let set := helloSet serial.toNat pos heard
    let now := set.foldl (fun t (e : Nat × Nat) => if e.1 < 16 then Tbl.put t e.1 e.2 else t) s.boot.heard
    let met := s.upBoot fun b => { b with heard := now, reports := Tbl.put b.reports port set }
    (s.pup port = true → port < 15 → pos < 16 → now ≠ s.boot.heard → s.phase 10 ≠ 0 → s.phaseOver 10 = false →
      exec (.hiveHello port serial pos heard) s = .next met.sendHellos) ∧
    (s.pup port = true → port < 15 → pos < 16 → now = s.boot.heard → exec (.hiveHello port serial pos heard) s = .next met) ∧
    (s.phase 10 = 1 → s.hiveAgrees = true ∨ s.fld rMgtBuPhase 0 9 31 0 + 488281 ≤ s.mgmt.sincePg → s.boot.hiveFixed = false →
      let lead := (lowest s.boot.heard).getD 0
      let members := s.boot.heard.foldl (fun m (e : Nat × Nat) => m + 2 ^ e.1) 0
      let t := { s with boot := { s.boot with leader := lead, hiveFixed := s.leads lead }, mgmt := { s.mgmt with members := members } }
      let told := (List.range 15).foldl (fun (t : State) n =>
        if t.pup n then t.sendMgmt n 0x11 [lead, members] else t) t
      let u := if t.leads lead then told else t
      exec .hive s = .next ((u.endPhase 10 2).advanceHive.bootState)) ∧
    (s.phase 10 = 1 → s.hiveAgrees = false → s.mgmt.sincePg < s.fld rMgtBuPhase 0 9 31 0 + 488281 → exec .hive s = .next s) ∧
    (s.phase 10 = 1 → s.boot.hiveFixed = false → exec (.hiveFormed serial mask) s = .next
      { s with boot := { s.boot with leader := serial.toNat, hiveFixed := true }, mgmt := { s.mgmt with members := mask.toNat } }) ∧
    (s.pup port = true → s.boot.elected = false →
      let v := minSerial serial.toNat s.boot.cand
      let t := s.upBoot fun b => { b with cand := some v, candBeat := s.mgmt.sincePg }
      (s.boot.cand = some v → exec (.apiaryElect port serial hops) s = .next s) ∧
      (s.boot.cand ≠ some v → exec (.apiaryElect port serial hops) s = .next (if t.phase 11 = 1 then t.sendElect (hops + 1) port else t))) ∧
    (s.phase 11 = 1 → s.boot.elected = false → s.boot.candBeat + 166016 ≤ s.mgmt.sincePg →
      let t := (s.upBoot fun b => { b with elected := true, origin := b.cand.getD b.leader }).originRef
      exec .electionEnd s = .next (if t.boot.origin = t.boot.leader then t.takeCoords 0 0 torusPortList else t)) ∧
    (s.pup port = true → s.phase 11 ≠ 5 →
      let c := impliedCoords port x y
      (s.boot.coords = none → s.boot.elected = true → exec (.apiaryCoord port origin x y) s = .next (s.takeCoords c.1 c.2 ((List.range 25).erase port))) ∧
      (s.boot.coords = some c → exec (.apiaryCoord port origin x y) s = .next s) ∧
      (∀ old, s.boot.coords = some old → c ≠ old → 15 ≤ port → exec (.apiaryCoord port origin x y) s = .next (s.cableFail port 11 0x0b))) ∧
    (s.phase 11 = 1 → s.boot.coords = some (x, y) →
      exec .apiary s = .next (((s.setAddr x y s.pos).endPhase 11 2).announce.advanceHive.bootState)) ∧
    (s.pup port = true → s.boot.coords.isSome = true →
      let t := s.upBoot fun b => { b with nbrs := if adopted then port :: b.nbrs.erase port else b.nbrs.erase port }
      let u := t.upBoot fun b => { b with ref := ref.toNat, refAddr := some addr.toNat }
      exec (.apiaryState port false origin ref addr adopted) s = .next t ∧
      (s.boot.refAddr ≠ some addr.toNat → s.phaseOver 11 = false → exec (.apiaryState port true origin ref addr adopted) s = .next u) ∧
      (s.boot.refAddr ≠ some addr.toNat → s.phaseOver 11 = true → s.phase 11 ≠ 5 →
        exec (.apiaryState port true origin ref addr adopted) s = .next u.chooseRef.announce)) ∧
    (s.phase 12 = 1 → s.mgmt.adopted = true → exec .time s = .next (((s.endPhase 12 2).announce).bootState)) ∧
    (s.mgmt.adopted = false → exec .time s = .next s)

/-! ### Time, boundaries and accesses -/

/-- The time base (R41 to R60, R396, R577, R579): a boundary does its work in the order of R43 and leaves REF_CYCLE 0; an epoch boundary's
work is done once; a 64-bit read of MGT_BEAT returns the beat and latches REF_CYCLE; a TIME_REQ is answered with its stamps, and the
answer to this module's own gives OFFSET and the path delay; the count is adopted once, before any partition has been READY, and a beat
value held then lies as many beats back as before; alignment is lost and regained; an edge on the time input latches the beat, and one
that stays away is reported once, after 245,000 beats. That a command
which the state does not enable changes nothing is the model's choice (log entry 2).
Rests on log entries 4, 10, 28, 133, 153, 154. -/
def Obligations.TimeBase : Prop :=
  ∀ (s : State) (i : BeatIn) (port seq b : Nat) (count : W64) (t1 t2 t3 : Stamp)
    (f2 f3 f4 : BitVec 16), s.mgmt.powerGood = true →
    (let b0 := s.mgmt.beat
     let s1 := ((s.countBeat.arriveStep i).timeoutStep b0).eachPtn fun t p => t.versionsBoundary p
     let s2 := s1.governorStep i
     let s3 := ((s2.preemptStep b0).repairRows.eachPtn fun t p => (t.grantStep p s2.mgmt.beat).shadowBoundary p).grantModule
     let s4 := (s3.grantStore i.patrol).eachPtn fun t p => (t.noteFrames p).enterDue p
     let s5 := if s4.epochDue then s4.epochGrant else s4
     let s6 := (((((s5.sb3Boundary).linksBoundary).refBoundary).timeReqBoundary).drainJournal).eachPtn fun t p => t.noteSeen p
     s.countBeat.mgmt.beat = (b0 + 1) % 2 ^ 64 ∧
       exec (.beatBoundary i) s = .next { s6 with mgmt := { s6.mgmt with refCycle := 0 } }) ∧
    (s.mgmt.beat % 2 ^ 20 = 0 → s.mgmt.epochSeen ≠ s.epoch → s.mgmt.beat ≠ 0 → exec .epochBoundary s = .next (
      let t := ((s.telEpoch (s.epoch - 1)).saveAge).wearGovernor
      ({ t with mgmt := { t.mgmt with epochSeen := t.epoch } }).eachPtn fun t p => (t.migrate p).ownWaggles p)) ∧
    (s.mgmt.beat % 2 ^ 20 ≠ 0 → exec .epochBoundary s = .next s) ∧
    exec .mgtBeatRead s = .next ((s.wr rMgtBeatFrac 0 0 s.mgmt.refCycle).emit (.readData 0 0x100 8 (BitVec.ofNat 64 s.mgmt.beat))) ∧
    exec (.timeReq port seq t1 f2 f3) s = .next (s.sendMgmt port 3
      [seq, 0, t1.beat.toNat, t1.frac.toNat, s.mgmt.beat % 2 ^ 64, f2.toNat, s.mgmt.beat % 2 ^ 64, f3.toNat]) ∧
    (s.mgmt.awaiting = true → exec (.timeRsp s.refPort s.mgmt.seq t1 t2 t3 f4) s = .next (
      let t4 : Stamp := { beat := BitVec.ofNat 64 s.mgmt.beat, frac := f4 }
      let o := ((stampUnits t2 - stampUnits t1) - (stampUnits t4 - stampUnits t3)) / 2
      let delay := ((stampUnits t4 - stampUnits t1) - (stampUnits t3 - stampUnits t2)) / 2
      let t := s.setFld rMgtTimeAlign 0 0 15 0 (ofSigned 16 (clampOffset o))
      let t := { t with boot := { t.boot with exch := t.boot.exch + 1 }, mgmt := { t.mgmt with awaiting := false, delay := delay } }
      if t.fld rMgtTimeAlign 0 0 31 30 = 1 ∧ o.natAbs ≤ 128 then t.setAlign 2 else t)) ∧
    (s.mgmt.adopted = true → exec (.countAdoption count) s = .next s) ∧
    (s.mgmt.adopted = false → s.anyReady = false → s.phase 12 = 1 → 4 ≤ s.boot.exch → s.boot.nbrs.contains s.refPort = true →
      let d : Int := (count.toNat : Int) - s.mgmt.beat
      let t := s.rebase d
      let u := { t with mgmt := { t.mgmt with beat := count.toNat, adopted := true, epochSeen := count.toNat / 2 ^ 20 } }
      exec (.countAdoption count) s = .next (u.setAlign 1) ∧ (u.setAlign 1).since (rebase d b) = s.since b ∧
        t.timers = (s.timers.map fun x => { x with armed := rebase d x.armed }) ∧
        t.evq = s.evq.map (fun (e : Nat × EvQ) =>
          (e.1, { e.2 with due := e.2.due.map (rebase d), waiting := e.2.waiting.map (fun w => { w with beat := rebase d w.beat }) })) ∧
        t.log.entries = (s.log.entries.map fun e => { e with beat := rebase d e.beat }) ∧ t.log.head = s.log.head) ∧
    (s.fld rMgtTimeAlign 0 0 31 30 = 1 ∨ s.fld rMgtTimeAlign 0 0 31 30 = 2 → 16 ≤ s.mgmt.drift →
      exec .alignmentLost s = .next (s.setAlign 3)) ∧
    (s.mgmt.drift < 16 → exec .alignmentLost s = .next s) ∧
    (s.fld rMgtTimeAlign 0 0 31 30 = 3 → s.offBeyond = false → exec .alignmentRegained s = .next (s.setAlign 2)) ∧
    (s.fld rMgtSb3 0 0 1 0 = 1 → exec .ppsEdge s = .next (
      let t := s.wr rMgtPpsBeat 0 0 s.mgmt.beat
      (({ t with mgmt := { t.mgmt with ppsMissed := false } }).setFld rMgtPpsStatus 0 0 31 31 1).setFld rMgtPpsStatus 0 0 9 0 s.mgmt.refCycle)) ∧
    (s.fld rMgtSb3 0 0 1 0 ≠ 1 → exec .ppsEdge s = .next s) ∧
    (s.fld rMgtPpsStatus 0 0 31 31 = 1 → 245000 < s.since (s.rd rMgtPpsBeat 0 0) → s.mgmt.ppsMissed = false → exec .ppsMissed s = .next (
      let t := (s.setFld rMgtPpsStatus 0 0 30 30 1).raiseM 0x003 (s.rd rMgtPpsBeat 0 0) 0
      { t with mgmt := { t.mgmt with ppsMissed := true } })) ∧
    (s.since (s.rd rMgtPpsBeat 0 0) ≤ 245000 ∨ s.mgmt.ppsMissed = true → exec .ppsMissed s = .next s)

/-- Telemetry, the management bus and the PCIe link (R306, R307, R533, R544, R567, R573 to R576): a record due is written while its ring
has room and counted lost otherwise; WAKE and the release of PERST# leave stand-by, after a thermal trip only when cool; BRINGUP
and POWER_STATE answer on the bus; a training of the link is recorded, and one outside the rated points reported. That a command
which the state does not enable changes nothing is the model's choice (log entry 2).
Rests on log entries 23, 119, 126. -/
def Obligations.TelemetryAndManagementBus : Prop :=
  ∀ (s : State) (head : Option W64) (e : Nat) (bs : Bytes) (addr speed width : Nat) (cool flit : Bool),
    (s.mgmt.powerGood = true → s.tel.due = some (e, bs) → s.fld rMgtTelCfg 0 0 31 31 = 1 → s.busMaster 0 = true →
      let w := s.tel.written
      let h := (head.map (·.toNat)).getD s.tel.head
      let l := s.fld rMgtTelCfg 0 0 4 0
      let s1 := { s with tel := { s.tel with due := none, head := h } }
      ((w + 2 ^ 64 - h) % 2 ^ 64 < 2 ^ l → exec (.telemetryRecord head) s = .next (
        let status := (w / 2 ^ l + 1) % 2 * 2 ^ 63 + if s.tel.lostNext then 2 ^ 62 else 0
        let t := s1.emit (.hostWrite 0 (s1.rd rMgtTelBase 0 0 + 128 * (w % 2 ^ l)) (bs ++ leBytes 8 status))
        ({ t with tel := { t.tel with written := (w + 1) % 2 ^ 64, lostNext := false } }).raiseM 0x070 e ((w + 1) % 2 ^ 64))) ∧
      (2 ^ l ≤ (w + 2 ^ 64 - h) % 2 ^ 64 → exec (.telemetryRecord head) s = .next
        { s1.setFld rMgtTelCfg 0 0 15 8 (satAdd 255 (s1.fld rMgtTelCfg 0 0 15 8) 1) with tel := { s1.tel with lostNext := true } })) ∧
    (let woken := { s with mgmt := { s.mgmt with standby := false, tripped := false } }
     (s.mgmt.standby = true → s.mgmt.tripped = false ∨ cool = true → exec (.i3cWake cool) s = .next woken ∧
       exec (.perstDeassert cool) s = .next { woken with mgmt := { woken.mgmt with perst := false } }) ∧
     (s.mgmt.standby = true → s.mgmt.tripped = true → cool = false → exec (.i3cWake cool) s = .next s) ∧
     (s.mgmt.standby = false → exec (.i3cWake cool) s = .next s ∧
       exec (.perstDeassert cool) s = .next { s with mgmt := { s.mgmt with perst := false } })) ∧
    exec .i3cBringup s = .next (s.emit (.message "I3C" 0
      (byteNats (leBytes 8 (if s.mgmt.powerGood then s.rd rMgtBringup 0 0 else 0))))) ∧
    exec .i3cPowerState s = .next (s.emit (.message "I3C" 0
      [if s.mgmt.powerGood then (List.range s.parts).foldl (fun m p => Nat.max m (s.lstate p)) 0 else 4])) ∧
    exec (.dynamicAddressAssignment addr) s = .next { s with mgmt := { s.mgmt with dynAddr := addr % 128 } } ∧
    (s.mgmt.powerGood = true → s.mgmt.perst = false → s.phaseOver 2 = true → 1 ≤ speed → speed ≤ 6 → width ∈ ([1, 2, 4, 8, 16] : List Nat) →
      let n := s.fld rMgtPcieLink 0 0 31 24
      let n := if s.fld rMgtPcieLink 0 0 12 8 = 0 then n else satAdd 255 n 1
      let t := s.wr rMgtPcieLink 0 0 (n * 2 ^ 24 + (if flit then 65536 else 0) + width * 256 + speed * 2 + 1)
      exec (.pcieLinkTrained speed width flit) s = .next (
        if (speed = 4 ∨ speed = 5 ∨ speed = 6) ∧ (width = 8 ∨ width = 16) then t else t.raiseM 0x004 (t.rd rMgtPcieLink 0 0) 0))

/-- Accesses to the functions' registers and configuration space (R8, R11, R310, R313, R332, R502): an aligned read of four bytes, or of eight on a 64-bit register, returns
what the register holds and clears the RC fields it returns; a place without a register reads 0; an access of another size or
alignment reads all ones and writes nothing; a write of the low half of a 64-bit register waits for the high half, which writes the
register whole. In BAR2 a write of a doorbell rings it, aligned reads return 0 and others all ones. A word of the configuration space
reads its fixed bits and what software has written to the others; a write keeps those that software may write, and to a locked TDI's
BARs, command or MSI-X registers it makes the TDI ERROR; a stream's register block of the IDE capability takes what is written (R501); until
phase 2 of bring-up ends a configuration request is to be retried (R573). That a command
which the state does not enable changes nothing is the model's choice (log entry 2).
Rests on log entries 120, 121, 122, 126, 135. -/
def Obligations.RegisterAccesses : Prop :=
  (∀ (s : State) (p off width : Nat) (v : W64), s.mgmt.powerGood = true → p < 4 → s.tdiOpen (p + 1) = true →
    (alignedAccess off width = true → exec (.rcRegisterRead (33 + p) off width) s = .next (s.emit (.readData (33 + p) off width 0))) ∧
    (alignedAccess off width = false → exec (.rcRegisterRead (33 + p) off width) s =
      .next (s.emit (.readData (33 + p) off width (BitVec.ofNat 64 (2 ^ (8 * width) - 1)))) ∧
      exec (.registerWrite (33 + p) off width v) s = .next s) ∧
    (∀ n < 64, width = 4 ∨ width = 8 → exec (.registerWrite (33 + p) (4096 * n) width v) s = exec (.doorbell p n v width) s)) ∧
  (∀ (s : State) (fn off : Nat) (v : W64), s.mgmt.powerGood = true → fn ≤ 4 → off < 4096 → off % 4 = 0 →
    let w := v.toNat % 2 ^ 32
    let locked := fn ≠ 0 ∧ ((s.tdi fn).state = 1 ∨ (s.tdi fn).state = 2)
    (s.phaseOver 2 = false → exec (.rcRegisterRead (64 + fn) off 4) s = .next (s.emit (.message "REQUEST_RETRY_STATUS" (64 + fn) [off])) ∧
      exec (.registerWrite (64 + fn) off 4 v) s = .next (s.emit (.message "REQUEST_RETRY_STATUS" (64 + fn) [off]))) ∧
    (s.phaseOver 2 = true → exec (.rcRegisterRead (64 + fn) off 4) s =
      .next (s.emit (.readData (64 + fn) off 4 (BitVec.ofNat 64 (s.configFixed fn off ||| s.cfgRd fn off))))) ∧
    (∀ r, ideReg fn off = some r → s.phaseOver 2 = true →
      exec (.registerWrite (64 + fn) off 4 v) s = .next ((s.cfgStore fn off w).ideWrite (some r) w)) ∧
    (s.phaseOver 2 = true → ideReg fn off = none → off ∉ [0x04, 0x44, 0x50, 0x78, 0x168, 0x2C8, 0x2D0] → ¬ (locked ∧ tdiGuards off = true) →
      exec (.registerWrite (64 + fn) off 4 v) s = .next (s.cfgStore fn off w) ∧
      ∀ t, exec (.registerWrite (64 + fn) off 4 v) s = .next t →
        t.cfgRd fn off &&& s.cfgRw fn off = w &&& s.cfgRw fn off ∧ t.regs = s.regs ∧ t.ptn = s.ptn) ∧
    (s.phaseOver 2 = true → locked → off ∈ [0x10, 0x14, 0x18, 0x1C, 0x20, 0x24, 0x54, 0x58] →
      exec (.registerWrite (64 + fn) off 4 v) s = .next ((s.setTdi fn 3).cfgStore fn off w)) ∧
    (s.phaseOver 2 = true → fn ≠ 0 → ¬ locked → exec (.registerWrite (64 + fn) 4 4 v) s = .next ((s.cfgStore fn 4 w).setMaster fn (bits w 2 2 == 1)))) ∧
  ∀ (s : State) (fn off width : Nat) (v : W64) (r : RegSpec) (i : Nat), s.mgmt.powerGood = true → fn ≤ 4 ∨ (16 ≤ fn ∧ fn < 26) →
    (1 ≤ fn ∧ fn ≤ 4 → s.tdiOpen fn = true) → (fn = 0 → s.d3hot 0 = false) → (fn = 0 → off ≠ 0x100 ∧ off ≠ 0x200100 ∧ off ≠ 0x200104) → (16 ≤ fn → off ≠ 8) →
    let key := r.key fn i
    (alignedAccess off width = false → exec (.rcRegisterRead fn off width) s =
      .next (s.emit (.readData fn off width (BitVec.ofNat 64 (2 ^ (8 * width) - 1)))) ∧ exec (.registerWrite fn off width v) s = .next s) ∧
    (off % 4 = 0 → findReg fn off regMap = none → exec (.rcRegisterRead fn off 4) s = .next (s.emit (.readData fn off 4 0)) ∧
      exec (.registerWrite fn off 4 v) s = .next s) ∧
    (off % 4 = 0 → ∀ b, findReg fn off regMap = some (r, i, b) →
      exec (.rcRegisterRead fn off 4) s = .next ((s.clearRc r fn i (8 * b + 31) (8 * b)).emit
        (.readData fn off 4 (BitVec.ofNat 64 (s.view r fn i / 2 ^ (8 * b) % 2 ^ 32)))) ∧
      (r.width = 4 → exec (.registerWrite fn off 4 v) s = .next (s.writeReg r fn i (v.toNat % 2 ^ 32))) ∧
      (r.width = 8 → b = 0 → exec (.registerWrite fn off 4 v) s =
        .next { s with stage := Tbl.put s.stage key (BitVec.ofNat 32 v.toNat) }) ∧
      (r.width = 8 → b ≠ 0 → ∀ x : W32, Tbl.find s.stage key = some x → exec (.registerWrite fn off 4 v) s =
        .next ({ s with stage := Tbl.del s.stage key }.writeReg r fn i (v.toNat % 2 ^ 32 * 2 ^ 32 + x.toNat)))) ∧
    (off % 8 = 0 → findReg fn off regMap = some (r, i, 0) → r.width = 8 →
      exec (.rcRegisterRead fn off 8) s = .next ((s.clearRc r fn i 63 0).emit (.readData fn off 8 (BitVec.ofNat 64 (s.view r fn i)))) ∧
      exec (.registerWrite fn off 8 v) s = .next ({ s with stage := Tbl.del s.stage key }.writeReg r fn i v.toNat))
end

