-- ==== Sys2Proof/Laws/Table.lean ====
section
/-! SUPPORT. Laws of the sparse tables and of memory: a read after a write, and that every operation keeps the canonical
form. -/

namespace Sys2Proof.Machine

/-! ### Reading after writing -/

@[simp] theorem Tbl.get_put_self {α : Type} (d : α) (t : Tbl α) (k : Nat) (v : α) : Tbl.get d (Tbl.put t k v) k = v := by
  induction t with
  | nil => simp [Tbl.put, Tbl.get]
  | cons x t ih =>
    obtain ⟨a, w⟩ := x
    simp only [Tbl.put]
    split
    · simp [Tbl.get]
    · split
      · simp [Tbl.get]
      · rename_i h1 h2
        simp [Tbl.get, h1, h2, ih]

theorem Tbl.get_put_ne {α : Type} (d : α) (t : Tbl α) (k j : Nat) (v : α) (h : j ≠ k) :
    Tbl.get d (Tbl.put t k v) j = Tbl.get d t j := by
  induction t with
  | nil => simp [Tbl.put, Tbl.get, h]
  | cons x t ih =>
    obtain ⟨a, w⟩ := x
    simp only [Tbl.put]
    split
    · rename_i hka
      by_cases hjk : j < k
      · have : j ≠ a := by omega
        have : j < a := by omega
        simp [Tbl.get, *]
      · simp [Tbl.get, *]
    · split
      · rename_i h1 h2
        subst h2
        simp [Tbl.get, h]
      · rename_i h1 h2
        simp only [Tbl.get, ih]

@[simp] theorem Tbl.find_put_self {α : Type} (t : Tbl α) (k : Nat) (v : α) : Tbl.find (Tbl.put t k v) k = some v := by
  induction t with
  | nil => simp [Tbl.put, Tbl.find]
  | cons x t ih =>
    obtain ⟨a, w⟩ := x
    simp only [Tbl.put]
    split
    · simp [Tbl.find]
    · split
      · simp [Tbl.find]
      · rename_i h1 h2
        simp [Tbl.find, h1, h2, ih]

theorem Tbl.find_put_ne {α : Type} (t : Tbl α) (k j : Nat) (v : α) (h : j ≠ k) :
    Tbl.find (Tbl.put t k v) j = Tbl.find t j := by
  induction t with
  | nil => simp [Tbl.put, Tbl.find, h]
  | cons x t ih =>
    obtain ⟨a, w⟩ := x
    simp only [Tbl.put]
    split
    · rename_i hka
      by_cases hjk : j < k
      · have : j ≠ a := by omega
        have : j < a := by omega
        simp [Tbl.find, *]
      · simp [Tbl.find, *]
    · split
      · rename_i h1 h2
        subst h2
        simp [Tbl.find, h]
      · simp only [Tbl.find, ih]

/-! ### The canonical form -/

/-- The keys of a table are at least `lo` and strictly rising. -/
def Tbl.rising {α : Type} : Nat → Tbl α → Prop
  | _, [] => True
  | lo, (a, _) :: t => lo ≤ a ∧ Tbl.rising (a + 1) t

theorem Tbl.okFrom_rising {α : Type} [DecidableEq α] (d : α) :
    ∀ (lo : Nat) (t : Tbl α), Tbl.okFrom d lo t = true → Tbl.rising lo t
  | _, [], _ => trivial
  | lo, (a, v) :: t, h => by
    simp only [Tbl.okFrom, Bool.and_eq_true, decide_eq_true_eq] at h
    exact ⟨h.1.1, Tbl.okFrom_rising d _ _ h.2⟩

theorem Tbl.okFrom_mono {α : Type} [DecidableEq α] (d : α) (lo hi : Nat) (t : Tbl α) (h : lo ≤ hi)
    (ht : Tbl.okFrom d hi t = true) : Tbl.okFrom d lo t = true := by
  cases t with
  | nil => rfl
  | cons x t =>
    simp only [Tbl.okFrom, Bool.and_eq_true, decide_eq_true_eq] at ht ⊢
    exact ⟨⟨by omega, ht.1.2⟩, ht.2⟩

theorem Tbl.okFrom_put {α : Type} [DecidableEq α] (d : α) (v : α) (hv : v ≠ d) :
    ∀ (lo k : Nat) (t : Tbl α), lo ≤ k → Tbl.okFrom d lo t = true → Tbl.okFrom d lo (Tbl.put t k v) = true
  | lo, k, [], hk, _ => by simp [Tbl.put, Tbl.okFrom, hk, hv]
  | lo, k, (a, w) :: t, hk, h => by
    simp only [Tbl.okFrom, Bool.and_eq_true, decide_eq_true_eq] at h
    simp only [Tbl.put]
    split
    · rename_i hka
      simp only [Tbl.okFrom, Bool.and_eq_true, decide_eq_true_eq]
      exact ⟨⟨hk, hv⟩, ⟨by omega, h.1.2⟩, h.2⟩
    · split
      · rename_i h2
        subst h2
        simp only [Tbl.okFrom, Bool.and_eq_true, decide_eq_true_eq]
        exact ⟨⟨hk, hv⟩, h.2⟩
      · simp only [Tbl.okFrom, Bool.and_eq_true, decide_eq_true_eq]
        exact ⟨h.1, Tbl.okFrom_put d v hv _ _ _ (by omega) h.2⟩

theorem Tbl.okFrom_del {α : Type} [DecidableEq α] (d : α) :
    ∀ (lo k : Nat) (t : Tbl α), Tbl.okFrom d lo t = true → Tbl.okFrom d lo (Tbl.del t k) = true
  | lo, k, [], _ => rfl
  | lo, k, (a, w) :: t, h => by
    have h0 := h
    simp only [Tbl.okFrom, Bool.and_eq_true, decide_eq_true_eq] at h
    simp only [Tbl.del]
    split
    · exact h0
    · split
      · exact Tbl.okFrom_mono d _ _ _ (by omega) h.2
      · simp only [Tbl.okFrom, Bool.and_eq_true, decide_eq_true_eq]
        exact ⟨h.1, Tbl.okFrom_del d _ _ _ h.2⟩

/-- Setting a key keeps the canonical form. -/
theorem Tbl.ok_set {α : Type} [DecidableEq α] (d : α) (t : Tbl α) (k : Nat) (v : α) (h : Tbl.ok d t = true) :
    Tbl.ok d (Tbl.set d t k v) = true := by
  unfold Tbl.set
  split
  · exact Tbl.okFrom_del d 0 k t h
  · exact Tbl.okFrom_put d v (by assumption) 0 k t (Nat.zero_le k) h

theorem Tbl.get_of_lt {α : Type} (d : α) : ∀ (lo k : Nat) (t : Tbl α), k < lo → Tbl.rising lo t → Tbl.get d t k = d
  | _, _, [], _, _ => rfl
  | lo, k, (a, w) :: t, hk, h => by
    have : k ≠ a := by have := h.1; omega
    have : k < a := by have := h.1; omega
    simp [Tbl.get, *]

theorem Tbl.get_del_self {α : Type} (d : α) : ∀ (lo k : Nat) (t : Tbl α), Tbl.rising lo t → Tbl.get d (Tbl.del t k) k = d
  | _, _, [], _ => rfl
  | lo, k, (a, w) :: t, h => by
    simp only [Tbl.del]
    split
    · have : k ≠ a := by omega
      simp [Tbl.get, *]
    · split
      · rename_i h2
        exact Tbl.get_of_lt d (a + 1) k t (by omega) h.2
      · rename_i h1 h2
        simp [Tbl.get, h1, h2, Tbl.get_del_self d _ _ t h.2]

theorem Tbl.get_del_ne {α : Type} (d : α) : ∀ (lo k j : Nat) (t : Tbl α), j ≠ k → Tbl.rising lo t →
    Tbl.get d (Tbl.del t k) j = Tbl.get d t j
  | _, _, _, [], _, _ => rfl
  | lo, k, j, (a, w) :: t, hj, h => by
    simp only [Tbl.del]
    split
    · rfl
    · split
      · rename_i h2
        subst h2
        by_cases hlt : j < k
        · simp [Tbl.get, hj, hlt, Tbl.get_of_lt d (k + 1) j t (by omega) h.2]
        · simp [Tbl.get, hj, hlt]
      · simp only [Tbl.get, Tbl.get_del_ne d _ _ _ t hj h.2]

/-- What a key reads as after it is set. -/
theorem Tbl.get_set_self {α : Type} [DecidableEq α] (d : α) (t : Tbl α) (k : Nat) (v : α) (h : Tbl.ok d t = true) :
    Tbl.get d (Tbl.set d t k v) k = v := by
  unfold Tbl.set
  split
  · rename_i hv
    rw [hv]
    exact Tbl.get_del_self d 0 k t (Tbl.okFrom_rising d 0 t h)
  · exact Tbl.get_put_self d t k v

/-- Setting a key leaves every other key as it was. -/
theorem Tbl.get_set_ne {α : Type} [DecidableEq α] (d : α) (t : Tbl α) (k j : Nat) (v : α) (hj : j ≠ k)
    (h : Tbl.ok d t = true) : Tbl.get d (Tbl.set d t k v) j = Tbl.get d t j := by
  unfold Tbl.set
  split
  · exact Tbl.get_del_ne d 0 k j t hj (Tbl.okFrom_rising d 0 t h)
  · exact Tbl.get_put_ne d t k j v hj

/-! ### Memory -/

/-- A byte store keeps a memory canonical. -/
theorem Memory.wf_wr (m : Memory) (a : Nat) (b : Byte) (h : m.wf = true) : (m.wr a b).wf = true :=
  Tbl.ok_set _ m a b h

/-- A byte reads as it was stored. -/
theorem Memory.rd_wr_self (m : Memory) (a : Nat) (b : Byte) (h : m.wf = true) : (m.wr a b).rd a = b :=
  Tbl.get_set_self _ m a b h

/-- A byte store leaves every other byte as it was. -/
theorem Memory.rd_wr_ne (m : Memory) (a c : Nat) (b : Byte) (hc : c ≠ a) (h : m.wf = true) : (m.wr a b).rd c = m.rd c :=
  Tbl.get_set_ne _ m a c b hc h

/-- A store of a byte string keeps a memory canonical. -/
theorem Memory.wf_wrN : ∀ (bs : Bytes) (m : Memory) (a : Nat), m.wf = true → (m.wrN a bs).wf = true
  | [], _, _, h => h
  | b :: bs, m, a, h => Memory.wf_wrN bs (m.wr a b) (a + 1) (Memory.wf_wr m a b h)

/-- A store of a byte string leaves every byte outside it as it was. -/
theorem Memory.rd_wrN_ne : ∀ (bs : Bytes) (m : Memory) (a c : Nat), m.wf = true → (c < a ∨ a + bs.length ≤ c) →
    (m.wrN a bs).rd c = m.rd c
  | [], _, _, _, _, _ => rfl
  | b :: bs, m, a, c, h, hc => by
    have hc' : c < a + 1 ∨ a + 1 + bs.length ≤ c := by
      simp only [List.length_cons] at hc
      omega
    have hne : c ≠ a := by
      simp only [List.length_cons] at hc
      omega
    rw [Memory.wrN, Memory.rd_wrN_ne bs (m.wr a b) (a + 1) c (Memory.wf_wr m a b h) hc', Memory.rd_wr_ne m a c b hne h]

/-- A stored byte string reads back. -/
theorem Memory.rdN_wrN : ∀ (bs : Bytes) (m : Memory) (a : Nat), m.wf = true → (m.wrN a bs).rdN a bs.length = bs
  | [], _, _, _ => rfl
  | b :: bs, m, a, h => by
    have hw := Memory.wf_wr m a b h
    simp only [Memory.wrN, List.length_cons, Memory.rdN]
    rw [Memory.rd_wrN_ne bs (m.wr a b) (a + 1) a hw (by omega), Memory.rd_wr_self m a b h,
      Memory.rdN_wrN bs (m.wr a b) (a + 1) hw]

/-- A little-endian store keeps a memory canonical. -/
theorem Memory.wf_wrLe (m : Memory) (a n v : Nat) (h : m.wf = true) : (m.wrLe a n v).wf = true :=
  Memory.wf_wrN _ m a h

end Sys2Proof.Machine
end

