-- ==== Sys2Proof/Laws/State.lean ====
section
/-! SUPPORT. What each named update leaves of the state: one lemma for each field it does not change, and what it changes. -/

namespace Sys2Proof.Machine

/-! `State.wr` -/

@[simp] theorem State.wr_mgmt (s : State) (r : RegSpec) (fn i v : Nat) : (s.wr r fn i v).mgmt = s.mgmt := rfl
@[simp] theorem State.wr_cfg (s : State) (r : RegSpec) (fn i v : Nat) : (s.wr r fn i v).cfg = s.cfg := rfl
@[simp] theorem State.wr_stage (s : State) (r : RegSpec) (fn i v : Nat) : (s.wr r fn i v).stage = s.stage := rfl
@[simp] theorem State.wr_out (s : State) (r : RegSpec) (fn i v : Nat) : (s.wr r fn i v).out = s.out := rfl
@[simp] theorem State.wr_timers (s : State) (r : RegSpec) (fn i v : Nat) : (s.wr r fn i v).timers = s.timers := rfl
@[simp] theorem State.wr_evq (s : State) (r : RegSpec) (fn i v : Nat) : (s.wr r fn i v).evq = s.evq := rfl
@[simp] theorem State.wr_lcl (s : State) (r : RegSpec) (fn i v : Nat) : (s.wr r fn i v).lcl = s.lcl := rfl
@[simp] theorem State.wr_ptn (s : State) (r : RegSpec) (fn i v : Nat) : (s.wr r fn i v).ptn = s.ptn := rfl
@[simp] theorem State.wr_store (s : State) (r : RegSpec) (fn i v : Nat) : (s.wr r fn i v).store = s.store := rfl
@[simp] theorem State.wr_hbm (s : State) (r : RegSpec) (fn i v : Nat) : (s.wr r fn i v).hbm = s.hbm := rfl
@[simp] theorem State.wr_cmap (s : State) (r : RegSpec) (fn i v : Nat) : (s.wr r fn i v).cmap = s.cmap := rfl
@[simp] theorem State.wr_engines (s : State) (r : RegSpec) (fn i v : Nat) : (s.wr r fn i v).engines = s.engines := rfl
@[simp] theorem State.wr_links (s : State) (r : RegSpec) (fn i v : Nat) : (s.wr r fn i v).links = s.links := rfl
@[simp] theorem State.wr_log (s : State) (r : RegSpec) (fn i v : Nat) : (s.wr r fn i v).log = s.log := rfl
@[simp] theorem State.wr_sec (s : State) (r : RegSpec) (fn i v : Nat) : (s.wr r fn i v).sec = s.sec := rfl
@[simp] theorem State.wr_power (s : State) (r : RegSpec) (fn i v : Nat) : (s.wr r fn i v).power = s.power := rfl
@[simp] theorem State.wr_boot (s : State) (r : RegSpec) (fn i v : Nat) : (s.wr r fn i v).boot = s.boot := rfl
@[simp] theorem State.wr_flash (s : State) (r : RegSpec) (fn i v : Nat) : (s.wr r fn i v).flash = s.flash := rfl
@[simp] theorem State.wr_tel (s : State) (r : RegSpec) (fn i v : Nat) : (s.wr r fn i v).tel = s.tel := rfl
@[simp] theorem State.wr_slices (s : State) (r : RegSpec) (fn i v : Nat) : (s.wr r fn i v).slices = s.slices := rfl
@[simp] theorem State.wr_free (s : State) (r : RegSpec) (fn i v : Nat) : (s.wr r fn i v).free = s.free := rfl
@[simp] theorem State.wr_pending (s : State) (r : RegSpec) (fn i v : Nat) : (s.wr r fn i v).pending = s.pending := rfl

/-! `State.setFld` -/

@[simp] theorem State.setFld_mgmt (s : State) (r : RegSpec) (fn i hi lo v : Nat) : (s.setFld r fn i hi lo v).mgmt = s.mgmt := rfl
@[simp] theorem State.setFld_cfg (s : State) (r : RegSpec) (fn i hi lo v : Nat) : (s.setFld r fn i hi lo v).cfg = s.cfg := rfl
@[simp] theorem State.setFld_stage (s : State) (r : RegSpec) (fn i hi lo v : Nat) : (s.setFld r fn i hi lo v).stage = s.stage := rfl
@[simp] theorem State.setFld_out (s : State) (r : RegSpec) (fn i hi lo v : Nat) : (s.setFld r fn i hi lo v).out = s.out := rfl
@[simp] theorem State.setFld_timers (s : State) (r : RegSpec) (fn i hi lo v : Nat) : (s.setFld r fn i hi lo v).timers = s.timers := rfl
@[simp] theorem State.setFld_evq (s : State) (r : RegSpec) (fn i hi lo v : Nat) : (s.setFld r fn i hi lo v).evq = s.evq := rfl
@[simp] theorem State.setFld_lcl (s : State) (r : RegSpec) (fn i hi lo v : Nat) : (s.setFld r fn i hi lo v).lcl = s.lcl := rfl
@[simp] theorem State.setFld_ptn (s : State) (r : RegSpec) (fn i hi lo v : Nat) : (s.setFld r fn i hi lo v).ptn = s.ptn := rfl
@[simp] theorem State.setFld_store (s : State) (r : RegSpec) (fn i hi lo v : Nat) : (s.setFld r fn i hi lo v).store = s.store := rfl
@[simp] theorem State.setFld_hbm (s : State) (r : RegSpec) (fn i hi lo v : Nat) : (s.setFld r fn i hi lo v).hbm = s.hbm := rfl
@[simp] theorem State.setFld_cmap (s : State) (r : RegSpec) (fn i hi lo v : Nat) : (s.setFld r fn i hi lo v).cmap = s.cmap := rfl
@[simp] theorem State.setFld_engines (s : State) (r : RegSpec) (fn i hi lo v : Nat) : (s.setFld r fn i hi lo v).engines = s.engines := rfl
@[simp] theorem State.setFld_links (s : State) (r : RegSpec) (fn i hi lo v : Nat) : (s.setFld r fn i hi lo v).links = s.links := rfl
@[simp] theorem State.setFld_log (s : State) (r : RegSpec) (fn i hi lo v : Nat) : (s.setFld r fn i hi lo v).log = s.log := rfl
@[simp] theorem State.setFld_sec (s : State) (r : RegSpec) (fn i hi lo v : Nat) : (s.setFld r fn i hi lo v).sec = s.sec := rfl
@[simp] theorem State.setFld_power (s : State) (r : RegSpec) (fn i hi lo v : Nat) : (s.setFld r fn i hi lo v).power = s.power := rfl
@[simp] theorem State.setFld_boot (s : State) (r : RegSpec) (fn i hi lo v : Nat) : (s.setFld r fn i hi lo v).boot = s.boot := rfl
@[simp] theorem State.setFld_flash (s : State) (r : RegSpec) (fn i hi lo v : Nat) : (s.setFld r fn i hi lo v).flash = s.flash := rfl
@[simp] theorem State.setFld_tel (s : State) (r : RegSpec) (fn i hi lo v : Nat) : (s.setFld r fn i hi lo v).tel = s.tel := rfl
@[simp] theorem State.setFld_slices (s : State) (r : RegSpec) (fn i hi lo v : Nat) : (s.setFld r fn i hi lo v).slices = s.slices := rfl
@[simp] theorem State.setFld_free (s : State) (r : RegSpec) (fn i hi lo v : Nat) : (s.setFld r fn i hi lo v).free = s.free := rfl
@[simp] theorem State.setFld_pending (s : State) (r : RegSpec) (fn i hi lo v : Nat) : (s.setFld r fn i hi lo v).pending = s.pending := rfl

/-! `State.clrReg` -/

@[simp] theorem State.clrReg_mgmt (s : State) (r : RegSpec) (fn i : Nat) : (s.clrReg r fn i).mgmt = s.mgmt := rfl
@[simp] theorem State.clrReg_cfg (s : State) (r : RegSpec) (fn i : Nat) : (s.clrReg r fn i).cfg = s.cfg := rfl
@[simp] theorem State.clrReg_out (s : State) (r : RegSpec) (fn i : Nat) : (s.clrReg r fn i).out = s.out := rfl
@[simp] theorem State.clrReg_timers (s : State) (r : RegSpec) (fn i : Nat) : (s.clrReg r fn i).timers = s.timers := rfl
@[simp] theorem State.clrReg_evq (s : State) (r : RegSpec) (fn i : Nat) : (s.clrReg r fn i).evq = s.evq := rfl
@[simp] theorem State.clrReg_lcl (s : State) (r : RegSpec) (fn i : Nat) : (s.clrReg r fn i).lcl = s.lcl := rfl
@[simp] theorem State.clrReg_ptn (s : State) (r : RegSpec) (fn i : Nat) : (s.clrReg r fn i).ptn = s.ptn := rfl
@[simp] theorem State.clrReg_store (s : State) (r : RegSpec) (fn i : Nat) : (s.clrReg r fn i).store = s.store := rfl
@[simp] theorem State.clrReg_hbm (s : State) (r : RegSpec) (fn i : Nat) : (s.clrReg r fn i).hbm = s.hbm := rfl
@[simp] theorem State.clrReg_cmap (s : State) (r : RegSpec) (fn i : Nat) : (s.clrReg r fn i).cmap = s.cmap := rfl
@[simp] theorem State.clrReg_engines (s : State) (r : RegSpec) (fn i : Nat) : (s.clrReg r fn i).engines = s.engines := rfl
@[simp] theorem State.clrReg_links (s : State) (r : RegSpec) (fn i : Nat) : (s.clrReg r fn i).links = s.links := rfl
@[simp] theorem State.clrReg_log (s : State) (r : RegSpec) (fn i : Nat) : (s.clrReg r fn i).log = s.log := rfl
@[simp] theorem State.clrReg_sec (s : State) (r : RegSpec) (fn i : Nat) : (s.clrReg r fn i).sec = s.sec := rfl
@[simp] theorem State.clrReg_power (s : State) (r : RegSpec) (fn i : Nat) : (s.clrReg r fn i).power = s.power := rfl
@[simp] theorem State.clrReg_boot (s : State) (r : RegSpec) (fn i : Nat) : (s.clrReg r fn i).boot = s.boot := rfl
@[simp] theorem State.clrReg_flash (s : State) (r : RegSpec) (fn i : Nat) : (s.clrReg r fn i).flash = s.flash := rfl
@[simp] theorem State.clrReg_tel (s : State) (r : RegSpec) (fn i : Nat) : (s.clrReg r fn i).tel = s.tel := rfl
@[simp] theorem State.clrReg_slices (s : State) (r : RegSpec) (fn i : Nat) : (s.clrReg r fn i).slices = s.slices := rfl
@[simp] theorem State.clrReg_free (s : State) (r : RegSpec) (fn i : Nat) : (s.clrReg r fn i).free = s.free := rfl
@[simp] theorem State.clrReg_pending (s : State) (r : RegSpec) (fn i : Nat) : (s.clrReg r fn i).pending = s.pending := rfl

/-! `State.emit` -/

@[simp] theorem State.emit_mgmt (s : State) (o : Output) : (s.emit o).mgmt = s.mgmt := rfl
@[simp] theorem State.emit_cfg (s : State) (o : Output) : (s.emit o).cfg = s.cfg := rfl
@[simp] theorem State.emit_regs (s : State) (o : Output) : (s.emit o).regs = s.regs := rfl
@[simp] theorem State.emit_stage (s : State) (o : Output) : (s.emit o).stage = s.stage := rfl
@[simp] theorem State.emit_timers (s : State) (o : Output) : (s.emit o).timers = s.timers := rfl
@[simp] theorem State.emit_evq (s : State) (o : Output) : (s.emit o).evq = s.evq := rfl
@[simp] theorem State.emit_lcl (s : State) (o : Output) : (s.emit o).lcl = s.lcl := rfl
@[simp] theorem State.emit_ptn (s : State) (o : Output) : (s.emit o).ptn = s.ptn := rfl
@[simp] theorem State.emit_store (s : State) (o : Output) : (s.emit o).store = s.store := rfl
@[simp] theorem State.emit_hbm (s : State) (o : Output) : (s.emit o).hbm = s.hbm := rfl
@[simp] theorem State.emit_cmap (s : State) (o : Output) : (s.emit o).cmap = s.cmap := rfl
@[simp] theorem State.emit_engines (s : State) (o : Output) : (s.emit o).engines = s.engines := rfl
@[simp] theorem State.emit_links (s : State) (o : Output) : (s.emit o).links = s.links := rfl
@[simp] theorem State.emit_log (s : State) (o : Output) : (s.emit o).log = s.log := rfl
@[simp] theorem State.emit_sec (s : State) (o : Output) : (s.emit o).sec = s.sec := rfl
@[simp] theorem State.emit_power (s : State) (o : Output) : (s.emit o).power = s.power := rfl
@[simp] theorem State.emit_boot (s : State) (o : Output) : (s.emit o).boot = s.boot := rfl
@[simp] theorem State.emit_flash (s : State) (o : Output) : (s.emit o).flash = s.flash := rfl
@[simp] theorem State.emit_tel (s : State) (o : Output) : (s.emit o).tel = s.tel := rfl
@[simp] theorem State.emit_slices (s : State) (o : Output) : (s.emit o).slices = s.slices := rfl
@[simp] theorem State.emit_free (s : State) (o : Output) : (s.emit o).free = s.free := rfl
@[simp] theorem State.emit_pending (s : State) (o : Output) : (s.emit o).pending = s.pending := rfl

/-! `State.tally` -/

@[simp] theorem State.tally_mgmt (s : State) (f : EpochSum → EpochSum) : (s.tally f).mgmt = s.mgmt := rfl
@[simp] theorem State.tally_cfg (s : State) (f : EpochSum → EpochSum) : (s.tally f).cfg = s.cfg := rfl
@[simp] theorem State.tally_regs (s : State) (f : EpochSum → EpochSum) : (s.tally f).regs = s.regs := rfl
@[simp] theorem State.tally_stage (s : State) (f : EpochSum → EpochSum) : (s.tally f).stage = s.stage := rfl
@[simp] theorem State.tally_out (s : State) (f : EpochSum → EpochSum) : (s.tally f).out = s.out := rfl
@[simp] theorem State.tally_timers (s : State) (f : EpochSum → EpochSum) : (s.tally f).timers = s.timers := rfl
@[simp] theorem State.tally_evq (s : State) (f : EpochSum → EpochSum) : (s.tally f).evq = s.evq := rfl
@[simp] theorem State.tally_lcl (s : State) (f : EpochSum → EpochSum) : (s.tally f).lcl = s.lcl := rfl
@[simp] theorem State.tally_ptn (s : State) (f : EpochSum → EpochSum) : (s.tally f).ptn = s.ptn := rfl
@[simp] theorem State.tally_store (s : State) (f : EpochSum → EpochSum) : (s.tally f).store = s.store := rfl
@[simp] theorem State.tally_hbm (s : State) (f : EpochSum → EpochSum) : (s.tally f).hbm = s.hbm := rfl
@[simp] theorem State.tally_cmap (s : State) (f : EpochSum → EpochSum) : (s.tally f).cmap = s.cmap := rfl
@[simp] theorem State.tally_engines (s : State) (f : EpochSum → EpochSum) : (s.tally f).engines = s.engines := rfl
@[simp] theorem State.tally_links (s : State) (f : EpochSum → EpochSum) : (s.tally f).links = s.links := rfl
@[simp] theorem State.tally_log (s : State) (f : EpochSum → EpochSum) : (s.tally f).log = s.log := rfl
@[simp] theorem State.tally_sec (s : State) (f : EpochSum → EpochSum) : (s.tally f).sec = s.sec := rfl
@[simp] theorem State.tally_power (s : State) (f : EpochSum → EpochSum) : (s.tally f).power = s.power := rfl
@[simp] theorem State.tally_boot (s : State) (f : EpochSum → EpochSum) : (s.tally f).boot = s.boot := rfl
@[simp] theorem State.tally_flash (s : State) (f : EpochSum → EpochSum) : (s.tally f).flash = s.flash := rfl
@[simp] theorem State.tally_slices (s : State) (f : EpochSum → EpochSum) : (s.tally f).slices = s.slices := rfl
@[simp] theorem State.tally_free (s : State) (f : EpochSum → EpochSum) : (s.tally f).free = s.free := rfl
@[simp] theorem State.tally_pending (s : State) (f : EpochSum → EpochSum) : (s.tally f).pending = s.pending := rfl

/-! `State.upPt` -/

@[simp] theorem State.upPt_mgmt (s : State) (p : Nat) (f : Ptn → Ptn) : (s.upPt p f).mgmt = s.mgmt := rfl
@[simp] theorem State.upPt_cfg (s : State) (p : Nat) (f : Ptn → Ptn) : (s.upPt p f).cfg = s.cfg := rfl
@[simp] theorem State.upPt_regs (s : State) (p : Nat) (f : Ptn → Ptn) : (s.upPt p f).regs = s.regs := rfl
@[simp] theorem State.upPt_stage (s : State) (p : Nat) (f : Ptn → Ptn) : (s.upPt p f).stage = s.stage := rfl
@[simp] theorem State.upPt_out (s : State) (p : Nat) (f : Ptn → Ptn) : (s.upPt p f).out = s.out := rfl
@[simp] theorem State.upPt_timers (s : State) (p : Nat) (f : Ptn → Ptn) : (s.upPt p f).timers = s.timers := rfl
@[simp] theorem State.upPt_evq (s : State) (p : Nat) (f : Ptn → Ptn) : (s.upPt p f).evq = s.evq := rfl
@[simp] theorem State.upPt_lcl (s : State) (p : Nat) (f : Ptn → Ptn) : (s.upPt p f).lcl = s.lcl := rfl
@[simp] theorem State.upPt_store (s : State) (p : Nat) (f : Ptn → Ptn) : (s.upPt p f).store = s.store := rfl
@[simp] theorem State.upPt_hbm (s : State) (p : Nat) (f : Ptn → Ptn) : (s.upPt p f).hbm = s.hbm := rfl
@[simp] theorem State.upPt_cmap (s : State) (p : Nat) (f : Ptn → Ptn) : (s.upPt p f).cmap = s.cmap := rfl
@[simp] theorem State.upPt_engines (s : State) (p : Nat) (f : Ptn → Ptn) : (s.upPt p f).engines = s.engines := rfl
@[simp] theorem State.upPt_links (s : State) (p : Nat) (f : Ptn → Ptn) : (s.upPt p f).links = s.links := rfl
@[simp] theorem State.upPt_log (s : State) (p : Nat) (f : Ptn → Ptn) : (s.upPt p f).log = s.log := rfl
@[simp] theorem State.upPt_sec (s : State) (p : Nat) (f : Ptn → Ptn) : (s.upPt p f).sec = s.sec := rfl
@[simp] theorem State.upPt_power (s : State) (p : Nat) (f : Ptn → Ptn) : (s.upPt p f).power = s.power := rfl
@[simp] theorem State.upPt_boot (s : State) (p : Nat) (f : Ptn → Ptn) : (s.upPt p f).boot = s.boot := rfl
@[simp] theorem State.upPt_flash (s : State) (p : Nat) (f : Ptn → Ptn) : (s.upPt p f).flash = s.flash := rfl
@[simp] theorem State.upPt_tel (s : State) (p : Nat) (f : Ptn → Ptn) : (s.upPt p f).tel = s.tel := rfl
@[simp] theorem State.upPt_slices (s : State) (p : Nat) (f : Ptn → Ptn) : (s.upPt p f).slices = s.slices := rfl
@[simp] theorem State.upPt_free (s : State) (p : Nat) (f : Ptn → Ptn) : (s.upPt p f).free = s.free := rfl
@[simp] theorem State.upPt_pending (s : State) (p : Nat) (f : Ptn → Ptn) : (s.upPt p f).pending = s.pending := rfl

/-! `State.upJob` -/

@[simp] theorem State.upJob_mgmt (s : State) (p : Nat) (f : JobData → JobData) : (s.upJob p f).mgmt = s.mgmt := rfl
@[simp] theorem State.upJob_cfg (s : State) (p : Nat) (f : JobData → JobData) : (s.upJob p f).cfg = s.cfg := rfl
@[simp] theorem State.upJob_regs (s : State) (p : Nat) (f : JobData → JobData) : (s.upJob p f).regs = s.regs := rfl
@[simp] theorem State.upJob_stage (s : State) (p : Nat) (f : JobData → JobData) : (s.upJob p f).stage = s.stage := rfl
@[simp] theorem State.upJob_out (s : State) (p : Nat) (f : JobData → JobData) : (s.upJob p f).out = s.out := rfl
@[simp] theorem State.upJob_timers (s : State) (p : Nat) (f : JobData → JobData) : (s.upJob p f).timers = s.timers := rfl
@[simp] theorem State.upJob_evq (s : State) (p : Nat) (f : JobData → JobData) : (s.upJob p f).evq = s.evq := rfl
@[simp] theorem State.upJob_lcl (s : State) (p : Nat) (f : JobData → JobData) : (s.upJob p f).lcl = s.lcl := rfl
@[simp] theorem State.upJob_store (s : State) (p : Nat) (f : JobData → JobData) : (s.upJob p f).store = s.store := rfl
@[simp] theorem State.upJob_hbm (s : State) (p : Nat) (f : JobData → JobData) : (s.upJob p f).hbm = s.hbm := rfl
@[simp] theorem State.upJob_cmap (s : State) (p : Nat) (f : JobData → JobData) : (s.upJob p f).cmap = s.cmap := rfl
@[simp] theorem State.upJob_engines (s : State) (p : Nat) (f : JobData → JobData) : (s.upJob p f).engines = s.engines := rfl
@[simp] theorem State.upJob_links (s : State) (p : Nat) (f : JobData → JobData) : (s.upJob p f).links = s.links := rfl
@[simp] theorem State.upJob_log (s : State) (p : Nat) (f : JobData → JobData) : (s.upJob p f).log = s.log := rfl
@[simp] theorem State.upJob_sec (s : State) (p : Nat) (f : JobData → JobData) : (s.upJob p f).sec = s.sec := rfl
@[simp] theorem State.upJob_power (s : State) (p : Nat) (f : JobData → JobData) : (s.upJob p f).power = s.power := rfl
@[simp] theorem State.upJob_boot (s : State) (p : Nat) (f : JobData → JobData) : (s.upJob p f).boot = s.boot := rfl
@[simp] theorem State.upJob_flash (s : State) (p : Nat) (f : JobData → JobData) : (s.upJob p f).flash = s.flash := rfl
@[simp] theorem State.upJob_tel (s : State) (p : Nat) (f : JobData → JobData) : (s.upJob p f).tel = s.tel := rfl
@[simp] theorem State.upJob_slices (s : State) (p : Nat) (f : JobData → JobData) : (s.upJob p f).slices = s.slices := rfl
@[simp] theorem State.upJob_free (s : State) (p : Nat) (f : JobData → JobData) : (s.upJob p f).free = s.free := rfl
@[simp] theorem State.upJob_pending (s : State) (p : Nat) (f : JobData → JobData) : (s.upJob p f).pending = s.pending := rfl

/-! `State.upCore` -/

@[simp] theorem State.upCore_mgmt (s : State) (p lc : Nat) (f : Machine.Core → Machine.Core) : (s.upCore p lc f).mgmt = s.mgmt := rfl
@[simp] theorem State.upCore_cfg (s : State) (p lc : Nat) (f : Machine.Core → Machine.Core) : (s.upCore p lc f).cfg = s.cfg := rfl
@[simp] theorem State.upCore_regs (s : State) (p lc : Nat) (f : Machine.Core → Machine.Core) : (s.upCore p lc f).regs = s.regs := rfl
@[simp] theorem State.upCore_stage (s : State) (p lc : Nat) (f : Machine.Core → Machine.Core) : (s.upCore p lc f).stage = s.stage := rfl
@[simp] theorem State.upCore_out (s : State) (p lc : Nat) (f : Machine.Core → Machine.Core) : (s.upCore p lc f).out = s.out := rfl
@[simp] theorem State.upCore_timers (s : State) (p lc : Nat) (f : Machine.Core → Machine.Core) : (s.upCore p lc f).timers = s.timers := rfl
@[simp] theorem State.upCore_evq (s : State) (p lc : Nat) (f : Machine.Core → Machine.Core) : (s.upCore p lc f).evq = s.evq := rfl
@[simp] theorem State.upCore_lcl (s : State) (p lc : Nat) (f : Machine.Core → Machine.Core) : (s.upCore p lc f).lcl = s.lcl := rfl
@[simp] theorem State.upCore_store (s : State) (p lc : Nat) (f : Machine.Core → Machine.Core) : (s.upCore p lc f).store = s.store := rfl
@[simp] theorem State.upCore_hbm (s : State) (p lc : Nat) (f : Machine.Core → Machine.Core) : (s.upCore p lc f).hbm = s.hbm := rfl
@[simp] theorem State.upCore_cmap (s : State) (p lc : Nat) (f : Machine.Core → Machine.Core) : (s.upCore p lc f).cmap = s.cmap := rfl
@[simp] theorem State.upCore_engines (s : State) (p lc : Nat) (f : Machine.Core → Machine.Core) : (s.upCore p lc f).engines = s.engines := rfl
@[simp] theorem State.upCore_links (s : State) (p lc : Nat) (f : Machine.Core → Machine.Core) : (s.upCore p lc f).links = s.links := rfl
@[simp] theorem State.upCore_log (s : State) (p lc : Nat) (f : Machine.Core → Machine.Core) : (s.upCore p lc f).log = s.log := rfl
@[simp] theorem State.upCore_sec (s : State) (p lc : Nat) (f : Machine.Core → Machine.Core) : (s.upCore p lc f).sec = s.sec := rfl
@[simp] theorem State.upCore_power (s : State) (p lc : Nat) (f : Machine.Core → Machine.Core) : (s.upCore p lc f).power = s.power := rfl
@[simp] theorem State.upCore_boot (s : State) (p lc : Nat) (f : Machine.Core → Machine.Core) : (s.upCore p lc f).boot = s.boot := rfl
@[simp] theorem State.upCore_flash (s : State) (p lc : Nat) (f : Machine.Core → Machine.Core) : (s.upCore p lc f).flash = s.flash := rfl
@[simp] theorem State.upCore_tel (s : State) (p lc : Nat) (f : Machine.Core → Machine.Core) : (s.upCore p lc f).tel = s.tel := rfl
@[simp] theorem State.upCore_slices (s : State) (p lc : Nat) (f : Machine.Core → Machine.Core) : (s.upCore p lc f).slices = s.slices := rfl
@[simp] theorem State.upCore_free (s : State) (p lc : Nat) (f : Machine.Core → Machine.Core) : (s.upCore p lc f).free = s.free := rfl
@[simp] theorem State.upCore_pending (s : State) (p lc : Nat) (f : Machine.Core → Machine.Core) : (s.upCore p lc f).pending = s.pending := rfl

/-! `State.upPage` -/

@[simp] theorem State.upPage_mgmt (s : State) (p n : Nat) (f : Page → Page) : (s.upPage p n f).mgmt = s.mgmt := rfl
@[simp] theorem State.upPage_cfg (s : State) (p n : Nat) (f : Page → Page) : (s.upPage p n f).cfg = s.cfg := rfl
@[simp] theorem State.upPage_regs (s : State) (p n : Nat) (f : Page → Page) : (s.upPage p n f).regs = s.regs := rfl
@[simp] theorem State.upPage_stage (s : State) (p n : Nat) (f : Page → Page) : (s.upPage p n f).stage = s.stage := rfl
@[simp] theorem State.upPage_out (s : State) (p n : Nat) (f : Page → Page) : (s.upPage p n f).out = s.out := rfl
@[simp] theorem State.upPage_timers (s : State) (p n : Nat) (f : Page → Page) : (s.upPage p n f).timers = s.timers := rfl
@[simp] theorem State.upPage_evq (s : State) (p n : Nat) (f : Page → Page) : (s.upPage p n f).evq = s.evq := rfl
@[simp] theorem State.upPage_lcl (s : State) (p n : Nat) (f : Page → Page) : (s.upPage p n f).lcl = s.lcl := rfl
@[simp] theorem State.upPage_store (s : State) (p n : Nat) (f : Page → Page) : (s.upPage p n f).store = s.store := rfl
@[simp] theorem State.upPage_hbm (s : State) (p n : Nat) (f : Page → Page) : (s.upPage p n f).hbm = s.hbm := rfl
@[simp] theorem State.upPage_cmap (s : State) (p n : Nat) (f : Page → Page) : (s.upPage p n f).cmap = s.cmap := rfl
@[simp] theorem State.upPage_engines (s : State) (p n : Nat) (f : Page → Page) : (s.upPage p n f).engines = s.engines := rfl
@[simp] theorem State.upPage_links (s : State) (p n : Nat) (f : Page → Page) : (s.upPage p n f).links = s.links := rfl
@[simp] theorem State.upPage_log (s : State) (p n : Nat) (f : Page → Page) : (s.upPage p n f).log = s.log := rfl
@[simp] theorem State.upPage_sec (s : State) (p n : Nat) (f : Page → Page) : (s.upPage p n f).sec = s.sec := rfl
@[simp] theorem State.upPage_power (s : State) (p n : Nat) (f : Page → Page) : (s.upPage p n f).power = s.power := rfl
@[simp] theorem State.upPage_boot (s : State) (p n : Nat) (f : Page → Page) : (s.upPage p n f).boot = s.boot := rfl
@[simp] theorem State.upPage_flash (s : State) (p n : Nat) (f : Page → Page) : (s.upPage p n f).flash = s.flash := rfl
@[simp] theorem State.upPage_tel (s : State) (p n : Nat) (f : Page → Page) : (s.upPage p n f).tel = s.tel := rfl
@[simp] theorem State.upPage_slices (s : State) (p n : Nat) (f : Page → Page) : (s.upPage p n f).slices = s.slices := rfl
@[simp] theorem State.upPage_free (s : State) (p n : Nat) (f : Page → Page) : (s.upPage p n f).free = s.free := rfl
@[simp] theorem State.upPage_pending (s : State) (p n : Nat) (f : Page → Page) : (s.upPage p n f).pending = s.pending := rfl

/-! `State.upDisp` -/

@[simp] theorem State.upDisp_mgmt (s : State) (d : Nat) (f : Disp → Disp) : (s.upDisp d f).mgmt = s.mgmt := rfl
@[simp] theorem State.upDisp_cfg (s : State) (d : Nat) (f : Disp → Disp) : (s.upDisp d f).cfg = s.cfg := rfl
@[simp] theorem State.upDisp_regs (s : State) (d : Nat) (f : Disp → Disp) : (s.upDisp d f).regs = s.regs := rfl
@[simp] theorem State.upDisp_stage (s : State) (d : Nat) (f : Disp → Disp) : (s.upDisp d f).stage = s.stage := rfl
@[simp] theorem State.upDisp_out (s : State) (d : Nat) (f : Disp → Disp) : (s.upDisp d f).out = s.out := rfl
@[simp] theorem State.upDisp_timers (s : State) (d : Nat) (f : Disp → Disp) : (s.upDisp d f).timers = s.timers := rfl
@[simp] theorem State.upDisp_evq (s : State) (d : Nat) (f : Disp → Disp) : (s.upDisp d f).evq = s.evq := rfl
@[simp] theorem State.upDisp_lcl (s : State) (d : Nat) (f : Disp → Disp) : (s.upDisp d f).lcl = s.lcl := rfl
@[simp] theorem State.upDisp_store (s : State) (d : Nat) (f : Disp → Disp) : (s.upDisp d f).store = s.store := rfl
@[simp] theorem State.upDisp_hbm (s : State) (d : Nat) (f : Disp → Disp) : (s.upDisp d f).hbm = s.hbm := rfl
@[simp] theorem State.upDisp_cmap (s : State) (d : Nat) (f : Disp → Disp) : (s.upDisp d f).cmap = s.cmap := rfl
@[simp] theorem State.upDisp_engines (s : State) (d : Nat) (f : Disp → Disp) : (s.upDisp d f).engines = s.engines := rfl
@[simp] theorem State.upDisp_links (s : State) (d : Nat) (f : Disp → Disp) : (s.upDisp d f).links = s.links := rfl
@[simp] theorem State.upDisp_log (s : State) (d : Nat) (f : Disp → Disp) : (s.upDisp d f).log = s.log := rfl
@[simp] theorem State.upDisp_sec (s : State) (d : Nat) (f : Disp → Disp) : (s.upDisp d f).sec = s.sec := rfl
@[simp] theorem State.upDisp_power (s : State) (d : Nat) (f : Disp → Disp) : (s.upDisp d f).power = s.power := rfl
@[simp] theorem State.upDisp_boot (s : State) (d : Nat) (f : Disp → Disp) : (s.upDisp d f).boot = s.boot := rfl
@[simp] theorem State.upDisp_flash (s : State) (d : Nat) (f : Disp → Disp) : (s.upDisp d f).flash = s.flash := rfl
@[simp] theorem State.upDisp_tel (s : State) (d : Nat) (f : Disp → Disp) : (s.upDisp d f).tel = s.tel := rfl
@[simp] theorem State.upDisp_slices (s : State) (d : Nat) (f : Disp → Disp) : (s.upDisp d f).slices = s.slices := rfl
@[simp] theorem State.upDisp_free (s : State) (d : Nat) (f : Disp → Disp) : (s.upDisp d f).free = s.free := rfl
@[simp] theorem State.upDisp_pending (s : State) (d : Nat) (f : Disp → Disp) : (s.upDisp d f).pending = s.pending := rfl

/-! `State.upSq` -/

@[simp] theorem State.upSq_mgmt (s : State) (p n : Nat) (f : Sq → Sq) : (s.upSq p n f).mgmt = s.mgmt := rfl
@[simp] theorem State.upSq_cfg (s : State) (p n : Nat) (f : Sq → Sq) : (s.upSq p n f).cfg = s.cfg := rfl
@[simp] theorem State.upSq_regs (s : State) (p n : Nat) (f : Sq → Sq) : (s.upSq p n f).regs = s.regs := rfl
@[simp] theorem State.upSq_stage (s : State) (p n : Nat) (f : Sq → Sq) : (s.upSq p n f).stage = s.stage := rfl
@[simp] theorem State.upSq_out (s : State) (p n : Nat) (f : Sq → Sq) : (s.upSq p n f).out = s.out := rfl
@[simp] theorem State.upSq_timers (s : State) (p n : Nat) (f : Sq → Sq) : (s.upSq p n f).timers = s.timers := rfl
@[simp] theorem State.upSq_evq (s : State) (p n : Nat) (f : Sq → Sq) : (s.upSq p n f).evq = s.evq := rfl
@[simp] theorem State.upSq_lcl (s : State) (p n : Nat) (f : Sq → Sq) : (s.upSq p n f).lcl = s.lcl := rfl
@[simp] theorem State.upSq_store (s : State) (p n : Nat) (f : Sq → Sq) : (s.upSq p n f).store = s.store := rfl
@[simp] theorem State.upSq_hbm (s : State) (p n : Nat) (f : Sq → Sq) : (s.upSq p n f).hbm = s.hbm := rfl
@[simp] theorem State.upSq_cmap (s : State) (p n : Nat) (f : Sq → Sq) : (s.upSq p n f).cmap = s.cmap := rfl
@[simp] theorem State.upSq_engines (s : State) (p n : Nat) (f : Sq → Sq) : (s.upSq p n f).engines = s.engines := rfl
@[simp] theorem State.upSq_links (s : State) (p n : Nat) (f : Sq → Sq) : (s.upSq p n f).links = s.links := rfl
@[simp] theorem State.upSq_log (s : State) (p n : Nat) (f : Sq → Sq) : (s.upSq p n f).log = s.log := rfl
@[simp] theorem State.upSq_sec (s : State) (p n : Nat) (f : Sq → Sq) : (s.upSq p n f).sec = s.sec := rfl
@[simp] theorem State.upSq_power (s : State) (p n : Nat) (f : Sq → Sq) : (s.upSq p n f).power = s.power := rfl
@[simp] theorem State.upSq_boot (s : State) (p n : Nat) (f : Sq → Sq) : (s.upSq p n f).boot = s.boot := rfl
@[simp] theorem State.upSq_flash (s : State) (p n : Nat) (f : Sq → Sq) : (s.upSq p n f).flash = s.flash := rfl
@[simp] theorem State.upSq_tel (s : State) (p n : Nat) (f : Sq → Sq) : (s.upSq p n f).tel = s.tel := rfl
@[simp] theorem State.upSq_slices (s : State) (p n : Nat) (f : Sq → Sq) : (s.upSq p n f).slices = s.slices := rfl
@[simp] theorem State.upSq_free (s : State) (p n : Nat) (f : Sq → Sq) : (s.upSq p n f).free = s.free := rfl
@[simp] theorem State.upSq_pending (s : State) (p n : Nat) (f : Sq → Sq) : (s.upSq p n f).pending = s.pending := rfl

/-! `State.upCq` -/

@[simp] theorem State.upCq_mgmt (s : State) (p n : Nat) (f : Cq → Cq) : (s.upCq p n f).mgmt = s.mgmt := rfl
@[simp] theorem State.upCq_cfg (s : State) (p n : Nat) (f : Cq → Cq) : (s.upCq p n f).cfg = s.cfg := rfl
@[simp] theorem State.upCq_regs (s : State) (p n : Nat) (f : Cq → Cq) : (s.upCq p n f).regs = s.regs := rfl
@[simp] theorem State.upCq_stage (s : State) (p n : Nat) (f : Cq → Cq) : (s.upCq p n f).stage = s.stage := rfl
@[simp] theorem State.upCq_out (s : State) (p n : Nat) (f : Cq → Cq) : (s.upCq p n f).out = s.out := rfl
@[simp] theorem State.upCq_timers (s : State) (p n : Nat) (f : Cq → Cq) : (s.upCq p n f).timers = s.timers := rfl
@[simp] theorem State.upCq_evq (s : State) (p n : Nat) (f : Cq → Cq) : (s.upCq p n f).evq = s.evq := rfl
@[simp] theorem State.upCq_lcl (s : State) (p n : Nat) (f : Cq → Cq) : (s.upCq p n f).lcl = s.lcl := rfl
@[simp] theorem State.upCq_store (s : State) (p n : Nat) (f : Cq → Cq) : (s.upCq p n f).store = s.store := rfl
@[simp] theorem State.upCq_hbm (s : State) (p n : Nat) (f : Cq → Cq) : (s.upCq p n f).hbm = s.hbm := rfl
@[simp] theorem State.upCq_cmap (s : State) (p n : Nat) (f : Cq → Cq) : (s.upCq p n f).cmap = s.cmap := rfl
@[simp] theorem State.upCq_engines (s : State) (p n : Nat) (f : Cq → Cq) : (s.upCq p n f).engines = s.engines := rfl
@[simp] theorem State.upCq_links (s : State) (p n : Nat) (f : Cq → Cq) : (s.upCq p n f).links = s.links := rfl
@[simp] theorem State.upCq_log (s : State) (p n : Nat) (f : Cq → Cq) : (s.upCq p n f).log = s.log := rfl
@[simp] theorem State.upCq_sec (s : State) (p n : Nat) (f : Cq → Cq) : (s.upCq p n f).sec = s.sec := rfl
@[simp] theorem State.upCq_power (s : State) (p n : Nat) (f : Cq → Cq) : (s.upCq p n f).power = s.power := rfl
@[simp] theorem State.upCq_boot (s : State) (p n : Nat) (f : Cq → Cq) : (s.upCq p n f).boot = s.boot := rfl
@[simp] theorem State.upCq_flash (s : State) (p n : Nat) (f : Cq → Cq) : (s.upCq p n f).flash = s.flash := rfl
@[simp] theorem State.upCq_tel (s : State) (p n : Nat) (f : Cq → Cq) : (s.upCq p n f).tel = s.tel := rfl
@[simp] theorem State.upCq_slices (s : State) (p n : Nat) (f : Cq → Cq) : (s.upCq p n f).slices = s.slices := rfl
@[simp] theorem State.upCq_free (s : State) (p n : Nat) (f : Cq → Cq) : (s.upCq p n f).free = s.free := rfl
@[simp] theorem State.upCq_pending (s : State) (p n : Nat) (f : Cq → Cq) : (s.upCq p n f).pending = s.pending := rfl

/-! `State.upEvQ` -/

@[simp] theorem State.upEvQ_mgmt (s : State) (fn q : Nat) (f : EvQ → EvQ) : (s.upEvQ fn q f).mgmt = s.mgmt := rfl
@[simp] theorem State.upEvQ_cfg (s : State) (fn q : Nat) (f : EvQ → EvQ) : (s.upEvQ fn q f).cfg = s.cfg := rfl
@[simp] theorem State.upEvQ_regs (s : State) (fn q : Nat) (f : EvQ → EvQ) : (s.upEvQ fn q f).regs = s.regs := rfl
@[simp] theorem State.upEvQ_stage (s : State) (fn q : Nat) (f : EvQ → EvQ) : (s.upEvQ fn q f).stage = s.stage := rfl
@[simp] theorem State.upEvQ_out (s : State) (fn q : Nat) (f : EvQ → EvQ) : (s.upEvQ fn q f).out = s.out := rfl
@[simp] theorem State.upEvQ_timers (s : State) (fn q : Nat) (f : EvQ → EvQ) : (s.upEvQ fn q f).timers = s.timers := rfl
@[simp] theorem State.upEvQ_lcl (s : State) (fn q : Nat) (f : EvQ → EvQ) : (s.upEvQ fn q f).lcl = s.lcl := rfl
@[simp] theorem State.upEvQ_ptn (s : State) (fn q : Nat) (f : EvQ → EvQ) : (s.upEvQ fn q f).ptn = s.ptn := rfl
@[simp] theorem State.upEvQ_store (s : State) (fn q : Nat) (f : EvQ → EvQ) : (s.upEvQ fn q f).store = s.store := rfl
@[simp] theorem State.upEvQ_hbm (s : State) (fn q : Nat) (f : EvQ → EvQ) : (s.upEvQ fn q f).hbm = s.hbm := rfl
@[simp] theorem State.upEvQ_cmap (s : State) (fn q : Nat) (f : EvQ → EvQ) : (s.upEvQ fn q f).cmap = s.cmap := rfl
@[simp] theorem State.upEvQ_engines (s : State) (fn q : Nat) (f : EvQ → EvQ) : (s.upEvQ fn q f).engines = s.engines := rfl
@[simp] theorem State.upEvQ_links (s : State) (fn q : Nat) (f : EvQ → EvQ) : (s.upEvQ fn q f).links = s.links := rfl
@[simp] theorem State.upEvQ_log (s : State) (fn q : Nat) (f : EvQ → EvQ) : (s.upEvQ fn q f).log = s.log := rfl
@[simp] theorem State.upEvQ_sec (s : State) (fn q : Nat) (f : EvQ → EvQ) : (s.upEvQ fn q f).sec = s.sec := rfl
@[simp] theorem State.upEvQ_power (s : State) (fn q : Nat) (f : EvQ → EvQ) : (s.upEvQ fn q f).power = s.power := rfl
@[simp] theorem State.upEvQ_boot (s : State) (fn q : Nat) (f : EvQ → EvQ) : (s.upEvQ fn q f).boot = s.boot := rfl
@[simp] theorem State.upEvQ_flash (s : State) (fn q : Nat) (f : EvQ → EvQ) : (s.upEvQ fn q f).flash = s.flash := rfl
@[simp] theorem State.upEvQ_tel (s : State) (fn q : Nat) (f : EvQ → EvQ) : (s.upEvQ fn q f).tel = s.tel := rfl
@[simp] theorem State.upEvQ_slices (s : State) (fn q : Nat) (f : EvQ → EvQ) : (s.upEvQ fn q f).slices = s.slices := rfl
@[simp] theorem State.upEvQ_free (s : State) (fn q : Nat) (f : EvQ → EvQ) : (s.upEvQ fn q f).free = s.free := rfl
@[simp] theorem State.upEvQ_pending (s : State) (fn q : Nat) (f : EvQ → EvQ) : (s.upEvQ fn q f).pending = s.pending := rfl

/-! `State.setFunc` -/

@[simp] theorem State.setFunc_mgmt (s : State) (p : Nat) (f : Func) : (s.setFunc p f).mgmt = s.mgmt := rfl
@[simp] theorem State.setFunc_cfg (s : State) (p : Nat) (f : Func) : (s.setFunc p f).cfg = s.cfg := rfl
@[simp] theorem State.setFunc_regs (s : State) (p : Nat) (f : Func) : (s.setFunc p f).regs = s.regs := rfl
@[simp] theorem State.setFunc_stage (s : State) (p : Nat) (f : Func) : (s.setFunc p f).stage = s.stage := rfl
@[simp] theorem State.setFunc_out (s : State) (p : Nat) (f : Func) : (s.setFunc p f).out = s.out := rfl
@[simp] theorem State.setFunc_timers (s : State) (p : Nat) (f : Func) : (s.setFunc p f).timers = s.timers := rfl
@[simp] theorem State.setFunc_evq (s : State) (p : Nat) (f : Func) : (s.setFunc p f).evq = s.evq := rfl
@[simp] theorem State.setFunc_lcl (s : State) (p : Nat) (f : Func) : (s.setFunc p f).lcl = s.lcl := rfl
@[simp] theorem State.setFunc_store (s : State) (p : Nat) (f : Func) : (s.setFunc p f).store = s.store := rfl
@[simp] theorem State.setFunc_hbm (s : State) (p : Nat) (f : Func) : (s.setFunc p f).hbm = s.hbm := rfl
@[simp] theorem State.setFunc_cmap (s : State) (p : Nat) (f : Func) : (s.setFunc p f).cmap = s.cmap := rfl
@[simp] theorem State.setFunc_engines (s : State) (p : Nat) (f : Func) : (s.setFunc p f).engines = s.engines := rfl
@[simp] theorem State.setFunc_links (s : State) (p : Nat) (f : Func) : (s.setFunc p f).links = s.links := rfl
@[simp] theorem State.setFunc_log (s : State) (p : Nat) (f : Func) : (s.setFunc p f).log = s.log := rfl
@[simp] theorem State.setFunc_sec (s : State) (p : Nat) (f : Func) : (s.setFunc p f).sec = s.sec := rfl
@[simp] theorem State.setFunc_power (s : State) (p : Nat) (f : Func) : (s.setFunc p f).power = s.power := rfl
@[simp] theorem State.setFunc_boot (s : State) (p : Nat) (f : Func) : (s.setFunc p f).boot = s.boot := rfl
@[simp] theorem State.setFunc_flash (s : State) (p : Nat) (f : Func) : (s.setFunc p f).flash = s.flash := rfl
@[simp] theorem State.setFunc_tel (s : State) (p : Nat) (f : Func) : (s.setFunc p f).tel = s.tel := rfl
@[simp] theorem State.setFunc_slices (s : State) (p : Nat) (f : Func) : (s.setFunc p f).slices = s.slices := rfl
@[simp] theorem State.setFunc_free (s : State) (p : Nat) (f : Func) : (s.setFunc p f).free = s.free := rfl
@[simp] theorem State.setFunc_pending (s : State) (p : Nat) (f : Func) : (s.setFunc p f).pending = s.pending := rfl

/-! `State.logChange` -/

@[simp] theorem State.logChange_mgmt (s : State) (w src old new : Nat) : (s.logChange w src old new).mgmt = s.mgmt := rfl
@[simp] theorem State.logChange_cfg (s : State) (w src old new : Nat) : (s.logChange w src old new).cfg = s.cfg := rfl
@[simp] theorem State.logChange_regs (s : State) (w src old new : Nat) : (s.logChange w src old new).regs = s.regs := rfl
@[simp] theorem State.logChange_stage (s : State) (w src old new : Nat) : (s.logChange w src old new).stage = s.stage := rfl
@[simp] theorem State.logChange_out (s : State) (w src old new : Nat) : (s.logChange w src old new).out = s.out := rfl
@[simp] theorem State.logChange_timers (s : State) (w src old new : Nat) : (s.logChange w src old new).timers = s.timers := rfl
@[simp] theorem State.logChange_evq (s : State) (w src old new : Nat) : (s.logChange w src old new).evq = s.evq := rfl
@[simp] theorem State.logChange_lcl (s : State) (w src old new : Nat) : (s.logChange w src old new).lcl = s.lcl := rfl
@[simp] theorem State.logChange_ptn (s : State) (w src old new : Nat) : (s.logChange w src old new).ptn = s.ptn := rfl
@[simp] theorem State.logChange_store (s : State) (w src old new : Nat) : (s.logChange w src old new).store = s.store := rfl
@[simp] theorem State.logChange_hbm (s : State) (w src old new : Nat) : (s.logChange w src old new).hbm = s.hbm := rfl
@[simp] theorem State.logChange_cmap (s : State) (w src old new : Nat) : (s.logChange w src old new).cmap = s.cmap := rfl
@[simp] theorem State.logChange_engines (s : State) (w src old new : Nat) : (s.logChange w src old new).engines = s.engines := rfl
@[simp] theorem State.logChange_links (s : State) (w src old new : Nat) : (s.logChange w src old new).links = s.links := rfl
@[simp] theorem State.logChange_sec (s : State) (w src old new : Nat) : (s.logChange w src old new).sec = s.sec := rfl
@[simp] theorem State.logChange_power (s : State) (w src old new : Nat) : (s.logChange w src old new).power = s.power := rfl
@[simp] theorem State.logChange_boot (s : State) (w src old new : Nat) : (s.logChange w src old new).boot = s.boot := rfl
@[simp] theorem State.logChange_flash (s : State) (w src old new : Nat) : (s.logChange w src old new).flash = s.flash := rfl
@[simp] theorem State.logChange_tel (s : State) (w src old new : Nat) : (s.logChange w src old new).tel = s.tel := rfl
@[simp] theorem State.logChange_slices (s : State) (w src old new : Nat) : (s.logChange w src old new).slices = s.slices := rfl
@[simp] theorem State.logChange_free (s : State) (w src old new : Nat) : (s.logChange w src old new).free = s.free := rfl
@[simp] theorem State.logChange_pending (s : State) (w src old new : Nat) : (s.logChange w src old new).pending = s.pending := rfl

/-! `State.arm` -/

@[simp] theorem State.arm_mgmt (s : State) (k : TimerKind) (t : Nat) : (s.arm k t).mgmt = s.mgmt := rfl
@[simp] theorem State.arm_cfg (s : State) (k : TimerKind) (t : Nat) : (s.arm k t).cfg = s.cfg := rfl
@[simp] theorem State.arm_regs (s : State) (k : TimerKind) (t : Nat) : (s.arm k t).regs = s.regs := rfl
@[simp] theorem State.arm_stage (s : State) (k : TimerKind) (t : Nat) : (s.arm k t).stage = s.stage := rfl
@[simp] theorem State.arm_out (s : State) (k : TimerKind) (t : Nat) : (s.arm k t).out = s.out := rfl
@[simp] theorem State.arm_evq (s : State) (k : TimerKind) (t : Nat) : (s.arm k t).evq = s.evq := rfl
@[simp] theorem State.arm_lcl (s : State) (k : TimerKind) (t : Nat) : (s.arm k t).lcl = s.lcl := rfl
@[simp] theorem State.arm_ptn (s : State) (k : TimerKind) (t : Nat) : (s.arm k t).ptn = s.ptn := rfl
@[simp] theorem State.arm_store (s : State) (k : TimerKind) (t : Nat) : (s.arm k t).store = s.store := rfl
@[simp] theorem State.arm_hbm (s : State) (k : TimerKind) (t : Nat) : (s.arm k t).hbm = s.hbm := rfl
@[simp] theorem State.arm_cmap (s : State) (k : TimerKind) (t : Nat) : (s.arm k t).cmap = s.cmap := rfl
@[simp] theorem State.arm_engines (s : State) (k : TimerKind) (t : Nat) : (s.arm k t).engines = s.engines := rfl
@[simp] theorem State.arm_links (s : State) (k : TimerKind) (t : Nat) : (s.arm k t).links = s.links := rfl
@[simp] theorem State.arm_log (s : State) (k : TimerKind) (t : Nat) : (s.arm k t).log = s.log := rfl
@[simp] theorem State.arm_sec (s : State) (k : TimerKind) (t : Nat) : (s.arm k t).sec = s.sec := rfl
@[simp] theorem State.arm_power (s : State) (k : TimerKind) (t : Nat) : (s.arm k t).power = s.power := rfl
@[simp] theorem State.arm_boot (s : State) (k : TimerKind) (t : Nat) : (s.arm k t).boot = s.boot := rfl
@[simp] theorem State.arm_flash (s : State) (k : TimerKind) (t : Nat) : (s.arm k t).flash = s.flash := rfl
@[simp] theorem State.arm_tel (s : State) (k : TimerKind) (t : Nat) : (s.arm k t).tel = s.tel := rfl
@[simp] theorem State.arm_slices (s : State) (k : TimerKind) (t : Nat) : (s.arm k t).slices = s.slices := rfl
@[simp] theorem State.arm_free (s : State) (k : TimerKind) (t : Nat) : (s.arm k t).free = s.free := rfl
@[simp] theorem State.arm_pending (s : State) (k : TimerKind) (t : Nat) : (s.arm k t).pending = s.pending := rfl

/-! `State.disarm` -/

@[simp] theorem State.disarm_mgmt (s : State) (k : TimerKind) : (s.disarm k).mgmt = s.mgmt := rfl
@[simp] theorem State.disarm_cfg (s : State) (k : TimerKind) : (s.disarm k).cfg = s.cfg := rfl
@[simp] theorem State.disarm_regs (s : State) (k : TimerKind) : (s.disarm k).regs = s.regs := rfl
@[simp] theorem State.disarm_stage (s : State) (k : TimerKind) : (s.disarm k).stage = s.stage := rfl
@[simp] theorem State.disarm_out (s : State) (k : TimerKind) : (s.disarm k).out = s.out := rfl
@[simp] theorem State.disarm_evq (s : State) (k : TimerKind) : (s.disarm k).evq = s.evq := rfl
@[simp] theorem State.disarm_lcl (s : State) (k : TimerKind) : (s.disarm k).lcl = s.lcl := rfl
@[simp] theorem State.disarm_ptn (s : State) (k : TimerKind) : (s.disarm k).ptn = s.ptn := rfl
@[simp] theorem State.disarm_store (s : State) (k : TimerKind) : (s.disarm k).store = s.store := rfl
@[simp] theorem State.disarm_hbm (s : State) (k : TimerKind) : (s.disarm k).hbm = s.hbm := rfl
@[simp] theorem State.disarm_cmap (s : State) (k : TimerKind) : (s.disarm k).cmap = s.cmap := rfl
@[simp] theorem State.disarm_engines (s : State) (k : TimerKind) : (s.disarm k).engines = s.engines := rfl
@[simp] theorem State.disarm_links (s : State) (k : TimerKind) : (s.disarm k).links = s.links := rfl
@[simp] theorem State.disarm_log (s : State) (k : TimerKind) : (s.disarm k).log = s.log := rfl
@[simp] theorem State.disarm_sec (s : State) (k : TimerKind) : (s.disarm k).sec = s.sec := rfl
@[simp] theorem State.disarm_power (s : State) (k : TimerKind) : (s.disarm k).power = s.power := rfl
@[simp] theorem State.disarm_boot (s : State) (k : TimerKind) : (s.disarm k).boot = s.boot := rfl
@[simp] theorem State.disarm_flash (s : State) (k : TimerKind) : (s.disarm k).flash = s.flash := rfl
@[simp] theorem State.disarm_tel (s : State) (k : TimerKind) : (s.disarm k).tel = s.tel := rfl
@[simp] theorem State.disarm_slices (s : State) (k : TimerKind) : (s.disarm k).slices = s.slices := rfl
@[simp] theorem State.disarm_free (s : State) (k : TimerKind) : (s.disarm k).free = s.free := rfl
@[simp] theorem State.disarm_pending (s : State) (k : TimerKind) : (s.disarm k).pending = s.pending := rfl

/-! `State.wantRollback` -/

@[simp] theorem State.wantRollback_mgmt (s : State) (p c : Nat) : (s.wantRollback p c).mgmt = s.mgmt := rfl
@[simp] theorem State.wantRollback_cfg (s : State) (p c : Nat) : (s.wantRollback p c).cfg = s.cfg := rfl
@[simp] theorem State.wantRollback_regs (s : State) (p c : Nat) : (s.wantRollback p c).regs = s.regs := rfl
@[simp] theorem State.wantRollback_stage (s : State) (p c : Nat) : (s.wantRollback p c).stage = s.stage := rfl
@[simp] theorem State.wantRollback_out (s : State) (p c : Nat) : (s.wantRollback p c).out = s.out := rfl
@[simp] theorem State.wantRollback_timers (s : State) (p c : Nat) : (s.wantRollback p c).timers = s.timers := rfl
@[simp] theorem State.wantRollback_evq (s : State) (p c : Nat) : (s.wantRollback p c).evq = s.evq := rfl
@[simp] theorem State.wantRollback_lcl (s : State) (p c : Nat) : (s.wantRollback p c).lcl = s.lcl := rfl
@[simp] theorem State.wantRollback_store (s : State) (p c : Nat) : (s.wantRollback p c).store = s.store := rfl
@[simp] theorem State.wantRollback_hbm (s : State) (p c : Nat) : (s.wantRollback p c).hbm = s.hbm := rfl
@[simp] theorem State.wantRollback_cmap (s : State) (p c : Nat) : (s.wantRollback p c).cmap = s.cmap := rfl
@[simp] theorem State.wantRollback_engines (s : State) (p c : Nat) : (s.wantRollback p c).engines = s.engines := rfl
@[simp] theorem State.wantRollback_links (s : State) (p c : Nat) : (s.wantRollback p c).links = s.links := rfl
@[simp] theorem State.wantRollback_log (s : State) (p c : Nat) : (s.wantRollback p c).log = s.log := rfl
@[simp] theorem State.wantRollback_sec (s : State) (p c : Nat) : (s.wantRollback p c).sec = s.sec := rfl
@[simp] theorem State.wantRollback_power (s : State) (p c : Nat) : (s.wantRollback p c).power = s.power := rfl
@[simp] theorem State.wantRollback_boot (s : State) (p c : Nat) : (s.wantRollback p c).boot = s.boot := rfl
@[simp] theorem State.wantRollback_flash (s : State) (p c : Nat) : (s.wantRollback p c).flash = s.flash := rfl
@[simp] theorem State.wantRollback_tel (s : State) (p c : Nat) : (s.wantRollback p c).tel = s.tel := rfl
@[simp] theorem State.wantRollback_slices (s : State) (p c : Nat) : (s.wantRollback p c).slices = s.slices := rfl
@[simp] theorem State.wantRollback_free (s : State) (p c : Nat) : (s.wantRollback p c).free = s.free := rfl
@[simp] theorem State.wantRollback_pending (s : State) (p c : Nat) : (s.wantRollback p c).pending = s.pending := rfl

/-! `State.wantEnd` -/

@[simp] theorem State.wantEnd_mgmt (s : State) (p c : Nat) : (s.wantEnd p c).mgmt = s.mgmt := rfl
@[simp] theorem State.wantEnd_cfg (s : State) (p c : Nat) : (s.wantEnd p c).cfg = s.cfg := rfl
@[simp] theorem State.wantEnd_regs (s : State) (p c : Nat) : (s.wantEnd p c).regs = s.regs := rfl
@[simp] theorem State.wantEnd_stage (s : State) (p c : Nat) : (s.wantEnd p c).stage = s.stage := rfl
@[simp] theorem State.wantEnd_out (s : State) (p c : Nat) : (s.wantEnd p c).out = s.out := rfl
@[simp] theorem State.wantEnd_timers (s : State) (p c : Nat) : (s.wantEnd p c).timers = s.timers := rfl
@[simp] theorem State.wantEnd_evq (s : State) (p c : Nat) : (s.wantEnd p c).evq = s.evq := rfl
@[simp] theorem State.wantEnd_lcl (s : State) (p c : Nat) : (s.wantEnd p c).lcl = s.lcl := rfl
@[simp] theorem State.wantEnd_store (s : State) (p c : Nat) : (s.wantEnd p c).store = s.store := rfl
@[simp] theorem State.wantEnd_hbm (s : State) (p c : Nat) : (s.wantEnd p c).hbm = s.hbm := rfl
@[simp] theorem State.wantEnd_cmap (s : State) (p c : Nat) : (s.wantEnd p c).cmap = s.cmap := rfl
@[simp] theorem State.wantEnd_engines (s : State) (p c : Nat) : (s.wantEnd p c).engines = s.engines := rfl
@[simp] theorem State.wantEnd_links (s : State) (p c : Nat) : (s.wantEnd p c).links = s.links := rfl
@[simp] theorem State.wantEnd_log (s : State) (p c : Nat) : (s.wantEnd p c).log = s.log := rfl
@[simp] theorem State.wantEnd_sec (s : State) (p c : Nat) : (s.wantEnd p c).sec = s.sec := rfl
@[simp] theorem State.wantEnd_power (s : State) (p c : Nat) : (s.wantEnd p c).power = s.power := rfl
@[simp] theorem State.wantEnd_boot (s : State) (p c : Nat) : (s.wantEnd p c).boot = s.boot := rfl
@[simp] theorem State.wantEnd_flash (s : State) (p c : Nat) : (s.wantEnd p c).flash = s.flash := rfl
@[simp] theorem State.wantEnd_tel (s : State) (p c : Nat) : (s.wantEnd p c).tel = s.tel := rfl
@[simp] theorem State.wantEnd_slices (s : State) (p c : Nat) : (s.wantEnd p c).slices = s.slices := rfl
@[simp] theorem State.wantEnd_free (s : State) (p c : Nat) : (s.wantEnd p c).free = s.free := rfl
@[simp] theorem State.wantEnd_pending (s : State) (p c : Nat) : (s.wantEnd p c).pending = s.pending := rfl

/-! `State.started` -/

@[simp] theorem State.started_mgmt (s : State) (p : Nat) (d : ADesc) : (s.started p d).mgmt = s.mgmt := rfl
@[simp] theorem State.started_cfg (s : State) (p : Nat) (d : ADesc) : (s.started p d).cfg = s.cfg := rfl
@[simp] theorem State.started_regs (s : State) (p : Nat) (d : ADesc) : (s.started p d).regs = s.regs := rfl
@[simp] theorem State.started_stage (s : State) (p : Nat) (d : ADesc) : (s.started p d).stage = s.stage := rfl
@[simp] theorem State.started_out (s : State) (p : Nat) (d : ADesc) : (s.started p d).out = s.out := rfl
@[simp] theorem State.started_timers (s : State) (p : Nat) (d : ADesc) : (s.started p d).timers = s.timers := rfl
@[simp] theorem State.started_evq (s : State) (p : Nat) (d : ADesc) : (s.started p d).evq = s.evq := rfl
@[simp] theorem State.started_lcl (s : State) (p : Nat) (d : ADesc) : (s.started p d).lcl = s.lcl := rfl
@[simp] theorem State.started_store (s : State) (p : Nat) (d : ADesc) : (s.started p d).store = s.store := rfl
@[simp] theorem State.started_hbm (s : State) (p : Nat) (d : ADesc) : (s.started p d).hbm = s.hbm := rfl
@[simp] theorem State.started_cmap (s : State) (p : Nat) (d : ADesc) : (s.started p d).cmap = s.cmap := rfl
@[simp] theorem State.started_engines (s : State) (p : Nat) (d : ADesc) : (s.started p d).engines = s.engines := rfl
@[simp] theorem State.started_links (s : State) (p : Nat) (d : ADesc) : (s.started p d).links = s.links := rfl
@[simp] theorem State.started_log (s : State) (p : Nat) (d : ADesc) : (s.started p d).log = s.log := rfl
@[simp] theorem State.started_sec (s : State) (p : Nat) (d : ADesc) : (s.started p d).sec = s.sec := rfl
@[simp] theorem State.started_power (s : State) (p : Nat) (d : ADesc) : (s.started p d).power = s.power := rfl
@[simp] theorem State.started_boot (s : State) (p : Nat) (d : ADesc) : (s.started p d).boot = s.boot := rfl
@[simp] theorem State.started_flash (s : State) (p : Nat) (d : ADesc) : (s.started p d).flash = s.flash := rfl
@[simp] theorem State.started_tel (s : State) (p : Nat) (d : ADesc) : (s.started p d).tel = s.tel := rfl
@[simp] theorem State.started_slices (s : State) (p : Nat) (d : ADesc) : (s.started p d).slices = s.slices := rfl
@[simp] theorem State.started_free (s : State) (p : Nat) (d : ADesc) : (s.started p d).free = s.free := rfl
@[simp] theorem State.started_pending (s : State) (p : Nat) (d : ADesc) : (s.started p d).pending = s.pending := rfl

/-! What the updates change -/

@[simp] theorem State.pt_upPt_self (s : State) (p : Nat) (f : Ptn → Ptn) : (s.upPt p f).pt p = f (s.pt p) :=
  Tbl.get_put_self _ _ _ _

theorem State.pt_upPt_ne (s : State) (p q : Nat) (f : Ptn → Ptn) (h : q ≠ p) : (s.upPt p f).pt q = s.pt q :=
  Tbl.get_put_ne _ _ _ _ _ h

@[simp] theorem State.live_upJob_self (s : State) (p : Nat) (f : JobData → JobData) :
    ((s.upJob p f).pt p).live = f (s.pt p).live := by
  simp [State.upJob]

@[simp] theorem JobData.core_upCore_self (j : JobData) (lc : Nat) (f : Machine.Core → Machine.Core) :
    (j.upCore lc f).core lc = f (j.core lc) :=
  Tbl.get_put_self _ _ _ _

theorem JobData.core_upCore_ne (j : JobData) (lc k : Nat) (f : Machine.Core → Machine.Core) (h : k ≠ lc) :
    (j.upCore lc f).core k = j.core k :=
  Tbl.get_put_ne _ _ _ _ _ h

@[simp] theorem State.core_upCore_self (s : State) (p lc : Nat) (f : Machine.Core → Machine.Core) :
    (s.upCore p lc f).core p lc = f (s.core p lc) := by
  simp [State.upCore, State.core]

theorem State.core_upCore_ne (s : State) (p lc k : Nat) (f : Machine.Core → Machine.Core) (h : k ≠ lc) :
    (s.upCore p lc f).core p k = s.core p k := by
  simp [State.upCore, State.core, JobData.core_upCore_ne _ _ _ _ h]

@[simp] theorem State.page_upPage_self (s : State) (p n : Nat) (f : Page → Page) :
    (s.upPage p n f).page p n = f (s.page p n) := by
  simp [State.upPage, State.page, JobData.upPage, JobData.page]

@[simp] theorem State.sq_upSq_self (s : State) (p n : Nat) (f : Sq → Sq) :
    ((s.upSq p n f).pt p).sq n = f ((s.pt p).sq n) := by
  simp [State.upSq, Ptn.sq]

@[simp] theorem State.cq_upCq_self (s : State) (p n : Nat) (f : Cq → Cq) :
    ((s.upCq p n f).pt p).cq n = f ((s.pt p).cq n) := by
  simp [State.upCq, Ptn.cq]

@[simp] theorem State.emit_out (s : State) (o : Output) : (s.emit o).out = o :: s.out := rfl

/-- Registers are read through `regs` alone. -/
theorem State.rd_eq (s t : State) (r : RegSpec) (fn i : Nat) (h : s.regs = t.regs) : s.rd r fn i = t.rd r fn i := by
  simp [State.rd, h]

end Sys2Proof.Machine
end

