-- ==== Sys2Proof/Laws/Rings.lean ====
section
/-! SUPPORT. What a descriptor row does with the next descriptor of its ring, and an operation row with its entry. -/

namespace Sys2Proof.Machine

/-- A descriptor that starts goes to its row. -/
theorem State.startRow_starts (s : State) (p n op : Nat) (d : ADesc) (ok : ADesc → Bool) (k : ADesc → State → State)
    (h : s.starts p n op d) (hk : ok d = true) : s.startRow p n op ok k = k d s := by
  obtain ⟨hr, hs, ho, hord, hag, haw, hwf, hop⟩ := h
  have hw : ¬ (op ≠ 8 ∧ s.awake p = false) := by
    rintro ⟨a, b⟩
    rcases haw with c | c
    · exact a c
    · simp [b] at c
  simp [State.startRow, hr, hs, ho, hord, hag, hwf, hop, hk, hw]

/-- A malformed descriptor that may start completes INVALID_DESCRIPTOR. -/
theorem State.startRow_malformed (s : State) (p n op : Nat) (d : ADesc) (ok : ADesc → Bool) (k : ADesc → State → State)
    (hr : (s.pt p).ringHead n = some d) (hs : d.start = none) (ho : s.startsOpen p = true) (hord : s.orderOk p d = true)
    (hag : (s.pt p).againOk d = true) (haw : op = 8 ∨ s.awake p = true) (hwf : d.wellFormed (s.ctrlRing p n) = false)
    (hh : s.heldByJob p d = false) : s.startRow p n op ok k = (s.started p d).finish p d Code.invalidDescriptor 0 0 0 := by
  have hw : ¬ (op ≠ 8 ∧ s.awake p = false) := by
    rintro ⟨a, b⟩
    rcases haw with c | c
    · exact a c
    · simp [b] at c
  simp [State.startRow, hr, hs, ho, hord, hag, hwf, hw, hh]

/-- A malformed descriptor that the job's state holds back waits (R353). -/
theorem State.startRow_held (s : State) (p n op : Nat) (d : ADesc) (ok : ADesc → Bool) (k : ADesc → State → State)
    (hr : (s.pt p).ringHead n = some d) (hwf : d.wellFormed (s.ctrlRing p n) = false) (hh : s.heldByJob p d = true) :
    s.startRow p n op ok k = s := by
  simp [State.startRow, hr, hwf, hh]

/-- A work descriptor goes on when the job runs. -/
theorem State.withJob_running (s : State) (p : Nat) (d : ADesc) (k : State → State) (h : (s.pt p).job = .running) :
    s.withJob p d k = k (s.started p d) := by
  simp [State.withJob, h]

/-- An operation that starts goes to its row. -/
theorem State.opRow_starts (s : State) (p q n : Nat) (o : COp) (isOp : COp → Bool) (f : State → COp → State)
    (h : s.opStarts p q n o) (hi : isOp o = true) : s.opRow p q n isOp f = f s o := by
  obtain ⟨h1, h2, h3, h4, h5, h6, h7⟩ := h
  simp [State.opRow, h1, h2, h3, h4, h5, h6, h7, hi]

/-- An operation whose group has FAILED completes so. -/
theorem State.opRow_failed (s : State) (p q n : Nat) (o : COp) (isOp : COp → Bool) (f : State → COp → State)
    (h1 : (s.pt p).col.find q n = some o) (h2 : o.done = false) (h3 : o.armed = none) (h4 : o.ready = none)
    (h5 : s.grpState p (s.cqGroup p q) = 3) (hi : isOp o = true) :
    s.opRow p q n isOp f = s.finishOp p o Code.groupFailed := by
  simp [State.opRow, h1, h2, h3, h4, h5, hi]

/-- A CODEC descriptor that starts in a job at work goes to its row. -/
theorem State.codecRow_starts (s : State) (p n f : Nat) (d : ADesc) (again k : ADesc → State → State) (h : s.starts p n 0x30 d)
    (hf : d.func = f) (hs : (s.pt p).splitNew = none) (hj : (s.pt p).job = .running) (hp : (s.pt p).paused = none) :
    s.codecRow p n f again k = k d s := by
  have h1 : (s.pt p).ringHead n = some d := h.1
  have h2 : d.start = none := h.2.1
  simp only [State.codecRow, hs, Option.isSome_none, Bool.false_eq_true, if_false, h1, h2, false_and]
  rw [State.startRow_starts s p n 0x30 d _ _ h (by simp [hf])]
  simp [hj, hp]

end Sys2Proof.Machine
end

