-- ==== Sys2Proof/Laws/Shared.lean ====
section
/-! SUPPORT. What the operations shared by many commands do: a hart's access, a logged write. -/

namespace Sys2Proof.Machine

/-- A hart that runs carries its access out (R100). -/
theorem State.onHart_runs (s : State) (d : Nat) (f : State → State) (h : HartRuns s d) : s.onHart d f = .next (f s) := by
  simp [State.onHart, State.live, h.1, h.2]

/-- A hart that does not run answers nothing (DEDUCED, log entry 46). -/
theorem State.onHart_waits (s : State) (d : Nat) (f : State → State) (h : s.hartReady d = false) :
    s.onHart d f = .next s := by
  simp [State.onHart, State.live, h]

/-- An accepted write while the log can take an entry (R518, R522): its entry, its effect, and the settings record. -/
theorem State.logged_accepted (s : State) (what old new : Nat) (f refuse : State → State) (h : s.canLog = true) :
    s.logged what 0 old new f refuse = (f (s.logChange what 0 old new)).noteSetting what := by
  simp [State.logged, h]

/-- A write while the log can take none (R522). -/
theorem State.logged_refused (s : State) (what source old new : Nat) (f refuse : State → State) (h : s.canLog = false) :
    s.logged what source old new f refuse = refuse (s.logRefused what) := by
  simp [State.logged, h]

/-- The log can take an entry while the store is mounted and has not FAILED. -/
theorem State.canLog_iff (s : State) :
    s.canLog = true ↔ s.store.mounted = true ∧ s.fld rStoHealth 0 0 3 0 ≠ 5 := by
  simp [State.canLog]

end Sys2Proof.Machine
end

