-- ==== Sys2Proof/Laws/Tile.lean ====
section
/-! SUPPORT. What a tile row can do, said once: it leaves what `tileGo` answers, or the instruction executes and is in flight. -/

namespace Sys2Proof.Machine

/-- A command that needs power-good acts when it is there. -/
@[simp] theorem State.live_on (s : State) (f : State → State) (h : s.mgmt.powerGood = true) : s.live f = .next (f s) := by
  simp [State.live, h]

/-- Without power-good it leaves the module as it is. -/
@[simp] theorem State.live_off (s : State) (f : State → State) (h : s.mgmt.powerGood = false) : s.live f = .next s := by
  simp [State.live, h]

/-- A row whose instruction executes, with no checksum that a fault breaks, leaves it in flight with what its meaning gives. -/
theorem State.tileRow_executes (s s1 : State) (p lc : Nat) (o : TileOp) (spec : State → TDesc → TileSpec) (e : QEntry)
    (c : Machine.Core) (h : TileExecutes s p lc o spec s1 e c) :
    s.tileRow p lc o 0 spec =
      (let r := (spec s e.desc.toNat).run e (e.word.getD 0) (s1.walkRoot p c) s1
       State.inFlight (r.1, r.2.1) p lc o (spec s e.desc.toNat) e c r.2.2) := by
  obtain ⟨-, h2, h3⟩ := h
  simp [State.tileRow, h2, State.runTile, h3, State.inFlight]

/-- A row whose instruction executes, from what its effect is. -/
theorem State.tileRow_run (s s1 : State) (p lc : Nat) (o : TileOp) (spec : State → TDesc → TileSpec) (e : QEntry)
    (c : Machine.Core) (r : State × Nat) (word : Option W64) (h : TileExecutes s p lc o spec s1 e c)
    (hr : (spec s e.desc.toNat).run e (e.word.getD 0) (s1.walkRoot p c) s1 = (r.1, r.2, word)) :
    s.live (fun s => s.tileRow p lc o 0 spec) =
      .next (State.inFlight r p lc o (spec s e.desc.toNat) e c word) := by
  rw [State.live_on _ _ h.1, State.tileRow_executes s s1 p lc o spec e c h, hr]

/-- A row whose head does not execute leaves what the head comes to. -/
theorem State.tileRow_over (s t : State) (p lc ck : Nat) (o : TileOp) (spec : State → TDesc → TileSpec)
    (h : s.tileGo p lc o spec = .over t) : s.tileRow p lc o ck spec = t := by
  simp [State.tileRow, h]

/-- A row whose instruction takes a checksum ends CHECKSUM_MISMATCH after two failing attempts, with nothing written but what it has
streamed into its core's buffers (R150, R181). -/
theorem State.tileRow_checksum (s s1 : State) (p lc ck : Nat) (o : TileOp) (spec : State → TDesc → TileSpec) (e : QEntry)
    (c : Machine.Core) (h : TileExecutes s p lc o spec s1 e c) (hk : TDesc.ck e.desc.toNat = true) (h2 : 2 ≤ ck) :
    s.tileRow p lc o ck spec =
      State.inFlight ((spec s e.desc.toNat).stream (s1.walkRoot p c) s1, Code.checksumMismatch) p lc o (spec s e.desc.toNat) e c none := by
  obtain ⟨-, h3, h4⟩ := h
  simp [State.tileRow, h3, State.runTile, h4, State.inFlight, hk, h2]

/-- What `tileExecutes` finds is what `TileExecutes` says. -/
theorem tileExecutes_iff (s : State) (p lc : Nat) (o : TileOp) (spec : State → TDesc → TileSpec)
    (h : tileExecutes s p lc o spec = true) : ∃ s1 e c, TileExecutes s p lc o spec s1 e c := by
  simp only [tileExecutes, Bool.and_eq_true] at h
  obtain ⟨hp, h⟩ := h
  split at h
  · rename_i s1 e c hg
    exact ⟨s1, e, c, hp, hg, by simpa using h⟩
  · simp at h

/-- An element of a vector operand is the value of its slot. -/
theorem Opnd.row_getD (s : State) (p lc : Nat) (w : TDesc) (i r n : Nat) (o : Opnd) (h : w.opnd lc i = some o) :
    o.row (s.pt p).live r n = (List.range n).map fun k => s.slotVal p lc w i r k := by
  simp [Opnd.row, State.slotVal, h]

end Sys2Proof.Machine
end

