-- ==== Sys2Proof/Laws/Wire.lean ====
section
/-! SUPPORT. Laws of a flit's way over the lanes: what one end seals, codes and lays on the lanes, the other end takes off, decodes and
opens as it was sent. -/

namespace Sys2Proof.Machine

/-! ### Little-endian bytes -/

@[simp] theorem leBytes_length (n v : Nat) : (leBytes n v).length = n := by
  induction n generalizing v with
  | zero => rfl
  | succ n ih => simp [leBytes, ih]

theorem leNat_leBytes (n v : Nat) : leNat (leBytes n v) = v % 256 ^ n := by
  induction n generalizing v with
  | zero => simp [leBytes, leNat, Nat.mod_one]
  | succ n ih => simp [leBytes, leNat, ih, Nat.pow_succ', Nat.mod_mul]

theorem leBytes_leNat (bs : Bytes) : leBytes bs.length (leNat bs) = bs := by
  induction bs with
  | nil => rfl
  | cons b bs ih =>
    have h := b.isLt
    have e : (b.toNat + 256 * leNat bs) / 256 = leNat bs := by omega
    simp only [List.length_cons, leBytes, leNat, e, ih, List.cons.injEq, and_true]
    apply BitVec.eq_of_toNat_eq
    simp only [BitVec.toNat_ofNat]
    omega

theorem leNat_lt (bs : Bytes) : leNat bs < 256 ^ bs.length := by
  induction bs with
  | nil => simp [leNat]
  | cons b bs ih =>
    have h := b.isLt
    simp only [leNat, List.length_cons, Nat.pow_succ']
    omega

/-! ### AES blocks -/

theorem aesMix_length (st : Bytes) : (aesMix st).length = 16 := by
  simp [aesMix, aesMixColumn, List.range, List.range.loop]

theorem aesRounds_length (keys : List Bytes) (st : Bytes) (h : ∀ k ∈ keys, k.length = 16) (hs : st.length = 16) :
    (aesRounds keys st).length = 16 := by
  induction keys generalizing st with
  | nil => exact hs
  | cons k t ih =>
    have hk := h k (by simp)
    cases t with
    | nil => simp [aesRounds, xorBytes, aesShift, hk]
    | cons k' t' => exact ih _ (fun x hx => h x (by simp [hx])) (by simp [xorBytes, aesMix_length, hk])

theorem aesExpand_words (n i : Nat) (rcon : Byte) (w : List Bytes) (h : ∀ x ∈ w, x.length = 4) (hw : 8 ≤ w.length) :
    (∀ x ∈ aesExpand n i rcon w, x.length = 4) ∧ (aesExpand n i rcon w).length = w.length + n := by
  induction n generalizing i rcon w with
  | zero => exact ⟨h, rfl⟩
  | succ n ih =>
    obtain ⟨a, t, rfl⟩ : ∃ a t, w = a :: t := by
      cases w with
      | nil => simp at hw
      | cons a t => exact ⟨a, t, rfl⟩
    have ha := h a (by simp)
    have h7 : ((a :: t).getD 7 []).length = 4 := by
      rw [List.getD_eq_getElem?_getD, List.getElem?_eq_getElem (by omega)]
      exact h _ (List.getElem_mem _)
    simp only [aesExpand, List.headD_cons]
    have key : ∀ x : Bytes, x.length = 4 → (∀ y ∈ xorBytes ((a :: t).getD 7 []) x :: a :: t, y.length = 4) := by
      intro x hx y hy
      rcases List.mem_cons.mp hy with rfl | hy
      · rw [xorBytes, List.length_zipWith, h7, hx]; rfl
      · exact h y hy
    have hx : (if i % 8 = 0 then xorBytes ((a.drop 1 ++ a.take 1).map aesSub) [rcon, 0, 0, 0]
        else if i % 8 = 4 then a.map aesSub else a).length = 4 := by
      split
      · simp [xorBytes, ha]
      · split <;> simp [ha]
    have r := ih (i + 1) (if i % 8 = 0 then aesDouble rcon else rcon) _ (key _ hx) (by simp at hw ⊢; omega)
    refine ⟨r.1, r.2.trans ?_⟩
    simp only [List.length_cons]
    omega

theorem aesKeys_length (key : Bytes) (h : key.length = 32) : ∀ k ∈ aesKeys key, k.length = 16 := by
  intro k hk
  simp only [aesKeys, List.mem_map, List.mem_range] at hk
  obtain ⟨r, hr, rfl⟩ := hk
  generalize hf : ((List.range 8).map fun i => (key.drop (4 * i)).take 4).reverse = first
  have w4 : ∀ x ∈ first, x.length = 4 := by
    subst hf
    simp only [List.mem_reverse, List.mem_map, List.mem_range]
    rintro x ⟨i, hi, rfl⟩
    simp [h]; omega
  have w8 : first.length = 8 := by subst hf; simp
  obtain ⟨e1, e2⟩ := aesExpand_words 52 8 1 first w4 (by omega)
  generalize aesExpand 52 8 1 first = w at e1 e2
  have hl : ((w.reverse.drop (4 * r)).take 4).length = 4 := by simp; omega
  have ha : ∀ x ∈ (w.reverse.drop (4 * r)).take 4, x.length = 4 := fun x hx =>
    e1 x (List.mem_reverse.mp (List.mem_of_mem_drop (List.mem_of_mem_take hx)))
  generalize (w.reverse.drop (4 * r)).take 4 = l at hl ha
  match l, hl with
  | [a, b, c, d], _ => simp [ha]

theorem aesBlock_length (key b : Bytes) (h : key.length = 32) (hb : b.length = 16) : (aesBlock (aesKeys key) b).length = 16 := by
  have hk := aesKeys_length key h
  have hd : ((aesKeys key).headD []).length = 16 := by
    refine hk _ ?_
    simp [aesKeys, List.range, List.range.loop]
  exact aesRounds_length _ _ (fun x hx => hk x (List.mem_of_mem_drop hx)) (by rw [xorBytes, List.length_zipWith, hd, hb]; rfl)

theorem xorBytes_cancel (a k : Bytes) (h : a.length ≤ k.length) : xorBytes (xorBytes a k) k = a := by
  induction a generalizing k with
  | nil => rfl
  | cons x a ih =>
    cases k with
    | nil => simp at h
    | cons y k =>
      simp only [List.length_cons, Nat.add_le_add_iff_right] at h
      have e := ih k h
      simp only [xorBytes, List.zipWith_cons_cons, List.cons.injEq] at e ⊢
      exact ⟨by rw [BitVec.xor_assoc, BitVec.xor_self, BitVec.xor_zero], e⟩

/-! ### Blocks of a list of bytes -/

theorem chunk_flatMap {α : Type} (k : Nat) (g : α → Bytes) (l : List α) (hg : ∀ x ∈ l, (g x).length = k) (i : Nat) (hi : i < l.length) :
    ((l.flatMap g).drop (k * i)).take k = g l[i] := by
  induction l generalizing i with
  | nil => simp at hi
  | cons x l ih =>
    have hx := hg x (by simp)
    cases i with
    | zero => simp [hx]
    | succ i =>
      have e : k * (i + 1) = (g x).length + k * i := by rw [hx]; exact Nat.mul_succ k i ▸ Nat.add_comm _ _
      rw [List.flatMap_cons, e, List.drop_append, List.drop_eq_nil_of_le (by omega), List.nil_append, Nat.add_sub_cancel_left,
        ih (fun y hy => hg y (by simp [hy])) i (by simpa using hi)]
      simp

theorem flatMap_chunks (k n : Nat) (d : Bytes) (h : d.length = k * n) :
    ((List.range n).flatMap fun i => (d.drop (k * i)).take k) = d := by
  induction n generalizing d with
  | zero => simp [List.length_eq_zero_iff.mp h]
  | succ n ih =>
    rw [List.range_succ_eq_map, List.flatMap_cons, List.flatMap_map]
    have e : ∀ i, d.drop (k * (i + 1)) = (d.drop k).drop (k * i) := fun i => by rw [List.drop_drop, Nat.mul_succ, Nat.add_comm]
    simp only [Nat.succ_eq_add_one, e]
    rw [ih (d.drop k) (by rw [List.length_drop, h, Nat.mul_succ]; omega)]
    simp

theorem flatMap_length {α : Type} (k : Nat) (g : α → Bytes) (l : List α) (hg : ∀ x ∈ l, (g x).length = k) :
    (l.flatMap g).length = k * l.length := by
  induction l with
  | nil => rfl
  | cons x l ih =>
    rw [List.flatMap_cons, List.length_append, hg x (by simp), ih fun y hy => hg y (by simp [hy]), List.length_cons, Nat.mul_succ, Nat.add_comm]

/-! ### Encryption -/

theorem flitNonce_length (ks : Bytes) (ctr : Nat) (h : ks.length = 36) : (flitNonce ks ctr).length = 12 := by
  simp [flitNonce, h]

theorem gcmStream_blocks (keys : List Bytes) (iv d : Bytes) (n : Nat) (h : d.length = 16 * n) :
    gcmStream keys iv d = (List.range n).flatMap fun i => xorBytes ((d.drop (16 * i)).take 16) (aesBlock keys (iv ++ beBytes 4 (i + 2))) := by
  have e : ceilDiv d.length 16 = n := by rw [h, ceilDiv]; omega
  rw [gcmStream, e]

/-- Under one key and one counter the second encryption undoes the first. -/
theorem gcmStream_twice (key iv d : Bytes) (n : Nat) (hk : key.length = 32) (hi : iv.length = 12) (h : d.length = 16 * n) :
    (gcmStream (aesKeys key) iv d).length = 16 * n ∧ gcmStream (aesKeys key) iv (gcmStream (aesKeys key) iv d) = d := by
  have hb : ∀ i, (aesBlock (aesKeys key) (iv ++ beBytes 4 (i + 2))).length = 16 := fun i =>
    aesBlock_length _ _ hk (by simp [beBytes, hi])
  have hx : ∀ i ∈ List.range n, (xorBytes ((d.drop (16 * i)).take 16) (aesBlock (aesKeys key) (iv ++ beBytes 4 (i + 2)))).length = 16 := by
    intro i hi
    have := List.mem_range.mp hi
    simp only [xorBytes, List.length_zipWith, hb, List.length_take, List.length_drop, h]
    omega
  have hl := flatMap_length 16 _ _ hx
  rw [List.length_range] at hl
  rw [gcmStream_blocks _ _ _ n h]
  refine ⟨hl, ?_⟩
  rw [gcmStream_blocks _ _ _ n hl]
  refine Eq.trans ?_ (flatMap_chunks 16 n d h)
  rw [List.flatMap_def, List.flatMap_def]
  congr 1
  refine List.map_congr_left fun i hi => ?_
  rw [← List.flatMap_def, chunk_flatMap 16 _ _ hx i (by simpa using hi), List.getElem_range, xorBytes_cancel _ _ (by rw [hb, List.length_take, List.length_drop]; omega)]

/-! ### A sealed flit -/

@[simp] theorem hdrBytes_length (f : Flit) : (hdrBytes f).length = 4 := by simp [hdrBytes]

theorem gcmTag_take (key iv aad ct : Bytes) (hk : key.length = 32) (hi : iv.length = 12) : ((gcmTag (aesKeys key) iv aad ct).take 8).length = 8 := by
  have hb : (aesBlock (aesKeys key) (iv ++ beBytes 4 1)).length = 16 := aesBlock_length _ _ hk (by simp [beBytes, hi])
  simp only [gcmTag, xorBytes, List.length_take, List.length_zipWith, hb]
  simp [beBytes]

theorem flitOf_hdr (f : Flit) (payload : Bytes) :
    flitOf (leNat (hdrBytes f)) payload = { f with slots := (flitOf 0 payload).slots } := by
  have h1 := f.fseq.isLt
  have h2 := f.ack.isLt
  have h3 := f.typ.isLt
  have h4 := f.key.isLt
  have h5 := f.start.isLt
  have e : leNat (hdrBytes f) = f.fseq.toNat * 2 ^ 21 + f.ack.toNat * 2 ^ 10 + f.typ.toNat * 2 ^ 8 + f.key.toNat * 2 ^ 5 + f.start.toNat := by
    rw [hdrBytes, leNat_leBytes, Nat.mod_eq_of_lt]
    omega
  rw [e]
  cases f
  simp only [flitOf, Flit.mk.injEq, and_true]
  refine ⟨?_, ?_, ?_, ?_, ?_⟩ <;> apply BitVec.eq_of_toNat_eq <;> simp only [BitVec.toNat_ofNat] at * <;> omega

theorem sealFlit_length (ks : Bytes) (ctr : Nat) (f : Flit) (hk : ks.length = 36) (hs : f.slots.length = 18) : (sealFlit ks ctr f).length = 300 := by
  have hp : (f.slots.flatMap fun x => leBytes 16 x.toNat).length = 16 * 18 := by rw [flatMap_length 16 _ _ (by simp), hs]
  have hc := (gcmStream_twice (ks.take 32) (flitNonce ks ctr) _ 18 (by simp [hk]) (flitNonce_length ks ctr hk) hp).1
  simp only [sealFlit, List.length_append, hdrBytes_length, hc, flitIcv]
  rw [gcmTag_take _ _ _ _ (by simp [hk]) (flitNonce_length ks ctr hk)]

/-- A flit opens under the key, salt and counter it was sealed under, as it was (R391). -/
theorem openFlit_sealFlit (ks : Bytes) (ctr : Nat) (f : Flit) (hk : ks.length = 36) (hs : f.slots.length = 18) :
    openFlit ks ctr (sealFlit ks ctr f) = some f := by
  have hp : (f.slots.flatMap fun x => leBytes 16 x.toNat).length = 16 * 18 := by rw [flatMap_length 16 _ _ (by simp), hs]
  obtain ⟨hc, hback⟩ := gcmStream_twice (ks.take 32) (flitNonce ks ctr) _ 18 (by simp [hk]) (flitNonce_length ks ctr hk) hp
  generalize hg : gcmStream (aesKeys (ks.take 32)) (flitNonce ks ctr) (f.slots.flatMap fun x => leBytes 16 x.toNat) = ct at hc hback
  have hh := hdrBytes_length f
  have e1 : (hdrBytes f ++ ct ++ flitIcv ks ctr (hdrBytes f) ct).take 4 = hdrBytes f := by
    rw [List.append_assoc, ← hh, List.take_left]
  have e2 : ((hdrBytes f ++ ct ++ flitIcv ks ctr (hdrBytes f) ct).drop 4).take 288 = ct := by
    rw [List.append_assoc, ← hh, List.drop_left, show 288 = ct.length from hc.symm, List.take_left]
  have e3 : (hdrBytes f ++ ct ++ flitIcv ks ctr (hdrBytes f) ct).drop 292 = flitIcv ks ctr (hdrBytes f) ct := by
    rw [show 292 = (hdrBytes f ++ ct).length by rw [List.length_append, hh, hc], List.drop_left]
  have hslots : (flitOf 0 (f.slots.flatMap fun x => leBytes 16 x.toNat)).slots = f.slots := by
    refine List.ext_getElem (by simp [flitOf, hs]) fun i h1 h2 => ?_
    simp only [flitOf, List.getElem_map, List.getElem_range]
    rw [chunk_flatMap 16 _ _ (by simp) i h2, leNat_leBytes]
    apply BitVec.eq_of_toNat_eq
    have := f.slots[i].isLt
    simp only [BitVec.toNat_ofNat]
    omega
  simp only [openFlit, sealFlit, hg, e1, e2, e3, if_true, hback, flitOf_hdr, hslots]

/-! ### Symbols -/

@[simp] theorem symbolsOf_length (n : Nat) (bs : Bytes) : (symbolsOf n bs).length = 4 * n := by
  induction n generalizing bs with
  | zero => rfl
  | succ n ih => simp [symbolsOf, ih]; omega

theorem bytesOfSymbols_symbolsOf (n : Nat) (bs : Bytes) (l : List Sym) (h : bs.length = 5 * n) :
    bytesOfSymbols n (symbolsOf n bs ++ l) = bs := by
  induction n generalizing bs with
  | zero => simp [bytesOfSymbols, List.length_eq_zero_iff.mp h]
  | succ n ih =>
    have h5 : (bs.take 5).length = 5 := by rw [List.length_take, h]; omega
    have hv := leNat_lt (bs.take 5)
    have hb := leBytes_leNat (bs.take 5)
    rw [h5] at hv hb
    simp only [symbolsOf, bytesOfSymbols, List.cons_append, List.nil_append, List.take_succ_cons, List.take_zero, List.drop_succ_cons,
      List.drop_zero, List.foldr_cons, List.foldr_nil, BitVec.toNat_ofNat]
    rw [ih (bs.drop 5) (by rw [List.length_drop, h]; omega)]
    generalize leNat (bs.take 5) = v at hv hb ⊢
    have e : v % 2 ^ 10 + 1024 * (v / 2 ^ 10 % 2 ^ 10 + 1024 * (v / 2 ^ 20 % 2 ^ 10 + 1024 * (v / 2 ^ 30 % 2 ^ 10 + 1024 * 0))) = v := by omega
    rw [e, hb, List.take_append_drop]

/-! ### The code -/

theorem gfDouble_xor (a b : Sym) : gfDouble (a ^^^ b) = gfDouble a ^^^ gfDouble b := by
  unfold gfDouble
  rw [BitVec.msb_xor]
  cases a.msb <;> cases b.msb <;> simp <;> ext i <;> simp <;> grind

theorem gfMulBits_xor (a a' b : Sym) (n : Nat) (z z' : Sym) :
    gfMulBits (a ^^^ a') b n (z ^^^ z') = gfMulBits a b n z ^^^ gfMulBits a' b n z' := by
  induction n generalizing z z' with
  | zero => rfl
  | succ n ih =>
    simp only [gfMulBits]
    rw [← ih, gfDouble_xor]
    congr 1
    cases b.getLsbD n <;> simp <;> ac_rfl

theorem gfMul_xor (a a' b : Sym) : gfMul (a ^^^ a') b = gfMul a b ^^^ gfMul a' b := by
  unfold gfMul; rw [← gfMulBits_xor]; simp

theorem gfMul_zero (b : Sym) : gfMul 0 b = 0 := by
  have h := gfMul_xor 0 0 b
  simpa using h

/-- Symbols enter a polynomial's value at `r` after `a`, the highest coefficient first. -/
def horner (r a : Sym) (w : List Sym) : Sym := w.foldl (fun a c => c ^^^ gfMul a r) a

theorem horner_xor (r a b : Sym) (u v : List Sym) (h : u.length = v.length) :
    horner r (a ^^^ b) (u.zipWith (· ^^^ ·) v) = horner r a u ^^^ horner r b v := by
  induction u generalizing a b v with
  | nil => simp [List.length_eq_zero_iff.mp h.symm, horner]
  | cons x u ih =>
    cases v with
    | nil => simp at h
    | cons y v =>
      simp only [horner, List.zipWith_cons_cons, List.foldl_cons] at ih ⊢
      rw [← ih _ _ v (by simpa using h), gfMul_xor]
      congr 1
      ac_rfl

theorem zipWith_zeros (w : List Sym) : (List.replicate w.length 0).zipWith (· ^^^ ·) w = w := by
  induction w with
  | nil => rfl
  | cons x w ih => simpa [List.replicate_succ] using ih

theorem horner_start (r a : Sym) (w : List Sym) : horner r a w = horner r a (List.replicate w.length 0) ^^^ horner r 0 w := by
  rw [← horner_xor _ _ _ _ _ (by simp), zipWith_zeros, show a ^^^ 0 = a from BitVec.xor_zero]

/-- A symbol is the sum of its bits. -/
theorem sym_bits (x : Sym) : x = (List.range 10).foldl (fun z i => z ^^^ (x &&& BitVec.twoPow 10 i)) 0 := by
  ext j hj
  simp only [List.range, List.range.loop, List.foldl_cons, List.foldl_nil, BitVec.getElem_xor, BitVec.getElem_and, BitVec.getElem_twoPow]
  match j, hj with
  | 0, _ | 1, _ | 2, _ | 3, _ | 4, _ | 5, _ | 6, _ | 7, _ | 8, _ | 9, _ => simp

/-- Two additive maps that agree on the powers of two are equal. -/
theorem additive_ext (f g : Sym → Sym) (hf : ∀ a b, f (a ^^^ b) = f a ^^^ f b) (hg : ∀ a b, g (a ^^^ b) = g a ^^^ g b)
    (h : ∀ i < 10, f (BitVec.twoPow 10 i) = g (BitVec.twoPow 10 i)) (x : Sym) : f x = g x := by
  have zero : ∀ k : Sym → Sym, (∀ a b, k (a ^^^ b) = k a ^^^ k b) → k 0 = 0 := fun k hk => by simpa using hk 0 0
  have fold : ∀ (l : List Nat) (z : Sym), (∀ i ∈ l, i < 10) → f z = g z →
      f (l.foldl (fun z i => z ^^^ (x &&& BitVec.twoPow 10 i)) z) = g (l.foldl (fun z i => z ^^^ (x &&& BitVec.twoPow 10 i)) z) := by
    intro l
    induction l with
    | nil => exact fun z _ hz => hz
    | cons i l ih =>
      intro z hl hz
      refine ih _ (fun j hj => hl j (by simp [hj])) ?_
      rw [hf, hg, hz, BitVec.and_twoPow]
      split
      · rw [h i (hl i (by simp))]
      · rw [show (0#10) = (0 : Sym) from rfl, zero f hf, zero g hg]
  rw [sym_bits x]
  exact fold _ 0 (by simp) (by rw [zero f hf, zero g hg])

theorem gfMulBits_xor_right (a b b' : Sym) (n : Nat) (z z' : Sym) :
    gfMulBits a (b ^^^ b') n (z ^^^ z') = gfMulBits a b n z ^^^ gfMulBits a b' n z' := by
  induction n generalizing z z' with
  | zero => rfl
  | succ n ih =>
    simp only [gfMulBits]
    rw [← ih, gfDouble_xor, BitVec.getLsbD_xor]
    congr 1
    generalize gfDouble z = u
    generalize gfDouble z' = v
    cases b.getLsbD n <;> cases b'.getLsbD n <;> ext i <;> simp <;> grind

theorem gfMul_xor_right (a b b' : Sym) : gfMul a (b ^^^ b') = gfMul a b ^^^ gfMul a b' := by
  unfold gfMul; rw [← gfMulBits_xor_right]; simp

theorem gfMul_double_right (a b : Sym) : gfMul a (gfDouble b) = gfDouble (gfMul a b) := by
  refine additive_ext (fun b => gfMul a (gfDouble b)) (fun b => gfDouble (gfMul a b)) (fun _ _ => by rw [gfDouble_xor, gfMul_xor_right])
    (fun _ _ => by rw [gfMul_xor_right, gfDouble_xor]) (fun i hi => ?_) b
  refine additive_ext (fun a => gfMul a (gfDouble (BitVec.twoPow 10 i))) (fun a => gfDouble (gfMul a (BitVec.twoPow 10 i)))
    (fun _ _ => gfMul_xor _ _ _) (fun _ _ => by rw [gfMul_xor, gfDouble_xor]) ?_ a
  have : ∀ i < 10, ∀ j < 10, gfMul (BitVec.twoPow 10 j) (gfDouble (BitVec.twoPow 10 i)) = gfDouble (gfMul (BitVec.twoPow 10 j) (BitVec.twoPow 10 i)) := by
    decide +kernel
  exact this i hi

theorem gfMul_assoc (a b c : Sym) : gfMul (gfMul a b) c = gfMul a (gfMul b c) := by
  have h : ∀ n z, gfMulBits (gfMul a b) c n (gfMul a z) = gfMul a (gfMulBits b c n z) := by
    intro n
    induction n with
    | zero => exact fun _ => rfl
    | succ n ih =>
      intro z
      simp only [gfMulBits]
      rw [← ih, gfMul_xor_right, gfMul_double_right]
      congr 2
      cases c.getLsbD n
      · simpa using (gfMul_xor_right a 0 0).symm
      · simp
  have h0 : gfMul a 0 = 0 := by simpa using gfMul_xor_right a 0 0
  unfold gfMul at h h0 ⊢
  simpa only [h0] using h 10 0

theorem horner_scale (r a b : Sym) (w : List Sym) : horner r (gfMul b a) (w.map (gfMul b)) = gfMul b (horner r a w) := by
  induction w generalizing a with
  | nil => rfl
  | cons x w ih =>
    simp only [horner, List.map_cons, List.foldl_cons] at ih ⊢
    rw [← ih, gfMul_assoc, gfMul_xor_right]

/-- The generator's lower coefficients, the highest first. -/
theorem rsGenerator_low :
    (rsGenerator.take 16).reverse = [568, 550, 748, 724, 650, 1005, 744, 27, 204, 617, 218, 595, 461, 746, 960, 888] := by decide +kernel

/-- The generator is zero at each of its roots: its lower coefficients sum to the sixteenth power. -/
theorem rsGenerator_root (r : Sym) (h : r ∈ gfPowers 16) :
    horner r 0 (rsGenerator.take 16).reverse = horner r 1 (List.replicate 16 0) := by
  have e : gfPowers 16 = [1, 2, 4, 8, 16, 32, 64, 128, 256, 512, 9, 18, 36, 72, 144, 288] := by decide +kernel
  rw [rsGenerator_low]
  rw [e] at h
  revert r
  decide +kernel

theorem gfMul_one : ∀ b : Sym, gfMul b 1 = b := by
  refine additive_ext (fun b => gfMul b 1) id (fun _ _ => gfMul_xor _ _ _) (fun _ _ => rfl) ?_
  decide +kernel

theorem rsShift_length (g reg : List Sym) (x : Sym) (hg : g.length = 16) (h : reg.length = 16) : (rsShift g reg x).length = 16 := by
  simp [rsShift, hg, h]

/-- At a root of the generator the remainder of what has entered is its sixteenth multiple. -/
theorem rsShift_root (r d x : Sym) (reg : List Sym) (hr : r ∈ gfPowers 16) (hl : reg.length = 16)
    (h : horner r d (List.replicate 16 0) = horner r 0 reg) :
    horner r (x ^^^ gfMul d r) (List.replicate 16 0) = horner r 0 (rsShift (rsGenerator.take 16).reverse reg x) := by
  obtain ⟨r0, rest, rfl⟩ : ∃ r0 rest, reg = r0 :: rest := by
    cases reg with
    | nil => simp at hl
    | cons r0 rest => exact ⟨r0, rest, rfl⟩
  have hrest : rest.length = 15 := by simpa using hl
  have hg : (rsGenerator.take 16).reverse.length = 16 := by rw [rsGenerator_low]; rfl
  -- what a multiplication by the root does to both sides
  have shift : ∀ a w, gfMul (horner r a w) r = horner r a (w ++ [0]) := by intro a w; simp [horner]
  have z17 : ∀ a : Sym, horner r (gfMul a r) (List.replicate 16 0) = gfMul (horner r a (List.replicate 16 0)) r := by
    intro a
    rw [shift, ← List.replicate_succ', List.replicate_succ]
    simp [horner]
  have e0 : horner r 0 (r0 :: rest) = horner r r0 rest := by
    rw [horner, List.foldl_cons, gfMul_zero, show r0 ^^^ 0 = r0 from BitVec.xor_zero, horner]
  have e1 : horner r r0 (rest ++ [0]) = horner r r0 (List.replicate 16 0) ^^^ horner r 0 (rest ++ [0]) := by
    have := horner_start r r0 (rest ++ [0])
    simpa [hrest] using this
  have eg : ∀ b, horner r 0 ((rsGenerator.take 16).reverse.map (gfMul b)) = horner r b (List.replicate 16 0) := by
    intro b
    have z : gfMul b 0 = 0 := by simpa using gfMul_xor_right b 0 0
    have h1 := horner_scale r 0 b (rsGenerator.take 16).reverse
    have h2 := horner_scale r 1 b (List.replicate 16 0)
    rw [z] at h1
    rw [gfMul_one, List.map_replicate, z] at h2
    rw [h1, h2, rsGenerator_root r hr]
  have en : rsShift (rsGenerator.take 16).reverse (r0 :: rest) x =
      (rest ++ [0]).zipWith (· ^^^ ·) ((rsGenerator.take 16).reverse.map (gfMul (x ^^^ r0))) := by
    simp only [rsShift, List.drop_succ_cons, List.drop_zero, List.headD_cons]
    rw [List.zipWith_map_right]
  have e2 : horner r 0 (rsShift (rsGenerator.take 16).reverse (r0 :: rest) x) =
      horner r 0 (rest ++ [0]) ^^^ horner r (x ^^^ r0) (List.replicate 16 0) := by
    have := horner_xor r 0 0 (rest ++ [0]) ((rsGenerator.take 16).reverse.map (gfMul (x ^^^ r0))) (by rw [List.length_map, hg]; simp [hrest])
    rw [en, ← eg, ← this]
    simp
  have lin : ∀ a b : Sym, horner r (a ^^^ b) (List.replicate 16 0) = horner r a (List.replicate 16 0) ^^^ horner r b (List.replicate 16 0) := by
    intro a b
    rw [← horner_xor _ _ _ _ _ rfl]
    rfl
  rw [e2, lin, z17, h, e0, shift, e1, lin]
  generalize horner r x (List.replicate 16 0) = u
  generalize horner r r0 (List.replicate 16 0) = v
  generalize horner r 0 (rest ++ [0]) = w
  ac_rfl

theorem rsParity_root (r d : Sym) (w reg : List Sym) (hr : r ∈ gfPowers 16) (hl : reg.length = 16)
    (h : horner r d (List.replicate 16 0) = horner r 0 reg) :
    (w.foldl (rsShift (rsGenerator.take 16).reverse) reg).length = 16 ∧
      horner r (horner r d w) (w.foldl (rsShift (rsGenerator.take 16).reverse) reg) = 0 := by
  induction w generalizing d reg with
  | nil =>
    refine ⟨hl, ?_⟩
    rw [List.foldl_nil, horner_start, hl]
    simp only [horner, List.foldl_nil] at h ⊢
    rw [h, BitVec.xor_self]
    rfl
  | cons x w ih =>
    have hg : (rsGenerator.take 16).reverse.length = 16 := by rw [rsGenerator_low]; rfl
    exact ih (x ^^^ gfMul d r) _ (rsShift_length _ _ _ hg hl) (rsShift_root r d x reg hr hl h)

/-- Data with its parity is a code word: no syndrome is set, and it decodes as it stands (R374). -/
theorem rsDecode_parity (w : List Sym) : (rsParity w).length = 16 ∧ rsDecode (w ++ rsParity w) = some (w ++ rsParity w, 0) := by
  have start : ∀ r : Sym, horner r 0 (List.replicate 16 0) = horner r 0 (List.replicate 16 0) := fun _ => rfl
  have one : (1 : Sym) ∈ gfPowers 16 := by decide +kernel
  refine ⟨(rsParity_root 1 0 w _ one (by simp) (start 1)).1, ?_⟩
  have hs : (rsSyndromes (w ++ rsParity w)).all (· == 0) = true := by
    simp only [rsSyndromes, List.all_map, List.all_eq_true, Function.comp_apply, beq_iff_eq]
    intro r hr
    have h := (rsParity_root r 0 w _ hr (by simp) (start r)).2
    simp only [polyAt, List.foldr_reverse]
    simpa [horner, rsParity, List.foldl_append] using h
  rw [rsDecode, if_pos hs]

theorem rsDecode_flitSymbols (bs : Bytes) (h : bs.length = 300) :
    (flitSymbols bs).length = 256 ∧ (rsDecode (flitSymbols bs)).map (fun r => (bytesOfSymbols 60 r.1, r.2)) = some (bs, 0) := by
  obtain ⟨hl, hd⟩ := rsDecode_parity (symbolsOf 60 bs)
  refine ⟨by simp [flitSymbols, hl], ?_⟩
  simp only [flitSymbols, hd, Option.map_some, bytesOfSymbols_symbolsOf 60 bs _ h]

/-! ### Lanes -/

/-- What is laid on lanes that work comes off them in the same order (R371, R373). -/
theorem offLanes_onLanes (active : List Nat) (syms : List Sym) (hn : active.Nodup) (h8 : ∀ i ∈ active, i < 8) (h0 : active ≠ [])
    (hl : syms.length = 256) : offLanes active (onLanes active syms) = syms := by
  have hpos : 0 < active.length := List.length_pos_iff.mpr h0
  have time : ∀ t, active.map (fun i => (lanesAt active syms t).getD i 0) =
      (List.range active.length).map fun k => syms.getD (t * active.length + k) 0 := by
    intro t
    refine List.ext_getElem (by simp) fun k h1 h2 => ?_
    have hk : k < active.length := by simpa using h1
    have h := h8 _ (List.getElem_mem hk)
    have hf : active.findIdx? (· == active[k]) = some k := by
      rw [List.findIdx?_eq_some_iff_getElem]
      refine ⟨hk, by simp, fun j hj => ?_⟩
      simp only [beq_iff_eq]
      exact List.pairwise_iff_getElem.mp hn j k (by omega) hk hj
    simp [lanesAt, h, hf]
  have flat : ∀ n, ((List.range n).flatMap fun t => (List.range active.length).map fun k => syms.getD (t * active.length + k) 0) =
      (List.range (n * active.length)).map fun i => syms.getD i 0 := by
    intro n
    induction n with
    | zero => simp
    | succ n ih =>
      rw [List.range_succ, List.flatMap_append, ih, Nat.succ_mul, List.range_add, List.map_append]
      simp
  have enough : 256 ≤ ceilDiv 256 active.length * active.length := by
    have h := Nat.div_add_mod (256 + active.length - 1) active.length
    have := Nat.mod_lt (256 + active.length - 1) hpos
    rw [ceilDiv, Nat.mul_comm]
    omega
  rw [offLanes, onLanes, List.flatMap_map]
  simp only [time]
  rw [flat]
  refine List.ext_getElem (by simp [hl]; omega) fun i h1 h2 => ?_
  simp [h2]

end Sys2Proof.Machine
end

