-- ==== Sys2Proof/WellFormed.lean ====
section
/-! DEFINITION. Which commands are well formed: every number in the range its unit has. A command that
is not well formed names a unit that the module does not have: nothing sends one, and `exec` does not check for it. -/

namespace Sys2Proof

/-- Does `fn` name a space of registers: BAR0 of PF0 to PF4, a processor's local interface, BAR2 of PF(`fn` - 32), or the configuration space of
PF(`fn` - 64)? DESIGN CHOICE, log entry 135. -/
def regFn (fn : Nat) : Bool :=
  decide (fn < 5) || (decide (16 ≤ fn) && decide (fn < 26)) || (decide (33 ≤ fn) && decide (fn < 37)) || (decide (64 ≤ fn) && decide (fn < 69))

/-- Are the operands of a command in range: partitions 0 to 3, dispatchers 0 to 15, logical cores of a partition,
rings, sessions and groups 0 to 63, ports 0 to 24 (R5, R6, R313, R377)? DESIGN CHOICE, log entry 136. -/
def Instr.wf (i : Instr) : Bool :=
  match i with
  | .powerGood slot => decide (slot < 64)
  | .beatBoundary _ => true
  | .epochBoundary => true
  | .timeout _ => true
  | .tileWatchdog p lc _ => decide (p < 4) && decide (lc < 5120)
  | .mgtBeatRead => true
  | .timeReq port _ _ _ _ => decide (port < 25)
  | .timeRsp port _ _ _ _ _ => decide (port < 25)
  | .countAdoption _ => true
  | .alignmentLost => true
  | .alignmentRegained => true
  | .ppsEdge => true
  | .ppsMissed => true
  | .mgtPtnShapeWrite _ => true
  | .shapeChange => true
  | .shapeChangeDone => true
  | .matmul p lc _ => decide (p < 4) && decide (lc < 5120)
  | .convert p lc => decide (p < 4) && decide (lc < 5120)
  | .vecAdd p lc => decide (p < 4) && decide (lc < 5120)
  | .sub p lc => decide (p < 4) && decide (lc < 5120)
  | .mul p lc => decide (p < 4) && decide (lc < 5120)
  | .fma p lc => decide (p < 4) && decide (lc < 5120)
  | .max p lc => decide (p < 4) && decide (lc < 5120)
  | .min p lc => decide (p < 4) && decide (lc < 5120)
  | .addS p lc => decide (p < 4) && decide (lc < 5120)
  | .mulS p lc => decide (p < 4) && decide (lc < 5120)
  | .addRow p lc => decide (p < 4) && decide (lc < 5120)
  | .mulRow p lc => decide (p < 4) && decide (lc < 5120)
  | .rowSum p lc => decide (p < 4) && decide (lc < 5120)
  | .rowMax p lc => decide (p < 4) && decide (lc < 5120)
  | .iadd p lc => decide (p < 4) && decide (lc < 5120)
  | .iand p lc => decide (p < 4) && decide (lc < 5120)
  | .ior p lc => decide (p < 4) && decide (lc < 5120)
  | .ixor p lc => decide (p < 4) && decide (lc < 5120)
  | .imax p lc => decide (p < 4) && decide (lc < 5120)
  | .imin p lc => decide (p < 4) && decide (lc < 5120)
  | .exp p lc => decide (p < 4) && decide (lc < 5120)
  | .exp2 p lc => decide (p < 4) && decide (lc < 5120)
  | .ln p lc => decide (p < 4) && decide (lc < 5120)
  | .log2 p lc => decide (p < 4) && decide (lc < 5120)
  | .sigmoid p lc => decide (p < 4) && decide (lc < 5120)
  | .tanh p lc => decide (p < 4) && decide (lc < 5120)
  | .erf p lc => decide (p < 4) && decide (lc < 5120)
  | .softplus p lc => decide (p < 4) && decide (lc < 5120)
  | .sqrt p lc => decide (p < 4) && decide (lc < 5120)
  | .rsqrt p lc => decide (p < 4) && decide (lc < 5120)
  | .recip p lc => decide (p < 4) && decide (lc < 5120)
  | .silu p lc => decide (p < 4) && decide (lc < 5120)
  | .gelu p lc => decide (p < 4) && decide (lc < 5120)
  | .sin p lc => decide (p < 4) && decide (lc < 5120)
  | .cos p lc => decide (p < 4) && decide (lc < 5120)
  | .rmsnorm p lc => decide (p < 4) && decide (lc < 5120)
  | .rmsSumsq p lc => decide (p < 4) && decide (lc < 5120)
  | .rmsApply p lc => decide (p < 4) && decide (lc < 5120)
  | .convDense p lc _ => decide (p < 4) && decide (lc < 5120)
  | .convDepthwise p lc => decide (p < 4) && decide (lc < 5120)
  | .poolGavg p lc => decide (p < 4) && decide (lc < 5120)
  | .attnFwd p lc _ => decide (p < 4) && decide (lc < 5120)
  | .attnBwd p lc _ => decide (p < 4) && decide (lc < 5120)
  | .attnMerge p lc => decide (p < 4) && decide (lc < 5120)
  | .tableLoad p lc => decide (p < 4) && decide (lc < 5120)
  | .tableSwap p lc => decide (p < 4) && decide (lc < 5120)
  | .tableLookup p lc => decide (p < 4) && decide (lc < 5120)
  | .move p lc => decide (p < 4) && decide (lc < 5120)
  | .commitWrite p lc => decide (p < 4) && decide (lc < 5120)
  | .commitAdd p lc => decide (p < 4) && decide (lc < 5120)
  | .tktFaa p lc => decide (p < 4) && decide (lc < 5120)
  | .barrier p lc => decide (p < 4) && decide (lc < 5120)
  | .kvPrune p lc => decide (p < 4) && decide (lc < 5120)
  | .tileComplete p lc _ => decide (p < 4) && decide (lc < 5120)
  | .remapCopyDone p lc => decide (p < 4) && decide (lc < 5120)
  | .coreTqpush d rd _ => decide (d < 16) && decide (rd < 32)
  | .coreMboxPost d rd _ => decide (d < 16) && decide (rd < 32)
  | .mailboxPost p lc a => decide (p < 4) && decide (lc < 5120) && decide (a.slot < 16)
  | .coreMboxOvf d rd _ => decide (d < 16) && decide (rd < 32)
  | .coreCcwait d rd _ => decide (d < 16) && decide (rd < 32)
  | .coreBarrier d rd _ => decide (d < 16) && decide (rd < 32)
  | .barrierArrival p ctx => decide (p < 4) && decide (ctx < 8)
  | .coreTktFaa d rd _ => decide (d < 16) && decide (rd < 32)
  | .ecall d _ _ => decide (d < 16)
  | .slmAmo d rd _ _ _ _ => decide (d < 16) && decide (rd < 32)
  | .lr d rd _ _ => decide (d < 16) && decide (rd < 32)
  | .sc d rd _ _ _ => decide (d < 16) && decide (rd < 32)
  | .seqEditRequest p seq _ => decide (p < 4) && decide (seq < 4096)
  | .editValidated p seq => decide (p < 4) && decide (seq < 4096)
  | .tierRequestTailWrite p _ => decide (p < 4)
  | .prefetch p => decide (p < 4)
  | .cap p => decide (p < 4)
  | .demote p => decide (p < 4)
  | .capTakesEffect p page => decide (p < 4) && decide (page < 2 ^ 30)
  | .demandFetchDone p page => decide (p < 4) && decide (page < 2 ^ 30)
  | .residencyStall p lc => decide (p < 4) && decide (lc < 5120)
  | .stepOpen p => decide (p < 4)
  | .reservation p => decide (p < 4)
  | .cutSaveDone p => decide (p < 4)
  | .cutDurable p => decide (p < 4)
  | .groupCut p => decide (p < 4)
  | .memCutTake p _ => decide (p < 4)
  | .memPoolPtnWrite p _ => decide (p < 4)
  | .memSlmSplitWrite p _ => decide (p < 4)
  | .slmSplitDone p => decide (p < 4)
  | .memorySideAdd p va dtype _ addends => decide (p < 4) && va % 64 == 0 && decide (addends.length ≤ 64) && decide (dtype ≠ .fp64)
  | .storeUnitRead p page unit _ => decide (p < 4) && decide (page < 2 ^ 30) && decide (unit < 16)
  | .storeWriteAck p page => decide (p < 4) && decide (page < 2 ^ 30)
  | .stripeClose => true
  | .packageLost n => decide (n < 16)
  | .rebuildDone => true
  | .journalRecordAck => true
  | .powerLoss _ => true
  | .holdupTest _ => true
  | .pcieLinkTrained speed width _ => decide (speed < 16) && [1, 2, 4, 8, 16].contains width
  | .hostWindowAccess p _ => decide (p < 4)
  | .doeDiscovery _ => true
  | .doeAbort => true
  | .getVersion => true
  | .getCapabilities _ => true
  | .negotiateAlgorithms _ _ _ _ => true
  | .getDigests => true
  | .getCertificate slot _ _ => decide (slot < 8)
  | .challenge slot _ => decide (slot < 8)
  | .getMeasurements _ _ _ => true
  | .keyExchange _ _ => true
  | .finish _ _ => true
  | .heartbeat _ => true
  | .keyUpdate _ _ => true
  | .endSession _ => true
  | .vendorDefinedRequest _ _ _ => true
  | .query _ _ => true
  | .keyProg _ _ _ _ _ _ => true
  | .kSetGo _ _ _ _ => true
  | .kSetStop _ _ _ _ => true
  | .ideIntegrityFailure _ => true
  | .getTdispVersion _ fn => decide (fn < 5)
  | .getTdispCapabilities _ fn => decide (fn < 5)
  | .lockInterfaceRequest _ fn _ _ => decide (fn < 5)
  | .getDeviceInterfaceReport _ fn _ _ => decide (fn < 5)
  | .getDeviceInterfaceState _ fn => decide (fn < 5)
  | .startInterfaceRequest _ fn _ => decide (fn < 5)
  | .stopInterfaceRequest _ fn => decide (fn < 5)
  | .tdiProtectedWrite fn => decide (fn < 5)
  | .conventionalReset _ => true
  | .flrPf0 => true
  | .flrPartitionFunction p => decide (p < 4)
  | .functionDiscard p => decide (p < 4)
  | .mgtResetWrite _ => true
  | .resetDone p => decide (p < 4)
  | .ptnSqCfgWrite p n _ => decide (p < 4) && decide (n < 64)
  | .ptnCqCfgWrite p n _ => decide (p < 4) && decide (n < 64)
  | .doorbell p n _ width => decide (p < 4) && decide (n < 64) && (width == 4 || width == 8)
  | .headgateFetch p n slot => decide (p < 4) && decide (n < 64) && (match slot with | some l => l.length == 8 | none => true)
  | .descriptorAccepted p n => decide (p < 4) && decide (n < 64)
  | .jobOpen p n _ _ _ _ => decide (p < 4) && decide (n < 64)
  | .step p n _ => decide (p < 4) && decide (n < 64)
  | .egress p n => decide (p < 4) && decide (n < 64)
  | .ingress p n _ => decide (p < 4) && decide (n < 64)
  | .jobSuspend p n => decide (p < 4) && decide (n < 64)
  | .suspensionEffect p => decide (p < 4)
  | .suspendSaveDone p => decide (p < 4)
  | .jobResume p n => decide (p < 4) && decide (n < 64)
  | .resumptionEffect p => decide (p < 4)
  | .resumeRestoreDone p => decide (p < 4)
  | .jobClose p n => decide (p < 4) && decide (n < 64)
  | .jobCloseAbort p n => decide (p < 4) && decide (n < 64)
  | .abortEffect p => decide (p < 4)
  | .nop p n => decide (p < 4) && decide (n < 64)
  | .completionWrite p cq _ => decide (p < 4) && decide (cq < 64)
  | .eventRecordWrite fn q _ => decide (fn < 5) && decide (q < 128)
  | .coalescingTimer fn q => decide (fn < 5) && decide (q < 128)
  | .evtQCfgWrite fn q _ => decide (fn < 5) && decide (q < 128)
  | .evtLclClaim proc => decide (proc < 10)
  | .evtLclComplete proc e => decide (proc < 10) && decide (e < 4096)
  | .levelWithdraw proc e => decide (proc < 10) && decide (e < 4096)
  | .flitReceive port f => decide (port < 25) && f.times.all fun t => t.length == 8
  | .nak port fseq => decide (port < 25) && decide (fseq < 2048)
  | .laneFailed port lane => decide (port < 25) && decide (lane < 8)
  | .retrainingDone port _ => decide (port < 25)
  | .portFailed port => decide (port < 25)
  | .spareTakeoverDone t => decide (t.port < 25)
  | .harnessMate port _ => decide (port < 25)
  | .credit port vc cls _ => decide (port < 25) && decide (vc < 8) && decide (cls < 2)
  | .laneMap port _ _ => decide (port < 25)
  | .portState _ port _ => decide (port < 25)
  | .resync port fseq => decide (port < 25) && decide (fseq < 2048)
  | .keyReady port slot _ => decide (port < 25) && decide (slot < 8)
  | .keyRetire port slot => decide (port < 25) && decide (slot < 8)
  | .groupHello _ => true
  | .groupFormingTimeout p g => decide (p < 4) && decide (g < 64)
  | .lnkVcwWrite _ => true
  | .lnkSluiceWrite p _ => decide (p < 4)
  | .lnkSpareWrite _ => true
  | .colGrpEnWrite p g _ => decide (p < 4) && decide (g < 64)
  | .colCqEnWrite p q _ => decide (p < 4) && decide (q < 64)
  | .commQueueTailWrite p q _ => decide (p < 4) && decide (q < 64)
  | .put p q _ => decide (p < 4) && decide (q < 64)
  | .add p q _ => decide (p < 4) && decide (q < 64)
  | .ctrAdd p q _ => decide (p < 4) && decide (q < 64)
  | .colNop p q _ => decide (p < 4) && decide (q < 64)
  | .waggleBarrier p q _ => decide (p < 4) && decide (q < 64)
  | .sumI64 p q _ => decide (p < 4) && decide (q < 64)
  | .minI64 p q _ => decide (p < 4) && decide (q < 64)
  | .maxI64 p q _ => decide (p < 4) && decide (q < 64)
  | .sumF64 p q _ => decide (p < 4) && decide (q < 64)
  | .minF64 p q _ => decide (p < 4) && decide (q < 64)
  | .maxF64 p q _ => decide (p < 4) && decide (q < 64)
  | .waggleMessage p g _ => decide (p < 4) && decide (g < 64)
  | .allreduce p q _ => decide (p < 4) && decide (q < 64)
  | .reduceScatter p q _ => decide (p < 4) && decide (q < 64)
  | .allgather p q _ => decide (p < 4) && decide (q < 64)
  | .broadcast p q _ => decide (p < 4) && decide (q < 64)
  | .alltoall p q _ => decide (p < 4) && decide (q < 64)
  | .packetArrival _ => true
  | .operationComplete p q _ _ => decide (p < 4) && decide (q < 64)
  | .operationTimeout p q _ => decide (p < 4) && decide (q < 64)
  | .pageRestore p page => decide (p < 4) && decide (page < 2 ^ 30)
  | .frameDrop p page => decide (p < 4) && decide (page < 2 ^ 30)
  | .storeImageLost p page => decide (p < 4) && decide (page < 2 ^ 30)
  | .rollback p => decide (p < 4)
  | .dieFailed die => decide (die < 4)
  | .regulatorPhaseFailed die phase => decide (die < 4) && decide (phase < 64)
  | .memBuddyWrite p _ => decide (p < 4)
  | .buddyLost p _ => decide (p < 4)
  | .restoreGo p _ _ _ _ _ _ => decide (p < 4)
  | .openSession p n => decide (p < 4) && decide (n < 64)
  | .encode p n => decide (p < 4) && decide (n < 64)
  | .decode p n => decide (p < 4) && decide (n < 64)
  | .closeSession p n => decide (p < 4) && decide (n < 64)
  | .blockAbandoned p engine _ _ => decide (p < 4) && decide (engine < 8)
  | .pictureBudgetExpired p engine _ => decide (p < 4) && decide (engine < 8)
  | .codecPictureRestart p engine _ => decide (p < 4) && decide (engine < 8)
  | .codecPictureDone p engine _ => decide (p < 4) && decide (engine < 8)
  | .fwStage _ _ _ => true
  | .svnCommit _ => true
  | .jobkeyLoad _ _ => true
  | .jobkeyErase _ => true
  | .pubkeySet _ _ => true
  | .pubkeyClear _ => true
  | .logRead _ => true
  | .secLogCountRead => true
  | .authHello port _ _ _ => decide (port < 25)
  | .authCert port _ _ => decide (port < 25)
  | .authKex port _ _ _ _ => decide (port < 25)
  | .authFinish port _ => decide (port < 25)
  | .brakeAssert => true
  | .brakeRelease => true
  | .thermalTrip sensor => decide (sensor < 96)
  | .l1Entry p => decide (p < 4)
  | .l2Entry p => decide (p < 4)
  | .l3Entry p => decide (p < 4)
  | .wake p => decide (p < 4)
  | .l4Req _ => true
  | .l4Entry => true
  | .pwrLimitsWrite _ => true
  | .pwrCeilingWrite _ => true
  | .pwrPtnStateWrite p _ => decide (p < 4)
  | .staggerRelease => true
  | .rootOfTrust _ _ => true
  | .mgmtFw _ => true
  | .identity _ _ => true
  | .hbmTrain _ _ => true
  | .storeMount _ => true
  | .coreTest _ _ => true
  | .portTrain _ => true
  | .linkAuth => true
  | .partitions => true
  | .hive => true
  | .hiveHello port _ pos _ => decide (port < 25) && decide (pos < 16)
  | .hiveFormed _ _ => true
  | .apiary => true
  | .apiaryElect port _ _ => decide (port < 25)
  | .electionEnd => true
  | .apiaryCoord port _ _ _ => decide (port < 25)
  | .apiaryState port _ _ _ _ _ => decide (port < 25)
  | .time => true
  | .telemetryRecord _ => true
  | .i3cWake _ => true
  | .i3cBringup => true
  | .i3cPowerState => true
  | .mgtSb3Write _ => true
  | .rcRegisterRead fn off _ => regFn fn && decide (off < 2 ^ 26)
  | .registerWrite fn off _ _ => regFn fn && decide (off < 2 ^ 26)
  | .flitTransmit port => decide (port < 25)
  | .perstDeassert _ => true
  | .accessFault d _ => decide (d < 16)
  | .dispatcherFault d _ => decide (d < 16)
  | .placementMoveDone p page => decide (p < 4) && decide (page < 2 ^ 30)
  | .dynamicAddressAssignment addr => decide (addr < 128)

end Sys2Proof
end

