-- ==== Sys2Proof/Tests/Slice0.lean ====
section
/-! SUPPORT. Tests. A term that `Instr.wf` refuses for each of its checks; and for every statement about the module a
state and operands that meet the hypotheses of each of its clauses together. The states are small: a module with power good and
what the clause names. The encodings are written out from the tables of the spec. -/

set_option Elab.async false

open Sys2Proof Sys2Proof.Machine

/-! ### States for the tests -/

/-- A module with power good and a store that is mounted and healthy. -/
def testOn : State := ({ mgmt := { powerGood := true }, store := { mounted := true } } : State).setFld rStoHealth 0 0 3 0 1

/-- With partition 0 READY and a job that runs, changed by `f`. -/
def testJob (f : Ptn → Ptn) : State := testOn.upPt 0 fun q => f { q with func := .ready, job := .running }

/-- A tile descriptor: opcode, FUNC, the dimensions with every row and column valid, the slots, and other bits. -/
def testTile (op func d0 d1 d2 : Nat) (slots : List Nat) (more : Nat) : W512 :=
  BitVec.ofNat 512 (op + func * 2 ^ 120 + d0 * (2 ^ 16 + 2 ^ 64) + d1 * (2 ^ 32 + 2 ^ 80) + d2 * (2 ^ 48 + 2 ^ 96) +
    (slots.zip (List.range 4)).foldl (fun t x => t + x.1 * 2 ^ (192 + 80 * x.2)) 0 + more)

/-- A slot: space, format, address and stride. -/
def testSlot (space fmt addr stride : Nat) : Nat := addr + space * 2 ^ 48 + fmt * 2 ^ 50 + stride * 2 ^ 56

/-- The job with that descriptor at the head of core 0, on physical core 0. -/
def testTileJob (w : W512) (f : JobData → JobData) : State :=
  { testJob (fun q => { q with live := f (q.live.upCore 0 fun c => { c with queue := [{ desc := w }] }) }) with
    cmap := { map := [(0, 1)] } }

/-- The head of core 0 executes as `o`, and `f` holds of the state of its issue, its entry and its core. -/
def testRunsAt (s : State) (o : TileOp) (spec : State → TDesc → TileSpec) (f : State → QEntry → Machine.Core → Bool) : Bool :=
  s.mgmt.powerGood && match s.tileGo 0 0 o spec with
    | .runs s1 e c => s1.badInputs 0 0 e.desc.toNat (spec s e.desc.toNat) (s1.walkRoot 0 c) == [] && f s1 e c
    | .over _ => false

/-- `testRunsAt` of what does not look at the core. -/
def testRuns (s : State) (o : TileOp) (spec : State → TDesc → TileSpec) (f : State → QEntry → Bool) : Bool :=
  testRunsAt s o spec fun s e _ => f s e

theorem testRunsAt_executes (s : State) (o : TileOp) (spec : State → TDesc → TileSpec) (f : State → QEntry → Machine.Core → Bool)
    (h : testRunsAt s o spec f = true) : ∃ s1 e c, TileExecutes s 0 0 o spec s1 e c ∧ f s1 e c = true := by
  simp only [testRunsAt, Bool.and_eq_true] at h
  obtain ⟨hp, h⟩ := h
  split at h
  · rename_i s1 e c hg
    simp only [Bool.and_eq_true, beq_iff_eq] at h
    exact ⟨s1, e, c, ⟨hp, hg, h.1⟩, h.2⟩
  · simp at h

/-- The slots that an entry's descriptor uses. -/
def testOpnds (l : List Nat) (_ : State) (e : QEntry) : Bool := l.all fun i => (TDesc.opnd e.desc.toNat 0 i).isSome

/-- A memory with these values, as (address, bytes, value). -/
def testMem (l : List (Nat × Nat × Nat)) : Memory := l.foldl (fun m x => m.wrLe x.1 x.2.1 x.2.2) []

/-- HBM stack 0 is trained with 1,000 frames of capacity. -/
def Sys2Proof.Machine.State.testHbm (s : State) : State := s.setFld rMemHbmH 0 0 23 5 1000

/-- A job in which dispatcher 0 runs its part with state `d`, and core 0 is mapped. -/
def testDisp (d : Disp → Disp) (f : JobData → JobData) : State :=
  { testJob (fun q => { q with live := f (q.live.upDisp 0 fun x => { d x with running := true }) }) with cmap := { map := [(0, 1)] } }

/-- Dispatcher 0 runs. -/
def testHart : State := testDisp id id

/-! ### Well-formed commands, decoding, the step -/

/-- A term that each check of `Instr.wf` refuses: partition, logical core, dispatcher, register, ring, session, group, queue,
port, lane, virtual channel, event queue, processor, event, page, unit, sequence, context, die, phase, engine, link width, and the
forms of a few commands. -/
theorem test_wf_refuses :
    ([.tileComplete 4 0 false, .tileComplete 0 5120 false, .powerGood 64, .tktFaa 0 5120, .coreTktFaa 16 0 0, .coreTktFaa 0 32 0,
      .ecall 16 0 0, .mailboxPost 0 0 ⟨16, []⟩, .barrierArrival 0 8, .jobOpen 0 64 none none ⟨true⟩ ⟨true⟩, .nop 4 0, .put 0 64 0, .packageLost 16,
      .dieFailed 4, .regulatorPhaseFailed 0 64, .evtLclClaim 10, .evtLclComplete 0 4096, .evtQCfgWrite 5 0 0, .evtQCfgWrite 0 128 0,
      .portFailed 25, .laneFailed 0 8, .credit 0 8 0 0, .credit 0 0 2 0, .nak 0 2048, .keyReady 0 8 0, .doorbell 0 0 0 3,
      .dynamicAddressAssignment 128, .thermalTrip 96, .demandFetchDone 0 (2 ^ 30), .seqEditRequest 0 4096 0, .hiveHello 0 0 16 [],
      .rcRegisterRead 5 0 4, .rcRegisterRead 0 (2 ^ 26) 4, .pictureBudgetExpired 0 8 [], .pcieLinkTrained 4 3 false] : List Instr).all (fun i => !i.wf) = true := by
  decide +kernel

/-- Terms at the ends of the ranges are well formed. -/
theorem test_wf_accepts :
    ([.tileComplete 3 5119 true, .powerGood 63, .coreTktFaa 15 31 0, .mailboxPost 0 0 ⟨15, []⟩, .nop 3 63, .regulatorPhaseFailed 3 63,
      .portFailed 24, .rcRegisterRead 25 0 4, .doorbell 0 0 0 8] : List Instr).all Instr.wf = true := by
  decide +kernel

/-- The table gives its rows no bits, so no word spells a command. -/
theorem test_decode_none : decodeTableWord 32 0 = none ∧ decodeTableWord 0 0 = none := by decide

theorem witness_StepRunsFrontCommand :
    ({ testOn with pending := [.nop 0 0] } : State).pending = .nop 0 0 :: [] ∧ testOn.pending = [] := by decide +kernel

theorem witness_PoweredDownModuleKeepsItsState :
    let s : State := { State.reset with pending := [.i3cWake true] }
    s.mgmt.powerGood = false ∧ s.pending.head? = some (.i3cWake true) ∧ ∃ t, step s = .next t := by
  exact ⟨rfl, rfl, _, rfl⟩

/-! ### Tile instructions -/

/-- One FP32 element in core memory in each of `n` slots. -/
def testF32s (n : Nat) : List Nat := (List.range n).map fun i => testSlot 1 0x01 (64 * i) 64

theorem witness_VecElementwiseResults : ([(.convert, 0, [0, 3]), (.add, 1, [0, 1, 3]), (.sub, 2, [0, 1, 3]), (.mul, 3, [0, 1, 3]),
    (.fma, 4, [0, 1, 2, 3]), (.max, 5, [0, 1, 3]), (.min, 6, [0, 1, 3]), (.addS, 7, [0, 3]), (.mulS, 8, [0, 3]),
    (.addRow, 9, [0, 1, 3]), (.mulRow, 10, [0, 1, 3])] : List (VecFn × Nat × List Nat)).all (fun x =>
      testRuns (testTileJob (testTile 0x02 x.2.1 1 1 0 ((testF32s 4).zip (List.range 4) |>.map fun y => if x.2.2.contains y.2 then y.1 else 0)
          (if x.2.1 = 7 ∨ x.2.1 = 8 then 2 ^ 132 else 0))
        (fun j => j.upCore 0 fun c => { c with mboxCount := [(0, 1)] })) (.vec x.1) (vecSpec x.1 0 0) (testOpnds [0, 3])) = true := by
  decide +kernel

theorem witness_VecRowAndIntegerResults :
    ([(.rowSum, 0x10), (.rowMax, 0x11)] : List (VecFn × Nat)).all (fun x =>
      testRuns (testTileJob (testTile 0x02 x.2 1 2 0 [testSlot 1 1 0 64, 0, 0, testSlot 1 1 64 64] 0) id) (.vec x.1) (vecSpec x.1 0 0)
        (testOpnds [0, 3])) = true ∧
    ([(.iadd, 0x20), (.iand, 0x21), (.ior, 0x22), (.ixor, 0x23), (.imax, 0x24), (.imin, 0x25)] : List (VecFn × Nat)).all (fun x =>
      testRuns (testTileJob (testTile 0x02 x.2 1 1 0 [testSlot 1 0x0D 0 64, testSlot 1 0x0D 64 64, 0, testSlot 1 0x0D 128 64] 0) id)
        (.vec x.1) (vecSpec x.1 0 0) (testOpnds [0, 1, 3])) = true := by
  decide +kernel

theorem witness_SpecialFunctionResults :
    ([(.exp, 0), (.exp2, 1), (.ln, 2), (.log2, 3), (.sigmoid, 4), (.tanh, 5), (.erf, 6), (.softplus, 7), (.sqrt, 8), (.rsqrt, 9),
      (.recip, 10), (.silu, 16), (.gelu, 17), (.sin, 18), (.cos, 19)] : List (SfuFn × Nat)).all (fun x =>
      testRuns (testTileJob (testTile 0x03 x.2 1 1 0 (testF32s 2) 0) id) (.sfu x.1) (sfuSpec x.1 0 0) (testOpnds [0, 1])) = true := by
  decide +kernel

theorem witness_RmsNormalisationResults :
    testRuns (testTileJob (testTile 0x04 0 1 2 0 (testF32s 2) 0) id) .rmsnorm (rmsSpec false 0 0) (testOpnds [0, 1]) = true ∧
    testRuns (testTileJob (testTile 0x06 0 1 2 0 (testF32s 2 ++ [0, testSlot 1 0 192 0]) 0)
      (fun j => j.upCore 0 fun c => { c with mem := c.mem.wrLe 196 4 2 })) .rmsApply (rmsSpec true 0 0) (testOpnds [0, 1]) = true ∧
    testRuns (testTileJob (testTile 0x05 1 1 2 0 (testF32s 2) 0) id) .rmsSumsq (sumsqSpec 0 0) (testOpnds [0, 1]) = true := by
  decide +kernel

theorem witness_MatmulResultAndChecksum :
    testRuns (testTileJob (testTile 0x01 0 1 1 2 [testSlot 1 2 0 64, testSlot 1 2 64 64, testSlot 1 1 128 64] (2 ^ 11)) id) .matmul
      (matmulSpec 0 0) (fun s e => testOpnds [0, 1, 2] s e && TDesc.ck e.desc.toNat) = true := by
  decide +kernel

/-- A window block at byte 1,024 of core 0: one output position, one tap, one channel in and out. -/
def testWindow (j : JobData) : JobData :=
  let m := testMem (([0, 2, 4, 6, 8, 10, 0x24, 0x26, 0x28, 0x2C, 0x2E, 0x30, 0x32] : List Nat).map (fun o => (1024 + o, 2, 1)) ++
    ([0x0C, 0x10, 0x14] : List Nat).map fun o => (1024 + o, 3, 0x010101))
  j.upCore 0 fun c => { c with mem := m }

theorem witness_ConvolutionAndPoolingResults :
    testRuns (testTileJob (testTile 0x07 0 0 0 0 [testSlot 1 2 0 64, testSlot 1 2 64 64, testSlot 1 1 128 64, testSlot 1 0 1024 0] 0)
      testWindow) .convDense (convSpec true 0 0) (testOpnds [0, 1, 2]) = true ∧
    testRuns (testTileJob (testTile 0x07 1 0 0 0 [testSlot 1 2 0 64, testSlot 1 2 64 64, testSlot 1 1 128 64, testSlot 1 0 1024 0] 0)
      testWindow) .convDepthwise (convSpec false 0 0) (testOpnds [0, 1, 2]) = true ∧
    testRuns (testTileJob (testTile 0x08 2 1 1 0 (testF32s 2) 0) id) .poolGavg (poolSpec 0 0) (testOpnds [0, 1]) = true := by
  decide +kernel

/-- Sequence 0 with one head of dimension 16 in one layer, and an attention parameter block at byte 4,096 of core 0. -/
def testAttn (bwd : Bool) (j : JobData) : JobData :=
  let g := if bwd then [(4144, 4, 12288), (4148, 4, 12352), (4152, 4, 12416), (448, 4, 2)] else []
  let m := testMem ([(4120, 4, 0x3f800000), (4136, 4, 8192), (4140, 4, 8256)] ++ g)
  let slm := j.slm.wrLe 32 8 (2 ^ 63 + 2 ^ 56 + 16 * 2 ^ 47 + 2 ^ 37 + 2 ^ 27)
  { j.upCore 0 fun c => { c with mem := m } with slm := slm }

/-- The job of `testTileJob` with one sequence. -/
def testSeqJob (w : W512) (f : JobData → JobData) : State :=
  (testTileJob w f).upPt 0 fun q => { q with info := { q.info with seqEntries := 1, scratch := 4096 } }

theorem witness_AttentionRowsExecute :
    testRunsAt (testSeqJob (testTile 0x09 3 1 1 16 [testSlot 1 2 0 64, testSlot 1 1 128 64, testSlot 1 1 256 64, testSlot 1 0 4096 0] 0)
      (testAttn false)) .attnFwd (attnSpec false 0 0) (fun s1 e c =>
        let w : TDesc := e.desc.toNat
        let a := s1.attnPar 0 0 w false
        let g := s1.geom 0 0 a.seq
        let root := s1.walkRoot 0 c
        let t := s1.walked 0 root g a w
        testOpnds [0, 1, 2] s1 e && !TDesc.ck w && TDesc.func w / 4 % 2 == 0 && TDesc.func w % 2 == 1 &&
          !(t.streamKv 0 0 g a w ((t.pt 0).live.leafOf root g a)).2) = true ∧
    testRunsAt (testSeqJob (testTile 0x0A 3 1 1 16 [testSlot 1 2 0 64, testSlot 1 2 128 64, testSlot 1 1 256 64, testSlot 1 0 4096 0] 0)
      (testAttn true)) .attnBwd (attnSpec true 0 0) (fun s1 e c =>
        let w : TDesc := e.desc.toNat
        let a := s1.attnPar 0 0 w true
        let g := s1.geom 0 0 a.seq
        let root := s1.walkRoot 0 c
        let x := s1.walked 0 root g a w
        let t := x.streamKv 0 0 g a w ((x.pt 0).live.leafOf root g a)
        testOpnds [0, 1, 2] s1 e && !TDesc.ck w && !t.2 && (match TDesc.opnd w 0 2 with
          | some st => statWord (t.1.pt 0).live 0 st 3 0 / 2 % 2 == 1
          | none => false)) = true ∧
    testRuns (testTileJob (testTile 0x0B 0 1 0 16 [testSlot 1 1 0 64, testSlot 1 1 256 64, testSlot 1 1 64 64, testSlot 1 1 1024 64] 0)
        fun j => j.upCore 0 fun c => { c with mem := testMem [(448, 4, 2), (1216, 4, 2)] })
      .attnMerge (attnMergeSpec 0 0) (fun s1 e => testOpnds [0, 1, 2, 3] s1 e && [1, 3].all fun i =>
        match TDesc.opnd e.desc.toNat 0 i with
          | some o => statWord (s1.pt 0).live 0 o 3 0 / 2 % 2 == 1
          | none => false) = true := by
  decide +kernel

theorem witness_CodebookTableRows :
    testRuns (testTileJob (testTile 0x0C 1 0 16 0 [testSlot 1 2 0 0] 0) id) .tableLoad (tableLoadSpec 0 0) (testOpnds [0]) = true ∧
    testRuns (testTileJob (testTile 0x0D 1 0 0 0 [] 0) id) .tableSwap (tableSwapSpec 0 0) (testOpnds []) = true ∧
    (let f : Flight := { q := { desc := testTile 0x0D 1 0 0 0 [] 0 }, beat := 0 }
     let s := testTileJob 0 fun j => j.upCore 0 fun c => { c with comp := some f }
     (s.core 0 0).comp = some f ∧ (s.core 0 0).failed ≠ some 1 ∧ f.closes = false ∧ f.walk = none ∧
      TDesc.tileOp f.q.desc.toNat = some .tableSwap) ∧
    testRuns (testTileJob (testTile 0x0E 0 1 2 0 [testSlot 1 0x10 0 64, testSlot 1 1 64 64] 0) id) .tableLookup (tableLookupSpec 0 0)
      (testOpnds [0, 1]) = true := by
  decide +kernel

theorem witness_MoveAndCommitResults :
    testRuns (testTileJob (testTile 0x20 0 1 8 0 [testSlot 1 0 0 8, testSlot 2 0 64 8] 0) id) .move (moveSpec 0 0) (testOpnds [0, 1]) = true ∧
    testRuns (testTileJob (testTile 0x21 0 1 2 0 [testSlot 1 1 0 8, testSlot 1 2 64 8] 0) id) (.commit false) (commitSpec false 0 0)
      (testOpnds [0, 1]) = true ∧
    testRuns (testTileJob (testTile 0x21 1 1 1 0 [testSlot 1 1 0 8, testSlot 2 1 64 8] (3 * 2 ^ 158 + 2 * 2 ^ 160)) id) (.commit true)
      (commitSpec true 0 0) (fun s e => testOpnds [0, 1] s e && TDesc.rndMode e.desc.toNat != .stochastic) = true := by
  decide +kernel

/-- The job of `testTileJob` with a region of four pages, of which page 0 is in HBM, and a post in slot 0. -/
def testDvJob (w : W512) : State :=
  (testTileJob w fun j => (j.upCore 0 fun c => { c with mboxCount := [(0, 1)] }).upPage 0 fun g => { g with state := 1 }).testHbm.upPt 0
    fun q => { q with info := { q.info with regions := [{ base := 0, kind := 1, pages := 4 }] } }

theorem witness_TicketBarrierAndPruneRows :
    ([(1, 2 ^ 133), (1, 0)] : List (Nat × Nat)).all (fun x =>
      testRuns (testTileJob (testTile 0x22 0 x.1 0 0 (if x.2 = 0 then [0, testSlot 2 0 64 8] else []) x.2) id) .tktFaa (tktFaaSpec 0 0)
        (fun s e => e.faa == none && !(s.pt 0).live.tktFails (TDesc.dim e.desc.toNat 1))) = true ∧
    testRuns (testTileJob (testTile 0x23 0 0 0 0 [] 0) fun j => j.upBar 0 fun b => { b with valid := true, parts := 1 }) .barrier
      (barrierSpec 0 0) (fun _ _ => true) = true ∧
    testRuns (testDvJob (testTile 0x24 0 8 0 0 [testSlot 3 1 0 0, testSlot 2 0 64 4, testSlot 2 0 128 0] (2 ^ 132))) .kvPrune
      (kvPruneSpec 0 0) (testOpnds [0, 1, 2]) = true := by
  decide +kernel

theorem witness_TicketFetchAndAdd :
    (Ticket.limit { value := 5, limit := 5 }).toNat ≤ (Ticket.value { value := 5, limit := 5 }).toNat ∧
    (Ticket.value { value := 4, limit := 5 }).toNat < (Ticket.limit { value := 4, limit := 5 }).toNat ∧
    (testHart.mgmt.powerGood = true ∧ testHart.hartReady 0 = true ∧ bits (testHart.disp 0).tktSel.toNat 13 0 / 4096 < testHart.k ∧
      (testHart.pt 0).live.tktFails (bits (testHart.disp 0).tktSel.toNat 13 0) = false) ∧
    testRuns (testTileJob (testTile 0x22 0 1 0 0 [] (2 ^ 133)) id) .tktFaa (tktFaaSpec 0 0) (fun s e => e.faa == none &&
      !(s.pt 0).live.tktFails (TDesc.dim e.desc.toNat 1) && (TDesc.opnd e.desc.toNat 0 1).isNone) = true := by
  decide +kernel

/-- An entry that the tests put in flight. -/
def testFlight : Flight := { q := { desc := testTile 0x0D 1 0 0 0 [] 0 }, beat := 0 }

theorem witness_TileCompletionAndWatch :
    let s := testTileJob 0 fun j => j.upCore 0 fun c =>
      { c with comp := some testFlight, move := some testFlight, copying := true, check := some 0 }
    let t : State := { s with mgmt := { s.mgmt with beat := 4097 } }
    t.mgmt.powerGood = true ∧ (t.core 0 0).comp = some testFlight ∧ (t.core 0 0).move = some testFlight ∧ (t.core 0 0).failed ≠ some 1 ∧
      (t.core 0 0).copying = true ∧ (t.core 0 0).check = some 0 ∧ 0 + 4096 < t.mgmt.beat ∧ (t.core 0 0).stalled = false ∧
      testFlight.beat + 2 < t.mgmt.beat := by
  decide +kernel

/-- A job whose claim record 0 holds `r`. -/
def testClaim (r : Nat) : State := testJob fun q => { q with live := { q.live with slm := testMem [(0, 8, r)] } }

theorem witness_ClaimRecordOperations :
    (∀ n < 4, 0 ∉ ((testClaim n).pt 0).live.slmBad ∧ bits (((testClaim n).pt 0).claimRec 0) 1 0 = n ∧
      bits (((testClaim n).pt 0).claimRec 0) 28 16 = 0) ∧
    ¬ (bits (((testClaim 1).pt 0).claimRec 0) 1 0 = 1 ∧ bits (((testClaim 1).pt 0).claimRec 0) 28 16 = 7) := by
  decide +kernel

/-! ### Dispatchers -/

theorem witness_DispatcherQueueAndMailbox :
    HartRuns testHart 0 ∧ testHart.pushResult 0 0 = 0 ∧ testHart.pushResult 0 (5 * 2 ^ 32) ≠ 0 ∧ testHart.preempted 0 = false ∧
      testHart.mapped 0 0 = true ∧ testHart.mapped 0 5 = false ∧
      (let s := testHart.upPt 0 fun q => { q with cutEarly := true }
       HartRuns s 0 ∧ s.preempted 0 = true) ∧
      (let s := testDisp id fun j => { j with posts := [{ key := 3, src := 8192, word := 7 }] }
       s.mgmt.powerGood = true ∧ s.mapped 0 0 = true ∧ splitPosts (0 * 16 + 3) [0] 0 (s.pt 0).live.posts = ((s.pt 0).live.posts, []) ∧
        splitPosts (0 * 16 + 2) [0] 0 (s.pt 0).live.posts = ([], (s.pt 0).live.posts)) := by
  unfold HartRuns; decide +kernel

theorem witness_CounterAndBarrierWaits :
    HartRuns testHart 0 ∧ ((0#32 : W32) - 0#32).toNat < 2 ^ 31 ∧ 2 ^ 31 ≤ ((0#32 : W32) - 1#32).toNat ∧
      (let s : State := { testDisp (fun d => { d with stall := some (.ccwait 3 0 1 2) }) id with
        timers := [{ kind := .ccwait 0, armed := 0, t := 2, due := true }] }
       s.mgmt.powerGood = true ∧ s.timers[0]? = some { kind := .ccwait 0, armed := 0, t := 2, due := true } ∧
        (s.disp 0).stall = some (.ccwait 3 0 1 2)) ∧
      (let s := testDisp id fun j => j.upBar 0 fun b => { b with valid := true, whole := true, parts := 2 }
       HartRuns s 0 ∧ ((s.pt 0).live.bar 0).hasDisp 0 = true ∧ ((s.pt 0).live.bar 1).hasDisp 0 = false) ∧
      (let s := testDisp id fun j => { j with arrivals := [(0, 0, 0, 0)] }
       s.mgmt.powerGood = true ∧ takeFirst 0 (s.pt 0).live.arrivals = some ((0, 0, 0), [])) ∧
      (let b : Bar := { arrived := [1] }
       0 ∉ b.arrived ∧ 0 ∉ b.next ∧ (0 : W32) = b.gen ∧ (1 : W32) = b.gen + 1 ∧ (2 : W32) ≠ b.gen ∧ (2 : W32) ≠ b.gen + 1) := by
  unfold HartRuns; decide +kernel

theorem witness_TicketAccessAndEcall :
    HartRuns testHart 0 ∧ bits (testHart.disp 0).tktSel.toNat 13 0 / 4096 < testHart.k ∧
      (testHart.pt 0).live.tktFails (bits (testHart.disp 0).tktSel.toNat 13 0) = false ∧ (0 : W64) = 0 ∧ (1 : W64) ≠ 0 := by
  unfold HartRuns; decide +kernel

theorem witness_ScratchpadAtomics :
    HartRuns testHart 0 ∧ 8 + 8 ≤ testHart.scratchSize 0 ∧ 4 + 4 ≤ testHart.scratchSize 0 ∧ 8 % 8 = 0 ∧ 4 % 4 = 0 ∧
      8 / 8 ∉ (testHart.pt 0).live.slmBad ∧ (testHart.disp 0).pmpAllows 0x1000000008 8 .store = true ∧
      (testHart.disp 0).pmpAllows 0x1000000008 8 .load = true ∧
      (let s := testDisp (fun d => { d with resv := some (0x1000000008, 8) }) id
       HartRuns s 0 ∧ (match (s.disp 0).resv with | some (x, _) => x / 64 == 0x1000000008 / 64 | none => false) = true) := by
  unfold HartRuns; decide +kernel

theorem witness_ControlCodeFaults :
    HartRuns testHart 0 ∧ testHart.preempted 0 = false ∧ 0x40000 < 0x40000 + 4 ∧ 0x40000 < 0x1000000000 ∧
      (∀ k ∈ [MemUse.load, .store], (testHart.disp 0).pmpAllows 0x3fffc 4 k = true ∧ (testHart.disp 0).pmpAllows 0x1000000008 8 k = true) ∧
      8 + 8 ≤ testHart.scratchSize 0 ∧ testHart.slmBadAt 0 8 8 = [] ∧
      (let s := testDisp id fun j => { j with slmBad := [1] }
       HartRuns s 0 ∧ s.slmBadAt 0 8 8 = [1] ∧ (s.disp 0).pmpAllows 0x1000000008 8 .load = true) ∧
      bits (testHart.disp 0).tktSel.toNat 13 0 / 4096 < testHart.k ∧ (testHart.pt 0).live.tktBad = [] ∧
      (let s := testDisp (fun d => { d with tktSel := 16383 }) id
       let s := s.setFld rMgtPtnShape 0 0 3 2 2
       HartRuns s 0 ∧ s.k ≤ bits (s.disp 0).tktSel.toNat 13 0 / 4096) ∧
      (∀ w ∈ [(0x952e, true), (0, true), (0x40b505b3, false), (3, false)],
        let s := testDisp (fun d => { d with pc := 0x10000, dlm := testMem [(0x10000, 4, w.1)] }) id
        HartRuns s 0 ∧ (s.disp 0).pmpAllows 0x10000 2 .fetch = true ∧ (s.disp 0).pmpAllows 0x10002 2 .fetch = true ∧
          ((s.disp 0).dlm.rdLe 0x10000 2 % 4 ≠ 3 ↔ w.2 = true)) ∧
      Tbl.ok 0 (testHart.disp 0).x = true ∧ Rv.decode16 0x952e = some (.alu .add false 10 10 (.reg 11)) ∧ Rv.decode16 0 = none ∧
      Rv.decode32 0x40b505b3 = some (.alu .sub false 11 10 (.reg 11)) ∧ Rv.decode32 3 = some (.load 0 0 0 1 true) ∧ Rv.decode32 7 = none ∧
      testHart.mgmt.powerGood = true ∧ testHart.present (testHart.dispPos 0).1 = true ∧
      (testHart.pt (testHart.dispPos 0).1).job ≠ .noJob := by
  unfold HartRuns; decide +kernel

/-! ### Tiers, sequences and steps -/

/-- A job with a tier request queue of 16 entries at scratchpad byte 0, holding entry `e`, and page 0 as `g`. -/
def testTrq (e : Nat) (g : Page) : State :=
  (testJob fun q => { q with
    info := { q.info with trqEntries := 16, regions := [{ base := 0, kind := 1, pages := 4 }] },
    live := { q.live with slm := testMem [(0, 8, 1), (64, 8, e)], pages := [(0, g)] } }).testHbm

theorem witness_TierRequestsAndPages :
    (testTrq 0 {}).mgmt.powerGood = true ∧ ((testTrq 0 {}).pt 0).job ≠ .noJob ∧
      ((testTrq 0 {}).pt 0).trqReady = true ∧ (testTrq 0 {}).awake 0 = true ∧ ((testTrq 0 {}).pt 0).entryBad ((testTrq 0 {}).pt 0).trqEntry = true ∧
      (∀ k ∈ [1, 2, 3], let s := testTrq (2 ^ 48 + k) { state := 1 }
        (s.pt 0).trqReady = true ∧ (s.pt 0).entryBad (s.pt 0).trqEntry = false ∧ bits (s.pt 0).trqEntry 3 0 = k) ∧
      (let s := testTrq 0 { state := 4, got := 262144 }
       (s.page 0 0).state = 4 ∧ (s.page 0 0).capWrite = false ∧ (s.page 0 0).got = 262144 ∧ (s.page 0 0).drop = false ∧ (s.page 0 0).lost = false ∧ s.fld rStoHealth 0 0 3 0 ≠ 5 ∧
        (s.pt 0).dispatches = true ∧ (s.pt 0).fetchNext 0 = true ∧ s.imgReadable (s.page 0 0).img = true) ∧
      (let s := testTrq 0 { state := 1, move := true }
       (s.page 0 0).move = true ∧ (s.page 0 0).framed = true ∧ (s.page 0 0).pins = 0 ∧ (s.page 0 0).opins = 0 ∧
        (s.page 0 0).cow = false ∧ (s.page 0 0).drop = false ∧ (s.pt 0).dispatches = true ∧ s.badOf 0 0 = [] ∧
        0 < s.stackFree 0 (0 % (3 * s.k)) ∧ Tbl.get 0 (s.pt 0).moved (0 % (3 * s.k) / 3) = 0 ∧
        (s.store.writes.any fun w => w.p == 0 && w.n == 0 && !w.snap) = false) ∧
      (let s := testTrq 0 { state := 1, move := true, bad := [3] }
       (s.page 0 0).move = true ∧ (s.page 0 0).framed = true ∧ s.badOf 0 0 = [3]) ∧
      (let s := (testTrq 0 {}).upPt 0 fun q => { q with trqTaken := 64 }
       64 ≤ (s.pt 0).trqTaken) ∧
      ((testTrq 0 { state := 4 }).page 0 0).got < 262144 ∧
      (let s := (testTrq 0 { state := 4 }).upPt 0 fun q => { q with fetchQ := [(0, 1), (1, 0)], live := q.live.upPage 1 fun g => { g with state := 4 } }
       ((s.pt 0).fetchQ.any fun x => x.2 == 0) = true ∧ (s.pt 0).fetchNext 0 = false) ∧
      (let s := testTrq 0 { state := 1, capWait := true }
       (s.page 0 0).capWait = true ∧ (s.page 0 0).wpins = 0 ∧ (s.page 0 0).capped = false ∧ (s.page 0 0).state ≠ 0) := by
  decide +kernel

/-- A job with one sequence and an edit of it under way. -/
def testEdit (e : Option Edit) : State := testJob fun q => { q with
  info := { q.info with seqEntries := 1, scratch := 4096, seqBase := 0, regions := [{ base := 0, kind := 1, pages := 4 }] },
  live := { q.live with seqs := [(0, { edit := e })] } }

theorem witness_SequenceEditRows :
    (testEdit none).mgmt.powerGood = true ∧ ((testEdit none).pt 0).job ≠ .noJob ∧ 0 < ((testEdit none).pt 0).info.seqEntries ∧
      (4 : W64).toNat % 2 = 0 ∧ (1 : W64).toNat % 2 = 1 ∧
      ((((testEdit none).setSlm64 0 (((testEdit none).pt 0).seqOff 0 + 16) 1).seqOf 0 0).edit = none) ∧
      ((((testEdit (some {})).setSlm64 0 (((testEdit (some {})).pt 0).seqOff 0 + 16) 1).seqOf 0 0).edit.isSome = true) ∧
      (let e : Edit := { word := 1 }
       ((testEdit (some e)).seqOf 0 0).edit = some e ∧ e.valid = false ∧ bits e.word.toNat 63 48 = 0 ∧ bits e.word.toNat 11 1 = 0 ∧
        ((testEdit (some e)).pt 0).validate (bits e.word.toNat 47 12) = .ok [(0, 0)]) ∧
      (let e : Edit := { word := 3 }
       ((testEdit (some e)).seqOf 0 0).edit = some e ∧ e.valid = false ∧ bits e.word.toNat 11 1 ≠ 0) := by
  decide +kernel

/-- A descriptor of ring 0, with these words. -/
def testDesc (ws : List W64) : ADesc := { words := ws, ready := 1 }

/-- A job with that descriptor at the head of ring 0. -/
def testRing (d : ADesc) (f : Ptn → Ptn) : State := testJob fun q => f { q with descs := [d] }

theorem witness_StepOpensAndEnters :
    (let d := testDesc [0, 2, 0, 0, 0, 0, 0, 0]
     let s := testRing d fun q => { q with info := { q.info with entries := [0], scratch := 4096 } }
     s.mgmt.powerGood = true ∧ s.starts 0 0 2 d ∧ (s.pt 0).job = .running ∧ (s.pt 0).step = none ∧ d.ready ≠ 0 ∧
      (∀ x ∈ (s.pt 0).descs, x.done = true ∨ x.ready = 0 ∨ x.start.isSome = true ∨ d.ready ≤ x.ready) ∧
      bits (d.w 2) 15 0 < (s.pt 0).info.entries.length ∧ bits (d.w 5) 63 32 + 16 * bits (d.w 5) 12 0 ≤ s.scratchSize 0 ∧
      bits (d.w 5) 12 0 = 0) ∧
    (let d := testDesc [0, 2, 0, 0, 0, 1, 0, 0]
     let s := testRing d fun q => { q with info := { q.info with entries := [0], scratch := 4096 } }
     s.starts 0 0 2 d ∧ bits (d.w 5) 63 32 + 16 * bits (d.w 5) 12 0 ≤ s.scratchSize 0 ∧
      ([65536, 0] : List W64).length = 2 * bits (d.w 5) 12 0 ∧ ([65536, 0] : List W64) ≠ []) ∧
    (let t : StepSt := { start := 0, count := 1, manifest := [65536, 0] }
     let s : State := { testJob fun q => { q with step := some t } with mgmt := { powerGood := true, beat := 1 } }
     s.mgmt.powerGood = true ∧ (s.pt 0).step = some t ∧ t.opened = none ∧ t.start < s.mgmt.beat ∧ (s.pt 0).job = .running ∧
      (s.pt 0).paused = none ∧ (s.pt 0).col.cutAfter = none) ∧
    (let t : StepSt := { start := 0, opened := some 1 }
     let s : State := testJob fun q => { q with step := some t }
     (s.pt 0).step = some t ∧ t.resv = false ∧ t.entered = false ∧ (s.pt 0).paused = none ∧ (s.pt 0).job = .running) ∧
    (let t : StepSt := { start := 0, count := 1, manifest := [65536, 0], opened := some 1, resv := true, statuses := [0] }
     let s : State := { testJob fun q => { q with step := some t } with mgmt := { powerGood := true, beat := 6 } }
     let v : StepSt := { t with opened := some 5 }
     let s5 := s.upPt 0 fun q => { q with step := some v, descs := [{ words := [0, 0, 0, 0, 0, 0, 0, 0], outcomes := some [0] }] }
     let es := (manEntries [65536, 4294967296]).zip [0xffff]
     (s.pt 0).step = some t ∧ 5 ≤ s.since 1 ∧ (s.pt 0).paused = none ∧ (s.pt 0).job = .running ∧ t.entered = false ∧
      (((s.pt 0).findDesc t.sq t.seq).bind fun d => d.outcomes) = none ∧ (s5.pt 0).step = some v ∧ s5.since 5 < 5 ∧
      (s.reserve 0 (t.frames.getD (s.freeFrames 0)) (some [0]) 0 ((manEntries t.manifest).zip t.statuses)).isSome = true ∧
      (s.reserve 0 0 (some [0]) 0 es).isNone = true ∧ ¬ (s.canCharge 0 1 = true ∧ 1 ≤ 0 ∧ 1 ≤ s.freeFrames 0)) := by
  unfold State.starts; decide +kernel

/-! ### Registers of the management function -/

theorem witness_LoggedRegisterWrites :
    let w6 : Nat := (List.range 6).foldl (fun t i => t + (if i = 0 then 14 else 10) * 2 ^ (7 * i)) 0
    let s : State := { testOn with mgmt := { testOn.mgmt with members := 3 } }
    let z : State := s.upPt 0 fun q => { q with func := .ready }
    z.mgmt.powerGood = true ∧ 0 < z.parts ∧ 0 < 4 ∧
      (bits 0 31 0 ≤ bits 0 63 32 ∧ (z.wr rMemPoolPtn 0 0 0).poolSum 0 0 ≤ z.fld rMemPoolSize 0 0 31 0) ∧
      (z.fld rMemSlmSplitPtn 0 0 15 15 = 0 ∧ bits 0x444 11 8 + bits 0x444 7 4 + bits 0x444 3 0 = 12 ∧ (z.pt 0).job = .noJob ∧
        ∀ e ∈ (z.pt 0).live.codec, e.2.state ≠ 1) ∧
      (z.fld rMgtReset 0 0 15 15 = 0 ∧ bits 1 3 0 ≠ 0 ∧ (∀ q < 4, bits (bits 1 3 0) q q = 1 → z.present q = true) ∧ z.shapeBusy = false) ∧
      bits 1 1 0 ≠ 3 ∧
      (let x := 1400 + 1400 * 65536 + 1400 * 2 ^ 32
       1400 ≤ bits x 15 0 ∧ bits x 15 0 ≤ bits x 31 16 ∧ bits x 31 16 ≤ bits x 47 32 ∧ bits x 15 0 ≤ 2800 ∧ bits x 31 16 ≤ 3300 ∧
        bits x 47 32 ≤ 3600) ∧
      (2400 ≤ bits 2400 15 0 ∧ bits 2400 15 0 ≤ 3600 ∧ bits 2400 15 0 % 25 = 0) ∧
      (bits 1 0 0 = 1 ∧ z.l4Held = false) ∧ sum6 w6 = 64 ∧ z.shareOver 0 0 = false ∧ z.standsFor 23 = 31 ∧ z.standsFor 24 = 31 ∧
      (let x := 1 + 1 * 2 ^ 36 + 2 * 2 ^ 31
       let new := setBits (setBits (z.rd rMemBuddyPtn 0 0) 47 31 (bits x 47 31)) 0 0 x
       bits (z.rd rMemBuddyPtn 0 0) 0 0 = 0 ∧ (bits x 0 0 = 1 → z.otherMember (bits new 47 36) = true ∧ 2 ≤ bits new 33 31)) ∧
      z.fld rMgtSb3 0 0 1 0 = 0 := by
  decide +kernel

theorem witness_PowerLimitsWrite :
    testOn.mgmt.powerGood = true ∧ testOn.store.mounted = true ∧ testOn.fld rStoHealth 0 0 3 0 ≠ 5 ∧
      (let v := 2800 + 3300 * 65536 + 3600 * 2 ^ 32
       1400 ≤ bits v 15 0 ∧ bits v 15 0 ≤ bits v 31 16 ∧ bits v 31 16 ≤ bits v 47 32 ∧ bits v 15 0 ≤ 2800 ∧ bits v 31 16 ≤ 3300 ∧
        bits v 47 32 ≤ 3600) ∧
      ¬ (1400 ≤ bits (1399 + 1399 * 65536 + 1399 * 2 ^ 32) 15 0) := by
  decide +kernel

/-! ### Cuts, the store and the memories -/

theorem witness_CutCourse :
    (let s : State := { testJob fun q => { q with paused := some 0, cutMark := some (0, 0, []), cutPhase := .saving } with
       mgmt := { powerGood := true, beat := 2 } }
     s.mgmt.powerGood = true ∧ (s.pt 0).cutMark = some (0, 0, []) ∧ (s.pt 0).paused.isSome = true ∧ (s.pt 0).cutPhase = .saving ∧ 0 + 2 ≤ s.mgmt.beat ∧ (s.pt 0).drained = true ∧ (s.pt 0).enginesStopped = true) ∧
    (let s := testJob fun q => { q with pend := some {}, cutPhase := .flushing }
     (s.pt 0).cutPhase = .flushing ∧ (s.pt 0).cutSent = false ∧ s.flushOver 0 = true ∧ s.storeWritable = true) ∧
    (∀ first : Bool, let s := testJob fun q => { q with pend := some {}, cutPhase := .flushing, cutInit := first, cutSent := true }
     s.mgmt.powerGood = true ∧ (s.pt 0).pend = some {} ∧ (s.pt 0).cutPhase = .flushing ∧ (s.pt 0).cutSent = true ∧
      s.store.records.contains (.cut 0) = false ∧ s.storeWritable = true) ∧
    ({ testOn with store := { testOn.store with records := [.cut 0] } } : State).store.records.contains (.cut 0) = true ∧
    (let s := testJob fun q => { q with col := { q.col with cutAfter := some 0, judged := 1 } }
     s.mgmt.powerGood = true ∧ (s.pt 0).col.cutAfter = some 0 ∧ (s.pt 0).col.judged ≠ s.mgmt.beat ∧ (s.pt 0).job = .running ∧ (s.pt 0).paused = none ∧ (s.pt 0).func = .ready ∧
      (s.pt 0).step = none ∧ 0 ≤ (s.pt 0).stepNo ∧ s.cutOpen 0 = false ∧ (s.pt 0).newestCut ≤ (s.pt 0).groupG ∧
      s.queuesDrained 0 = true) := by
  decide +kernel

theorem witness_StoreWriteRows :
    let w : SWrite := { left := 0, img := some 1 }
    let s : State := { testOn with
      mgmt := { powerGood := true, beat := 3 }
      store := { testOn.store with writes := [w], nand := { imgs := [(1, {})], stripes := [(0, {})] }, stripeBeat := 0, records := [.bringup] } }
    let t : State := { s with store := { s.store with records := [.accept 0 0] } }
    let v : State := { t.setFld rMemBuddyPtn 0 0 2 1 1 with store := { t.store with mirrorWait := [.accept 0 0] } }
    let u : State := { (testJob fun q => { q with live := q.live.upPage 0 fun g => { g with cow := true, bad := [0] } }).setFld rMemBuddyPtn 0 0 2 1 1 with
      store := { testOn.store with writes := [w] } }
    s.mgmt.powerGood = true ∧ (s.store.writes.find? fun x => x.p == 0 && x.n == 0 && s.writeDone x) = some w ∧ s.storeWritable = true ∧
      s.store.nand.openStripe = some (0, {}) ∧ 2 < s.since s.store.stripeBeat ∧ s.canLog = true ∧ s.store.records = .bringup :: [] ∧
      s.store.buffered + 64 ≤ 134217728 ∧ (∀ q m, JRec.bringup ≠ .accept q m) ∧ (∀ q, JRec.bringup ≠ .completion q) ∧ t.canLog = true ∧ t.store.records = .accept 0 0 :: [] ∧
      s.buddyHas .bringup = true ∧ t.buddyHas (.accept 0 0) = true ∧ s.buddyHas (.completion 0) = true ∧
      v.canLog = true ∧ v.store.records = .accept 0 0 :: [] ∧ v.buddyHas (.accept 0 0) = false ∧
      s.mirrorBad w = [] ∧ u.mirrorBad w = 0 :: [] ∧
      (u.store.writes.find? fun x => x.p == 0 && x.n == 0 && u.writeDone x) = some w ∧ u.storeWritable = true := by
  refine ⟨rfl, by decide +kernel, by decide +kernel, by decide +kernel, by decide +kernel, by decide +kernel, rfl, by decide, nofun, nofun, ?_⟩
  decide +kernel

/-- Zero bytes. -/
def testZeros (n : Nat) : Bytes := List.replicate n 0#8

theorem testZeros_length (n : Nat) : (testZeros n).length = n := List.length_replicate ..

/-- A codeword of zeros, with these first metadata bytes. -/
def testCodeword (m : W32) : Bytes := codeword (testZeros 4096) (leBytes 4 m.toNat ++ testZeros 28)

theorem testInfo_length (m : W32) : (leBytes 4 m.toNat ++ testZeros 28).length = 32 := by
  rw [List.length_append, testZeros_length]; rfl

theorem testCodeword_length (h : ∀ b, (Config.ldpcParity b).length = 420) (m : W32) : (testCodeword m).length = 4548 := by
  rw [testCodeword, codeword, List.length_append, List.length_append, h, testInfo_length, testZeros_length]

theorem testCodeword_data (m : W32) : (testCodeword m).take 4096 = testZeros 4096 := by
  rw [testCodeword, codeword, List.append_assoc, List.take_left' (testZeros_length _)]

theorem testCodeword_info (m : W32) : ((testCodeword m).drop 4096).take 32 = leBytes 4 m.toNat ++ testZeros 28 := by
  rw [testCodeword, codeword, List.append_assoc, List.drop_left' (testZeros_length _), List.take_left' (testInfo_length m)]

theorem testCodeword_meta (m : W32) : ((testCodeword m).drop 4096).take 4 = leBytes 4 m.toNat := by
  rw [testCodeword, codeword, List.append_assoc, List.drop_left' (testZeros_length _), List.append_assoc, List.take_left' (show (leBytes 4 m.toNat).length = 4 from rfl)]

theorem isCodeword_testCodeword (h : ∀ b, (Config.ldpcParity b).length = 420) (m : W32) : isCodeword (testCodeword m) = true := by
  rw [isCodeword, testCodeword_length h, testCodeword_data, testCodeword_info, ← testCodeword, beq_self_eq_true, beq_self_eq_true]
  rfl

/-- Four codewords, the first with these metadata bytes. -/
def testWords (m : W32) : List Bytes := [testCodeword m, testCodeword 0#32, testCodeword 0#32, testCodeword 0#32]

theorem decodes_testWords (h : ∀ b, (Config.ldpcParity b).length = 420) : decodes none (.words (testWords 0#32) 0) = true := by
  simp only [decodes, testWords, List.all_cons, isCodeword_testCodeword h]
  rfl

/-- A unit read that decodes at the step `k` of the ladder. -/
def testRead (k : Nat) : UnitReads :=
  let w := Decoded.words (testWords 0#32) 0
  { hard := if k = 1 then w else .fails, sets := if k = 2 then [w] else [], soft := if k = 3 then w else .fails }

theorem stepOf_testRead (h : ∀ b, (Config.ldpcParity b).length = 420) :
    ∀ k < 4, (stepOf (testRead k) none 0).1 = k := by
  have w := decodes_testWords h
  have f : decodes none .fails = false := rfl
  intro k hk
  match k, hk with
  | 0, _ => rfl
  | 1, _ => simp [stepOf, testRead, w]
  | 2, _ => simp [stepOf, testRead, w, f, List.range, List.range.loop]
  | 3, _ => simp [stepOf, testRead, w, f, List.range, List.range.loop]

/-- A module whose page 0 has an image of which unit 0 lies in a stripe of padding. -/
def testStored : State :=
  { (testJob fun q => { q with live := q.live.upPage 0 fun g => { g with img := 1 } }) with
    store := { testOn.store with nand := { imgs := [(1, { units := [(0, 0)] })], stripes := [(0, { closed := true })] } } }

/-- With codewords of 4,548 bytes: the parity bytes are a free value (R290). -/
theorem witness_StoreReadLadder (h : ∀ b, (Config.ldpcParity b).length = 420) :
    let s := testStored
    let t : Stripe := { closed := true }
    let id := s.store.nand.unitId t 0
    s.mgmt.powerGood = true ∧ 0 < 16 ∧ s.present 0 = true ∧ s.store.mounted = true ∧
      (Tbl.get {} s.store.nand.imgs (s.page 0 0).img).units[0]? = some (0, 0) ∧ Tbl.find s.store.nand.stripes 0 = some t ∧
      s.lostPkgs.contains (t.pkgOf 0 0) = false ∧ (s.store.nand.block (t.pkgOf 0 0) t.blk).thresholds = 0 ∧
      (∀ k < 4, (stepOf (testRead k) id 0).1 = k) ∧
      s.store.rebuild = [] ∧ (∀ j, s.store.nand.unitId t j = none) ∧ (∀ f, (stepOf (testRead 1) none f).1 = 1) ∧
      (let c := unitCrc ((testWords 0#32).flatMap fun c => c.take 4096) 0 0 0
       decodes (some (0, 0, 0)) (.words (testWords c) 0) = true) := by
  refine ⟨rfl, by decide, by decide +kernel, rfl, rfl, rfl, by decide +kernel, by decide +kernel, stepOf_testRead h, rfl, fun _ => rfl, ?_, ?_⟩
  · intro f
    simp [stepOf, testRead, decodes_testWords h]
  · intro c
    have d : ∀ m, (testWords m).flatMap (fun c => c.take 4096) = (testWords 0#32).flatMap fun c => c.take 4096 := by
      intro m; simp only [testWords, List.flatMap_cons, testCodeword_data]
    have a : (testWords c).all isCodeword = true := by
      simp only [testWords, List.all_cons, isCodeword_testCodeword h]; rfl
    have e : leNat ((((testWords c).headD []).drop 4096).take 4) = c.toNat := by
      rw [testWords, List.headD_cons, testCodeword_meta, leNat_leBytes]; exact Nat.mod_eq_of_lt c.isLt
    have l : (testWords c).length = 4 := rfl
    generalize hc : testWords c = x at a e l
    have b : (unitCrc (x.flatMap fun c => c.take 4096) 0 0 0).toNat = c.toNat := by rw [← hc, d c]
    simp only [decodes, l, a, e, b, beq_self_eq_true, Bool.and_self]

theorem witness_StoreHealthRows :
    let s : State := { testOn with mgmt := { testOn.mgmt with beat := 2 ^ 20 },
                                   store := { testOn.store with rebuild := [0] } }.wr rStoHoldup 0 0 3
    s.mgmt.powerGood = true ∧ s.store.mounted = true ∧ s.fld rStoHealth 0 0 (40 + 15) (40 + 15) ≠ 1 ∧ s.store.rebuild ≠ [] ∧
      s.fld rStoHealth 0 0 3 0 ≠ 5 ∧ s.rebuildWork = [] ∧ s.store.nand.reloc = [] ∧ s.fld rStoHoldup 0 0 1 0 ≠ 0 ∧
      (if s.fld rStoHoldup 0 0 1 0 = 3 then 1 else 256) * 2 ^ 20 ≤ s.since s.store.heldUp := by
  decide +kernel

/-- A job with four pages of a read-write region, page 0 in HBM, its host window open on them. -/
def testWin : State :=
  (((testJob fun q => { q with
    info := { q.info with regions := [{ base := 0, kind := 1, pages := 4 }] },
    live := { q.live with pages := [(0, { state := 1 }), (1, { state := 2 })] } }).testHbm).setFld rPtnHostwin 1 0 0 0 1)

theorem witness_SharedMemoryRows :
    testWin.mgmt.powerGood = true ∧ DType.fp32 ≠ DType.fp64 ∧ (testWin.pt 0).inRange [(0, 64)] = true ∧
      testWin.residOf 0 (pageOf 0) true = .pin ∧
      (let s := testWin.upPt 0 fun q => { q with splitNew := some 0x444 }
       (s.pt 0).splitNew = some 0x444) ∧
      (testWin.awake 0 = true ∧ testWin.funcState 0 = .ready ∧ testWin.tdiOpen 1 = true ∧ testWin.fld rPtnHostwin 1 0 0 0 = 1 ∧
        (testWin.pt 0).job ≠ .noJob ∧ (testWin.pt 0).job ≠ .opening ∧ testWin.fld rPtnHostwin 1 0 47 30 = 0) ∧
      (∀ a ∈ [0, 262144], (testWin.pt 0).inRange [(a, 8)] = true ∧
        ∀ n ∈ pagesOf [(a, 8)], ((testWin.pt 0).kind n = 1 ∨ (testWin.pt 0).kind n = 3) ∧ (testWin.pt 0).pageBound n = false) ∧
      262144 + 8 ≤ testWin.barSize 1 4 ∧ (testWin.upPage 0 0 fun g => { g with bad := [0] }).dvBadIn 0 [(0, 8)] = [0] ∧
      testWin.winStop 0 false (pagesOf [(262144, 8)]) = some 1 ∧ testWin.winStop 0 false (pagesOf [(0, 8)]) = none ∧
      testWin.winStop 0 true (pagesOf [(0, 8)]) = none ∧ testWin.dvBadIn 0 [(0, 8)] = [] := by
  decide +kernel

/-! ### Attestation, isolation and security operations -/

/-- A module whose SPDM connection has come to `stage`, with the session `x` open. -/
def testSpdm (stage : Nat) (x : Tbl (Bool × Nat)) : State :=
  { testOn with sec := { testOn.sec with hasAlias := true, spdm := { stage := stage, sessions := x } } }

theorem witness_SpdmResponses :
    (testSpdm 3 []).mgmt.powerGood = true ∧ 1 ≤ (testSpdm 1 []).sec.spdm.stage ∧ 2 ≤ (testSpdm 2 []).sec.spdm.stage ∧
      (testSpdm 2 []).sec.spdm.stage < 3 ∧ (testSpdm 3 []).sec.spdm.stage = 3 ∧ (testSpdm 3 []).sec.hasAlias = true ∧
      0 ≤ (testSpdm 3 []).chain.length ∧ ((testSpdm 3 []).measure 19).isSome = true ∧ (testSpdm 3 []).freeSession = some 0 ∧
      (List.replicate 384 0#8).length = 384 ∧
      Tbl.find (testSpdm 3 [(5, (false, 0))]).sec.spdm.sessions 5 = some (false, 0) ∧
      Tbl.find (testSpdm 3 [(5, (true, 0))]).sec.spdm.sessions 5 = some (true, 0) ∧ ([] : Bytes).length ≤ 16384 ∧
      16384 < (List.replicate 16385 0 : Bytes).length := by
  refine ⟨rfl, by decide, by decide, by decide, rfl, rfl, Nat.zero_le _, ?_⟩
  decide +kernel

/-- A finished session 5, stream 1 Secure with keys in both sub-streams, and function 1's TDI as `t`. -/
def testTdi (t : Tdi) : State :=
  let s := testSpdm 3 [(5, (true, 0))]
  { s with sec := { s.sec with ide := [(1, { secure := true, keys := [(0, 1), (2, 1)], regs := [(16, 257)] })], tdi := [(1, t)] } }

theorem witness_IdeAndTdispResponses :
    (testTdi {}).mgmt.powerGood = true ∧ Tbl.find (testTdi {}).sec.spdm.sessions 5 = some (true, 0) ∧ (testTdi {}).canLog = true ∧
      (Tbl.find ((testTdi {}).ide 1).keys (1 * 2 + 0)).isSome = true ∧
      (((testTdi {}).tdi 1).state = 0 ∧ (testTdi {}).present 0 = true ∧ ((testTdi {}).ide 1).secure = true ∧ ideFunction ((testTdi {}).ide 1) = some 1 ∧
       ideFunction ((testTdi {}).ide 2) ≠ some 1) ∧
      (let s := testTdi { state := 1, stream := 1, nonce := 9 }
       (s.tdi 1).state = 1 ∧ 0 ≤ (s.report 1).length ∧ (9 : BitVec 256).toNat = (s.tdi 1).nonce ∧
        ∀ y < 2, (s.ide (s.tdi 1).stream).keys.any (fun z => z.1 / 2 == y) = true) ∧
      ((testTdi { state := 2, stream := 1 }).tdi 1).state = 2 := by
  decide +kernel

/-- A package or image: a body, and its envelope of class `cls` and version `svn` (R493). -/
def testImage (cls svn : Nat) (body : Bytes) : Bytes :=
  body ++ leBytes 4 0x53475947 ++ leBytes 2 cls ++ leBytes 2 svn ++ leBytes 8 body.length ++ sha256 body ++ List.replicate 976 0#8

/-- The state in which a SEC_OP word is judged: `s` with its fields in the register. -/
def testSecOp (s : State) (x : Nat) : State :=
  ((s.setFld rSecOp 0 0 39 32 (bits x 39 32)).setFld rSecOp 0 0 31 8 (bits x 31 8)).setFld rSecOp 0 0 3 0 (bits x 3 0)

theorem testImage_envelope (k : Nat → Bool) (h : k (beNat (sha256 (List.replicate 384 0#8))) = true) :
    envelopeOk (testImage 1 0 []) 1 true k = true := by
  have e : beNat (sha256 (((envOf (testImage 1 0 [])).drop 0x30).take 384)) = beNat (sha256 (List.replicate 384 0#8)) := by
    decide +kernel
  unfold envelopeOk
  simp only [e, h]
  decide +kernel

/-- With a firmware key whose hash is fused and a blob that unwraps: both are free values (R493, R516). -/
theorem witness_SecurityOperations (key : Config.ruiloKey 0 = beNat (sha256 (List.replicate 384 0#8))) (blob : Bytes)
    (unwrapped : Config.unwrapJobKey blob = some (List.replicate 32 0#8 ++ [1#8, 15#8] ++ List.replicate 14 0#8)) (hb : blob.length = 384) :
    testOn.mgmt.powerGood = true ∧
      (let x := 1 + 1 * 2 ^ 8 + 1 * 2 ^ 32
       let s := testSecOp testOn x
       s.canLog = true ∧ bits x 3 0 = 1 ∧ bits x 39 32 = 1 ∧ (testImage 1 0 []).length = bits x 31 8 * 1024 ∧
        envelopeOk (testImage 1 0 []) 1 true s.firmwareKey = true ∧ s.svn 1 ≤ envSvn (testImage 1 0 [])) ∧
      (let x := 2 + 1 * 2 ^ 32
       bits x 3 0 = 2 ∧ bits x 39 32 = 1 ∧ ((testSecOp testOn x).fw 1).newer = true) ∧
      (let kb := List.replicate 32 0#8 ++ [1#8, 15#8] ++ List.replicate 14 0#8
       Config.unwrapJobKey blob = some kb ∧ blob.length = 384 ∧ kb.length = 48 ∧ 1 ≤ bfld kb 32 1 ∧ bfld kb 32 1 ≤ 63 ∧
        leNat (kb.drop 34) = 0 ∧ (testSecOp testOn 3).handleUsed (bfld kb 32 1) = false ∧ bits 3 3 0 = 3) ∧
      (bits (4 + 2 ^ 32) 3 0 = 4 ∧ bits (4 + 2 ^ 32) 39 32 = 1 ∧ (testSecOp testOn (4 + 2 ^ 32)).handleUsed 1 = false) ∧
      (bits 5 3 0 = 5 ∧ bits 5 39 32 ≤ 7 ∧ bits 6 3 0 = 6 ∧ bits 6 39 32 ≤ 7) ∧
      (let x := 7 + 1 * 2 ^ 8
       let s := testSecOp (testOn.logChange 0x408 0 0 1) x
       bits x 3 0 = 7 ∧ bits x 31 8 = 1 ∧ s.rd rSecOpArg2 0 0 + bits x 31 8 ≤ s.log.count ∧
        s.log.count ≤ s.rd rSecOpArg2 0 0 + s.log.entries.length) := by
  refine ⟨rfl, ⟨by decide +kernel, by decide, by decide, by decide +kernel, testImage_envelope _ ?_, by decide +kernel⟩,
    by decide +kernel, ⟨unwrapped, hb, by decide +kernel⟩, by decide +kernel, by decide +kernel, by decide +kernel⟩
  have f : (testSecOp testOn (1 + 1 * 2 ^ 8 + 1 * 2 ^ 32)).fld rSecStatus 0 0 (12 + 0) (12 + 0) = 0 := by decide +kernel
  simp only [State.firmwareKey, List.any_cons, key, f, beq_self_eq_true, Bool.and_self, Bool.true_or]

/-- A module in which port 0 authenticates, with the peer's part as `a`. -/
def testAuth (a : LinkAuth) : State :=
  let s := testOn.setFld rLnkPStatus 0 0 2 0 PS.authenticating
  { s with sec := { s.sec with hasAlias := true, auth := [(0, a)] } }

theorem witness_LinkAuthentication :
    (testAuth {}).mgmt.powerGood = true ∧ (testAuth {}).pstate 0 = PS.authenticating ∧
      (let x : LinkAuth := { stage := 1, len := 4 }
       (testAuth x).pstate 0 = PS.authenticating ∧ ((testAuth x).lauth 0).stage = 1 ∧ 0 * 256 = ((testAuth x).lauth 0).chain.length ∧
        ((testAuth x).lauth 0).chain.length + [1#8].length ≤ ((testAuth x).lauth 0).len ∧
        ((testAuth x).lauth 0).chain.length ≠ ((testAuth x).lauth 0).len) ∧
      (let x : LinkAuth := { stage := 1, hash := beNat (sha256 []) }
       let y := (testAuth x).lauth 0
       y.stage = 1 ∧ y.chain.length = y.len ∧ beNat (sha256 y.chain) = y.hash ∧ (List.replicate 384 0#8).length = 384 ∧
        (∀ c ∈ [1, 2, 3, 4, 5], (testAuth x).svn c ≤ bits (0 : W64).toNat (8 * c + 7) (8 * c)) ∧ (testAuth x).sec.hasAlias = true) ∧
      (let x : LinkAuth := { stage := 2 }
       ((testAuth x).lauth 0).stage = 2) := by
  refine ⟨rfl, ?_, ?_, ?_, ?_⟩ <;> decide +kernel

/-! ### Power-good, resets and the partition shape -/

theorem witness_FallOfPowerGood :
    let s : State := { testOn with mgmt := { powerGood := true, beat := 2, l4Req := some 1 } }
    s.mgmt.powerGood = true ∧ 0x5d < 0x5e ∧ s.mgmt.l4Req = some 1 ∧ s.past 1 = true ∧ s.store.records = [] ∧ s.store.buffered = 0 ∧
      (let u := testJob fun q => { q with cutSent := true, pend := some {} }
       (0, u.pt 0) ∈ u.ptn ∧ (u.pt 0).cutSent = true ∧ u.store.records.contains (.cut 0) = false) ∧
      (0, (testJob id).pt 0) ∈ (testJob id).ptn ∧ ((testJob id).pt 0).cutSent = false := by
  decide +kernel

theorem witness_ResetRows :
    testOn.mgmt.powerGood = true ∧ 3 < 4 ∧
      (let s : State := { testOn.upPt 0 fun q => { q with flr := some 0, func := .discarding } with mgmt := { powerGood := true, beat := 2 } }
       (s.pt 0).flr = some 0 ∧ (s.pt 0).func = .discarding ∧ s.since 0 ≠ 0) ∧
      (let t : State := { testOn.upPt 0 fun q => { q with rolling := some 0 } with mgmt := { powerGood := true, beat := 2 } }
       let s := (t.setFld rMgtBuPhase 0 8 63 60 2).setFld rMgtBuPhase 0 11 63 60 2
       s.mgmt.powerGood = true ∧ (s.pt 0).rolling = some 0 ∧ s.present 0 = true ∧ s.shapeBusy = false ∧ (s.pt 0).rollReq = none ∧
        2 ≤ s.since 0 ∧ (s.pt 0).drained = true ∧ s.bootReady = true ∧ (s.pt 0).flr = none) := by
  decide +kernel

theorem witness_ShapeChangeRows :
    (let s : State := { testOn with mgmt := { powerGood := true, beat := 1, shapeReq := some (1, 0) } }
     s.mgmt.powerGood = true ∧ s.mgmt.shapeReq = some (1, 0) ∧ s.since 0 ≠ 0 ∧ s.shapeHeld = false) ∧
    (let s : State := { testJob id with mgmt := { powerGood := true, beat := 1, shapeReq := some (1, 0) } }
     s.mgmt.shapeReq = some (1, 0) ∧ s.since 0 ≠ 0 ∧ s.shapeHeld = true) ∧
    (testOn.setFld rMgtPtnShape 0 0 7 7 1).shapeBusy = true := by
  decide +kernel

/-! ### Rings, descriptors and events -/

/-- Partition 0 READY with completion ring 0 of 64 slots, and submission ring 0 of 64 entries when `on`. -/
def testRings (on : Bool) : State :=
  let s := (testOn.upPt 0 fun q => { q with func := .ready, busMaster := true }).setFld rPtnCqCfg 1 0 31 0 (2 ^ 31 + 6)
  if on then (s.setFld rPtnSqCfg 1 0 31 0 (2 ^ 31 + 6)).setFld rPtnSqStatus 1 0 2 0 1 else s

theorem witness_RingConfigurationAndDoorbell :
    (let s := testRings false
     s.mgmt.powerGood = true ∧ s.funcState 0 = .ready ∧ s.shapeBusy = false ∧ s.tdiOpen 1 = true ∧ s.sqOn 0 0 = false ∧ s.cqOn 0 0 = true ∧
      s.cqOn 0 1 = false ∧ bits (2 ^ 31 + 6) 31 31 = 1 ∧ bits (2 ^ 31 + 6) 4 0 = 6 ∧ bits (2 ^ 31 + 6) 21 16 = 0 ∧
      ∀ m < 64, m ≠ 0 → s.sqOn 0 m = true → bits (s.rd rPtnSqBase 1 m) 63 12 ≠ bits (s.rd rPtnSqBase 1 0) 63 12) ∧
    (let s := (testRings true).upPt 0 fun q => { q with descs := [{}] }
     s.funcState 0 = .ready ∧ s.sqOn 0 0 = true ∧ bits 0 31 31 = 0 ∧ (∃ e ∈ (s.pt 0).descs, e.sq = 0 ∧ e.done = false ∧ e.mode ≠ 2)) ∧
    (let s := (testRings false).upPt 0 fun q => { q with journal := [{}] }
     s.sqOn 0 0 = false ∧ ∃ e ∈ (s.pt 0).journal, e.sq = 0 ∧ e.written = false ∧ e.rewrite = false) ∧
    (let s := (testRings true).upPt 0 fun q => { q with descs := [{ mode := 2 }], journal := [{ rewrite := true }] }
     s.sqOn 0 0 = true ∧ (∀ e ∈ (s.pt 0).descs, e.sq = 0 → e.done = true ∨ e.mode = 2) ∧
      ∀ e ∈ (s.pt 0).journal, e.sq = 0 → e.written = true ∨ e.rewrite = true) ∧
    (let s := testRings true
     s.sqOn 0 0 = true ∧ s.tdiOpen 1 = true ∧ 2 ^ s.fld rPtnSqCfg 1 0 4 0 = 64 ∧ sdiff 0 (s.accepted 0 0) ≤ 0 ∧
      (64 : Int) < sdiff 65 (s.accepted 0 0) ∧ 0 < sdiff 64 (s.accepted 0 0) ∧ sdiff 64 (s.accepted 0 0) ≤ (64 : Int)) := by
  decide +kernel

theorem witness_AcceptanceAndCompletion :
    (let s := (testRings true).upSq 0 0 fun x => { x with target := 1 }
     s.mgmt.powerGood = true ∧ s.funcState 0 = .ready ∧ s.sqOn 0 0 = true ∧ s.tdiOpen 1 = true ∧ s.fld rPtnSqStatus 1 0 2 0 = 1 ∧
      s.holdBits 0 0 = 0 ∧ ((s.pt 0).sq 0).awaiting.length < 256 ∧ (s.pt 0).awaitingAll < 1024 ∧
      0 < sdiff ((s.pt 0).sq 0).target.toNat ((s.accepted 0 0 + ((s.pt 0).sq 0).awaiting.length) % 2 ^ 64) ∧
      (List.replicate 8 (0 : W64)).length = 8 ∧ ((List.replicate 8 (0 : W64)).getD 0 0).toNat = (s.accepted 0 0 + 0) % 2 ^ 64 ∧
      ((List.replicate 8 (1 : W64)).getD 0 0).toNat ≠ (s.accepted 0 0 + 0) % 2 ^ 64) ∧
    (let s := (testRings true).upSq 0 0 fun x => { x with awaiting := [List.replicate 8 0] }
     let m : State := { s.setFld rMemBuddyPtn 0 0 2 1 1 with store := { s.store with records := [.accept 0 0], mirrorWait := [.accept 0 0] } }
     ((s.pt 0).sq 0).awaiting = List.replicate 8 0 :: [] ∧ s.store.buffered + 64 ≤ 134217728 ∧ s.buddyHas (.accept 0 0) = true ∧
      ((m.pt 0).sq 0).awaiting = List.replicate 8 0 :: [] ∧ m.store.buffered + 64 ≤ 134217728 ∧ m.buddyHas (.accept 0 0) = false) ∧
    (let d := testDesc [0, 8, 0, 0, 0, 0, 0, 0]
     (testRing d id).starts 0 0 8 d) ∧
    (∀ slot ∈ [0, 64], let e : JEntry := { slot := some slot }
     let s := (testRings true).upPt 0 fun q => { q with journal := [e] }
     let s1 := (s.upCq 0 0 fun c => { c with head := 0 }).upPt 0 fun q => { q with journal := freeJournal 0 0 q.journal }
     s.cqOn 0 0 = true ∧ s.busMaster 1 = true ∧ (s.pt 0).func = .ready ∧
      s1.nextRecord 0 0 = some e ∧ s.fld rPtnCqCfg 1 0 4 0 = 6 ∧ ((slot + 2 ^ 64 - 0) % 2 ^ 64 < 2 ^ 6 ↔ slot = 0)) := by
  unfold State.starts; decide +kernel

/-- Event queue 1 of partition 0's function, of 64 records, with `x` and the host's writes enabled. -/
def testEvq (x : EvQ) : State :=
  let s := (testOn.upPt 0 fun q => { q with func := .ready, busMaster := true }).setFld rEvtQCfg 1 1 63 0 (2 ^ 63 + 6 * 2 ^ 32 + 65536)
  { s with evq := [(129, x)], lcl := [(0, { pend := [0x021], active := [0x021] })] }

theorem witness_EventRows :
    (∀ w ∈ [0, 64], let s := testEvq { waiting := [{}], written := w }
     s.mgmt.powerGood = true ∧ s.evOn 1 1 = true ∧ s.busMaster 1 = true ∧ (s.evQ 1 1).waiting = {} :: [] ∧ bits (s.evCfg 1 1) 36 32 = 6 ∧
      s.present 0 = true ∧ (((s.evQ 1 1).written + 2 ^ 64 - 0) % 2 ^ 64 < 2 ^ 6 ↔ w = 0)) ∧
    (let s := (testEvq { written := 64 }).setEvStatus 1 1 1 0 2
     s.evOn 1 1 = true ∧ s.busMaster 1 = true ∧ (s.evQ 1 1).waiting = [] ∧ s.evStatus 1 1 1 0 = 2) ∧
    (let s : State := { testEvq { due := some 0 } with mgmt := { powerGood := true, beat := 1 } }
     (s.evQ 1 1).due = some 0 ∧ s.past 0 = true) ∧
    (let s := testEvq {}
     let n := 2 ^ 63 + 6 * 2 ^ 32 + 65536
     evqExists 1 2 = true ∧ s.funcState 0 = .ready ∧ s.tdiOpen 1 = true ∧ s.evOn 1 2 = false ∧ bits n 63 63 = 1 ∧ 6 ≤ bits n 36 32 ∧
      bits n 36 32 ≤ 16 ∧ bits n 23 16 ≠ 0 ∧ (s.lclOf 1).pend = [] ∧ s.mostUrgent 0 (s.lclOf 0).pend = 0x021 ∧ (0x021 : Nat) ≠ 4095 ∧
      0x021 ∈ (s.lclOf 0).active ∧ 0x021 ∈ (s.lclOf 0).pend ∧ s.levelOn 0x021 = false ∧
      (s.wr rStoHoldup 0 0 2).levelOn 0x021 = true) := by
  decide +kernel

/-! ### Jobs -/

/-- Control ring 0 with that descriptor at its head, in a job of state `j`, at beat 2. -/
def testCtrl (d : ADesc) (j : JobState) (f : Ptn → Ptn) : State :=
  let s := (testRing d fun q => f { q with job := j }).setFld rPtnSqCfg 1 0 30 30 1
  { s with mgmt := { s.mgmt with beat := 2 } }

theorem witness_SuspensionAndResumption :
    (let d := testDesc [0, 5, 0, 0, 0, 0, 0, 0]
     let e := testDesc [0, 6, 0, 0, 0, 0, 0, 0]
     (testCtrl d .running id).mgmt.powerGood = true ∧ (testCtrl d .running id).starts 0 0 5 d ∧ (testCtrl e .suspended id).starts 0 0 6 e) ∧
    (∀ j ∈ [JobState.suspended, .noJob, .running], let d : ADesc := { testDesc [0, 5, 0, 0, 0, 0, 0, 0] with start := some 0 }
     let s := testCtrl d j id
     s.control 0 5 = some d ∧ (s.pt 0).rolling = none ∧ (s.pt 0).susp = none ∧ (s.pt 0).job = j ∧ (s.pt 0).paused = none) ∧
    (let e : ADesc := { testDesc [0, 5, 0, 0, 0, 0, 0, 0] with start := some 0 }
     let s := testCtrl e .suspending fun q => { q with susp := some (0, 0, 0) }
     (s.pt 0).susp = some (0, 0, 0) ∧ 0 + 2 ≤ s.mgmt.beat ∧ (s.pt 0).drained = true ∧ (s.pt 0).enginesStopped = true ∧
      (s.pt 0).findDesc 0 0 = some e) ∧
    (let s := testCtrl {} .suspending fun q => { q with susp := some (0, 0, 1) }
     (s.pt 0).susp = some (0, 0, 1) ∧ s.mgmt.beat < 1 + 2) ∧
    (∀ j ∈ [JobState.suspended, .noJob, .running], let d : ADesc := { testDesc [0, 6, 0, 0, 0, 0, 0, 0] with start := some 0 }
     let s := testCtrl d j id
     s.control 0 6 = some d ∧ (s.pt 0).rolling = none ∧ (s.pt 0).resume = none ∧ (s.pt 0).job = j) ∧
    (let e : ADesc := { testDesc [0, 6, 0, 0, 0, 0, 0, 0] with start := some 0 }
     let s := testCtrl e .resuming fun q => { q with resume := some (0, 0, 0) }
     (s.pt 0).resume = some (0, 0, 0) ∧ 0 + 1 < s.mgmt.beat ∧ (s.pt 0).findDesc 0 0 = some e ∧ (s.pt 0).resumeRoll = none) := by
  unfold State.starts; decide +kernel

/-- The body of a program package: one word of code, one entry point, a region of one DATA page, one core, eight barrier contexts
without use, one sequence and a tier request queue of 64 entries (R343). -/
def testProgram : Bytes :=
  leBytes 4 0x4B505947 ++ leBytes 2 1 ++ leBytes 2 0 ++ leBytes 4 64 ++ leBytes 4 4 ++ leBytes 4 68 ++ leBytes 2 1 ++ leBytes 2 1 ++
    leBytes 4 80 ++ leBytes 2 1 ++ leBytes 2 0 ++ leBytes 4 96 ++ leBytes 4 4096 ++ leBytes 4 0 ++ leBytes 2 1 ++ leBytes 2 0 ++
    leBytes 4 64 ++ leBytes 4 64 ++ leBytes 8 0 ++ leBytes 4 0 ++ leBytes 4 0 ++ leBytes 8 0 ++ leBytes 8 1 ++ leBytes 8 1 ++
    List.replicate 32 0#8

/-- Partition 0 without a job, with memory for one, core 0 mapped, and the publisher key of `testImage`. -/
def testVacant (f : Ptn → Ptn) : State :=
  let s := testOn.upPt 0 fun q => f { q with func := .ready }
  let s := ((s.setFld rMemHbmH 0 0 23 5 100000).setFld rMemPoolSize 0 0 31 0 1000).setFld rMemPoolPtn 0 0 63 32 1000
  { s with cmap := { map := [(0, 1)] }, mgmt := { s.mgmt with members := 3 },
           sec := { s.sec with pubKeys := [(0, beNat (sha256 (List.replicate 384 0#8)))] } }

/-- Does the open find no fault? -/
def testOpens (s : State) (d : ADesc) (img : Option Bytes) (ok : Bool) : Bool :=
  match s.checkOpen 0 d img none ok ok with
  | .ok _ => true
  | .error _ => false

theorem witness_JobOpenCloseAndAbort :
    (let d := testDesc [0, 1, 0, 1152, 0, 0, 0, 0]
     let s := testVacant fun q => { q with descs := [d] }
     let o := (s.started 0 d).setJob 0 .opening
     s.mgmt.powerGood = true ∧ s.starts 0 0 1 d ∧ (s.pt 0).job = .noJob ∧ (s.pt 0).splitNew = none ∧
      testOpens o d (some (testImage 0x10 0 testProgram)) true = true ∧ testOpens o d (some (testImage 0x10 0 testProgram)) false = false ∧
      (testRing d id).starts 0 0 1 d ∧ ((testRing d id).pt 0).job ≠ .noJob) ∧
    (let d := testDesc [0, 7, 0, 0, 0, 0, 0, 0]
     (testRing d id).starts 0 0 7 d ∧ d.func = 0 ∧ ((testRing d id).pt 0).job = .running ∧
      (testRing d fun q => { q with job := .noJob }).starts 0 0 7 d ∧ ((testVacant id).pt 0).job = .noJob) ∧
    (let d := testDesc [0, 7 + 256, 0, 0, 0, 0, 0, 0]
     let s := testCtrl d .running id
     s.ctrlRing 0 0 = true ∧ s.startsOpen 0 = true ∧ (s.pt 0).abort = none ∧
      ((s.pt 0).descs.find? fun x => x.sq == 0 && !x.done && x.start.isNone && x.opcode == 7 && x.wellFormed true) = some d) ∧
    (let s := testCtrl {} .running fun q => { q with abort := some (0, 0, 2) }
     (s.pt 0).abort = some (0, 0, 2) ∧ s.since 2 = 0) ∧
    (let e : ADesc := { testDesc [0, 7 + 256, 0, 0, 0, 0, 0, 0] with start := some 0 }
     let s := testCtrl e .running fun q => { q with abort := some (0, 0, 1) }
     (s.pt 0).abort = some (0, 0, 1) ∧ s.since 1 ≠ 0) := by
  unfold State.starts; refine ⟨?_, ?_, ?_, ?_, ?_⟩ <;> decide +kernel

/-- A job with page 0 of a DATA region in HBM, and that descriptor at the head of ring 0. -/
def testCopy (d : ADesc) : State := testRing d fun q => { q with
  busMaster := true
  info := { q.info with regions := [{ base := 0, kind := 1, pages := 4 }] }
  live := { q.live with pages := [(0, { state := 1 })] } }

theorem witness_CopiesBetweenHostAndMemory :
    (∀ op ∈ [3, 4], let d := testDesc [0, BitVec.ofNat 64 op, 0, 0, 8, 0, 0, 0]
     let e := testDesc [0, BitVec.ofNat 64 op, 0x100000, 0x100000, 8, 0, 0, 0]
     (testCopy d).mgmt.powerGood = true ∧ ((testCopy d).pt 0).job = .running ∧ (testCopy d).starts 0 0 op d ∧
      ((testCopy d).started 0 d).copyCheck 0 0 (bits (d.w 4) 31 0) (op == 3) = 0 ∧ (testCopy e).starts 0 0 op e ∧
      ((testCopy d).started 0 d).busMaster 1 = true ∧ (testCopy d).busMaster 1 = true ∧
      ((testCopy e).started 0 e).copyCheck 0 0x100000 8 (op == 3) ≠ 0 ∧ bits (d.w 4) 31 0 = (List.replicate 8 0#8).length) ∧
    (∀ op ∈ [3, 4], let d : ADesc := { testDesc [0, BitVec.ofNat 64 op, 0, 0, 8, 0, 0, 0] with start := some 0 }
     ((testCopy d).pt 0).ringHead 0 = some d ∧ d.start.isSome = true ∧ ((testCopy d).pt 0).paused = none ∧ (testCopy d).startsOpen 0 = true ∧
      d.opcode = op) := by
  unfold State.starts; decide +kernel

/-! ### Faults and recovery -/

/-- A job at beat 2 with page 0 of a DATA region as `g`, and a durable cut of it. -/
def testPage (g : Page) : State :=
  let s := (testJob fun q => { q with
    info := { q.info with regions := [{ base := 0, kind := 1, pages := 4 }] }, live := { q.live with pages := [(0, g)] },
    durable := some { data := { q.live with pages := [(0, { state := 3 })] } } }).testHbm
  { s with mgmt := { s.mgmt with beat := 2 } }

theorem witness_FaultsOfPagesDiesAndPhases :
    (∀ st ∈ [3, 1, 5, 4], let g : Page := { state := st, drop := true, dropAt := 1 }
     let s := testPage g
     s.mgmt.powerGood = true ∧ (s.page 0 0).drop = true ∧ (s.page 0 0).acted = false ∧ (s.page 0 0).dropAt < s.mgmt.beat ∧
      (s.page 0 0).state = st ∧ s.place 0 0 = some 0) ∧
    (let s := testPage { state := 3, acted := true }
     (s.page 0 0).acted = true ∧ (s.page 0 0).state = 3 ∧ (s.page 0 0).pins = 0 ∧ (s.page 0 0).opins = 0 ∧
      ((testPage { state := 3, acted := true, pins := 1 }).page 0 0).pins ≠ 0) ∧
    (let s := testPage { state := 3, lost := true }
     (s.page 0 0).lost = true ∧ (s.page 0 0).state = 3 ∧ (s.page 0 0).drop = false) ∧
    (∀ g ∈ [({ state := 1, lost := true, touched := true } : Page), { state := 2, lost := true }], let s := testPage g
     let u := s.upPage 0 0 fun g => { g with lost := false }
     (s.page 0 0).lost = true ∧ (s.page 0 0).state ≠ 3 ∧ u.mirroring 0 = false ∧ (s.pt 0).durable.isSome = true ∧
      ((s.page 0 0).touched = true ∧ (s.page 0 0).framed = true ∨ (s.page 0 0).touched = false) ∧
      ((s.pt 0).durable.map fun c => (c.data.page 0).state) = some 3) ∧
    (∀ m ∈ [0, 1], let s := (testPage {}).setFld rMemBuddyPtn 0 0 2 1 m
     s.mgmt.powerGood = true ∧ s.mgmt.deadDies.contains 3 = false ∧ (s.pt (3 / s.k)).job ≠ .noJob ∧ s.mirroring 0 = (m == 1) ∧
      (testOn.pt (3 / testOn.k)).job = .noJob) ∧
    (∀ n ∈ [255, 256], let s := (testJob fun q => { q with buddyGone := n }).setFld rMemBuddyPtn 0 0 2 1 1
     s.mirroring 0 = true ∧ ((s.pt 0).buddyGone < 256 ↔ n = 255)) ∧
    (∀ n ∈ [0, 24], let s : State := { testOn with mgmt := { testOn.mgmt with phases := List.range n } }
     let off := { s with mgmt := { s.mgmt with phases := (0 * 64 + 63) :: s.mgmt.phases } }
     63 < 64 ∧ s.mgmt.phases.contains (0 * 64 + 63) = false ∧ (off.failedPhases 0 < 25 ↔ n = 0)) := by
  decide +kernel

theorem witness_RollbackTakesEffect :
    (∀ c ∈ [some ({} : CutImg), none], let s : State := { testJob (fun q => { q with rollReq := some (5, 0), durable := c }) with mgmt := { powerGood := true, beat := 1 } }
     let s1 := (s.countRollback 0 5).upPt 0 fun q =>
       { q with rollReq := none, rolling := some s.lastBeat, func := .resetting, resetKind := 3 }
     s.mgmt.powerGood = true ∧ s.present 0 = true ∧ s.shapeBusy = false ∧ (s.pt 0).rollReq = some (5, 0) ∧ (s.pt 0).rolling.isSome = false ∧
      s.since 0 ≠ 0 ∧ (s.pt 0).job = .running ∧ (s1.pause 0 s.lastBeat).rollTarget 0 = c) ∧
    (∀ j ∈ [JobState.noJob, .opening], let s : State := { testJob (fun q => { q with rollReq := some (5, 0) }) with mgmt := { powerGood := true, beat := 1 } }
     let t := s.upPt 0 fun q => { q with job := j }
     (t.pt 0).rollReq = some (5, 0) ∧ t.since 0 ≠ 0 ∧ (t.pt 0).job = j) ∧
    (let s : State := testJob fun q => { q with rollReq := some (5, 0) }
     (s.pt 0).rollReq = some (5, 0) ∧ s.since 0 = 0) := by
  decide +kernel

theorem witness_RestoreFromBuddy :
    let s := (testVacant id).unstage rMemRestorePtn 0 0
    let x := 1 + 1 * 2 ^ 36
    let t := (s.logChange 0x501100 0 (s.rd rMemRestorePtn 0 0) (bits x 47 32 * 2 ^ 32 + 1)).setFld rMemRestorePtn 0 0 47 32 (bits x 47 32)
    let d := testDesc [0, 1, 0, 1152, 0, 0, 0, 0]
    let h : BuddyCopy := { descs := [d] }
    s.mgmt.powerGood = true ∧ s.present 0 = true ∧ bits x 0 0 = 1 ∧ s.otherMember (bits x 47 36) = true ∧ s.vacant 0 = true ∧
      s.store.mounted = true ∧ s.fld rStoHealth 0 0 3 0 ≠ 5 ∧ (h.descs.find? fun d => d.opcode == 1) = some d ∧
      testOpens t d (some (testImage 0x10 0 testProgram)) true = true ∧ s.otherMember (bits 1 47 36) = false ∧
      (testJob id).vacant 0 = false := by
  decide +kernel

/-! ### Links -/

/-- Port 0 in state `st`, as `q`. -/
def testPort (st : Nat) (q : Port) : State :=
  let s := testOn.setFld rLnkPStatus 0 0 2 0 st
  { s with links := { s.links with ports := [(0, q)] } }

/-- A packet of one slot for VC2. -/
def testPkt : TxPkt := { vc := 2, slots := [0] }

/-- An empty flit of type `typ`. -/
def testFlit (typ : BitVec 2) : Flit := { fseq := 0, ack := 0, typ := typ, key := 4, start := 31, slots := [] }

theorem witness_FlitRows :
    (∀ k ∈ [1, 2, 3, 4, 5, 6], let h : Slot := BitVec.ofNat 128 (k + testOn.addr * 2 ^ 16 + 7 * 2 ^ 64)
     hdr h 3 0 = k ∧ hdr h 71 64 = 7 ∧ hdr h 52 50 ≤ 4 ∧ hdr h 27 16 = testOn.addr) ∧
    (testPort PS.up {}).mgmt.powerGood = true ∧ (testPort PS.up {}).pup 0 = true ∧
      ((testPort PS.up { nakDue := true }).port 0).nakDue = true ∧
      (let p : Port := { replay := [testFlit 0] }
       p.nakDue = false ∧ p.sent < p.replay.length) ∧
      (let p : Port := { replay := List.replicate 512 (testFlit 0), sent := 512 }
       p.nakDue = false ∧ p.replay.length ≤ p.sent ∧ 512 ≤ p.replay.length) ∧
      (((testPort PS.up {}).fillFlit 18 {} [] none 31).2.2.1 = none) ∧
      (((testPort PS.up {}).fillFlit 18 { cur := some testPkt } [] none 31).2.2.1 = some 0) := by
  decide +kernel

/-- Bytes as they come over eight lanes. -/
def testWire (bs : Bytes) : FlitIn := { times := onLanes (List.range 8) (flitSymbols bs), colls := [] }

theorem testWire_bytes (s : State) (bs : Bytes) (hr : s.rxLanes 0 = List.range 8) (h : bs.length = 300) :
    s.flitBytes 0 (testWire bs) = some (bs, 0) := by
  obtain ⟨hl, hd⟩ := rsDecode_flitSymbols bs h
  rw [State.flitBytes, hr, testWire, offLanes_onLanes _ _ List.nodup_range (by simp) (by simp) hl]
  exact hd

/-- The key and salt of key slot 4. -/
def testKey : Bytes := List.replicate 36 1#8

/-- A port that is UP and has come to the first flit, key slot 4 being in use with `last` as its last counter. -/
def testRx (last : Nat) : State := testPort PS.up { rxCtr := 1, rxLast := [(4, last)], keys := [(4, { rx := testKey })] }

theorem testRx_lanes (n : Nat) : (testRx n).rxLanes 0 = List.range 8 := by
  have e : (testRx n).boot.harness = [] := rfl
  have p : ((testRx n).port 0).lanes = 0xff := rfl
  simp only [State.rxLanes, State.farOf, e, p]
  decide +kernel

theorem testRx_last (n : Nat) : Tbl.get 0 ((testRx n).port 0).rxLast 4 = n := by simp [testRx, testPort, State.port, Tbl.get]

/-- What comes sealed is what was sent; a word of few symbols with nothing to correct it by is lost; a header of another key slot names none. -/
theorem testRx_receives (f : Flit) (hs : f.slots.length = 18) (hk : f.key = 4) :
    (let bs := sealFlit testKey 1 f
     (testRx 0).flitBytes 0 (testWire bs) = some (bs, 0) ∧ ((testRx 0).port 0).keyFor (flitOf (leNat (bs.take 4)) []).key.toNat = some 4 ∧
      openFlit (Tbl.get {} ((testRx 0).port 0).keys 4).rx ((testRx 0).port 0).rxCtr bs = some f ∧
      Tbl.get 0 ((testRx 0).port 0).rxLast 4 < ((testRx 0).port 0).rxCtr ∧ ((testRx 1).port 0).rxCtr ≤ Tbl.get 0 ((testRx 1).port 0).rxLast 4) ∧
      (let bs : Bytes := List.replicate 300 0
       (testRx 0).flitBytes 0 (testWire bs) = some (bs, 0) ∧ ((testRx 0).port 0).keyFor (flitOf (leNat (bs.take 4)) []).key.toNat = none) := by
  have hb := sealFlit_length testKey 1 f rfl hs
  refine ⟨⟨testWire_bytes _ _ (testRx_lanes 0) hb, ?_, openFlit_sealFlit testKey 1 f rfl hs, ?_, ?_⟩, testWire_bytes _ _ (testRx_lanes 0) List.length_replicate, ?_⟩
  · rw [show (sealFlit testKey 1 f).take 4 = hdrBytes f from rfl, flitOf_hdr]
    simp [Port.keyFor, hk]
  · rw [testRx_last]; decide +kernel
  · rw [testRx_last]; decide +kernel
  · decide +kernel

/-- A flit of type `ty` under key slot 4. -/
def testSent (ty : BitVec 2) : Flit := { testFlit ty with slots := List.replicate 18 0 }

/-- Flits of each type, as the other end sends them. -/
theorem witness_FlitReceive : ∀ ty ∈ [0, 1, 2, 3],
    (testRx 0).flitBytes 0 (testWire (sealFlit testKey 1 (testSent ty))) = some (sealFlit testKey 1 (testSent ty), 0) ∧
      openFlit (Tbl.get {} ((testRx 0).port 0).keys 4).rx ((testRx 0).port 0).rxCtr (sealFlit testKey 1 (testSent ty)) = some (testSent ty) ∧
      (testSent ty).typ = ty := fun ty _ =>
  let h := (testRx_receives (testSent ty) List.length_replicate rfl).1
  ⟨h.1, h.2.2.1, rfl⟩

/-- Sixteen symbols that no code word is near. -/
theorem witness_FlitLost :
    (testRx 0).flitBytes 0 { times := [[1, 2, 3, 5, 8, 13, 21, 34], [55, 89, 144, 233, 377, 610, 987, 573]], colls := [] } = none := by
  decide +kernel

/-- A flit in order and one out of order. -/
theorem witness_FlitOrder :
    (testFlit 0).fseq.toNat = ((testRx 0).port 0).rx ∧ ({ testFlit 0 with fseq := 1 } : Flit).fseq.toNat ≠ ((testRx 0).port 0).rx := by
  decide +kernel

/-- A harness between this module, at position 0, and position 1. -/
def testHarness : Harness :=
  { magicOk := true, version := 1, loss := 0, serial := 0, lengthCm := 100, kind := 0, endB := false, aPos := 0, aPort := meshPort 0 1,
    bPos := 1, bPort := meshPort 1 0, laneMap := [], crcOk := true }

theorem witness_PortRows :
    (∀ st ∈ [1, 2, 3, 4], let s := testPort st {}
     s.mgmt.powerGood = true ∧ 0 < 25 ∧ 7 < 8 ∧ s.pstate 0 = st ∧ s.fld rLnkPStatus 0 0 (16 + 7) (16 + 7) = 0) ∧
    (∀ m ∈ [(0xff : BitVec 8), 7], let s := testPort PS.retraining { agreed := m }
     s.pstate 0 = 4 ∧ (4 ≤ ones 8 (s.port 0).agreed.toNat ↔ m = 0xff)) ∧
    (let s := (testPort PS.failed {}).setFld rLnkSpare 0 0 9 5 0
     ([23, 24] : List Nat).find? (fun k => s.standsFor k == 0) = some 23 ∧ s.pstate 0 = 5) ∧
    (∀ st ∈ [0, 3, 5], let s := ((testPort st {}).setFld rMgtBuPhase 0 2 63 60 2).setFld rMgtBuPhase 0 6 63 60 2
     let t := s.upBoot fun b => { b with harness := Tbl.put b.harness 0 testHarness }
     s.phaseOver 3 = true ∧ s.phase 7 ≠ 0 ∧ t.phase 7 ≠ 0 ∧ s.pstate 0 = st ∧ t.harnessPasses 0 testHarness = true) ∧
    (let s : State := { testOn with links := { testOn.links with down := [32 * 5] } }
     (5 : BitVec 12).toNat ≠ s.addr ∧ s.links.down.contains (5 * 32 + 0) = true ∧ s.links.down.contains (6 * 32 + 0) = false ∧
      (BitVec.ofNat 12 s.addr).toNat = s.addr) ∧
    (∀ l ∈ [[], [testFlit 0]], let s := testPort PS.failed { replay := l }
     s.pstate 0 = 5 ∧ s.standsFor 23 ≠ 0 ∧ s.standsFor 24 ≠ 0 ∧ ((s.port 0).acked 2047).replay = l) := by
  decide +kernel

/-- R389, R401, R402: a range of 12 hives is crossed inside it, a whole ring by its shorter side first. -/
theorem test_ringDirs : ringDirs 0 11 (0, 12) = [true] ∧ ringDirs 0 11 (0, 16) = [false, true] ∧ ringDirs 14 2 (12, 8) = [true] := by
  decide

/-- R376, R390: the packet whose beginning the peer has acknowledged is still whole. -/
theorem test_unsent :
    let h : Slot := 0x11
    let f : Flit := { testFlit 0 with slots := [h], key := 2 }
    let q : Port := { tx := 2, replay := [f, { f with slots := [5], fseq := 1 }], sent := 2 }
    (q.acked 1).unsent = [(2, [h, 5])] := by
  decide +kernel

/-! ### Collectives -/

/-- A job with a link key, whose group 0 is enabled in state `st` with this module as its one member, and queue 0 on it. -/
def testGroup (st : Nat) (c : Col) : State :=
  let s := (testJob fun q => { q with
    info := { q.info with keyId := 7, regions := [{ base := 0, kind := 1, pages := 4 }] },
    live := { q.live with pages := [(0, { state := 1 })] }, col := c }).testHbm
  ((s.setFld rColGrpShape 1 0 63 0 (2 ^ 63 + 2 ^ 32 + 5)).setFld rColGrpStatus 1 0 1 0 st).setFld rColCqCfg 1 0 63 0 (2 ^ 63 + 4 * 2 ^ 56)

/-- A hello with this tag. -/
def testHello (tag : BitVec 16) (keyId : W64) : Hello :=
  { dptn := 0, src := 3, sptn := 0, group := 0, tag := tag, shape := 0x10000, keyId := keyId, target := 0 }

theorem witness_GroupsAndCommunicationQueues :
    (let s := testGroup 1 {}
     s.mgmt.powerGood = true ∧ s.present 0 = true ∧ ((List.range 64).find? fun k => s.grpOn 0 k && s.grpTag 0 k == (9 : BitVec 16).toNat) = none ∧
      ((List.range 64).find? fun k => s.grpOn 0 k && s.grpTag 0 k == (5 : BitVec 16).toNat) = some 0 ∧
      ((testHello 5 7).shape.toNat = bits (s.rd rColGrpShape 1 0) 47 16 ∧ (testHello 5 7).keyId.toNat = s.keyId 0) ∧
      (testHello 5 8).keyId.toNat ≠ s.keyId 0 ∧ s.grpState 0 0 = 1) ∧
    (let s : State := { testGroup 1 {} with mgmt := { powerGood := true, beat := 2 ^ 21 + 1 } }
     s.grpState 0 0 = 1 ∧ (s.grp 0 0).warned = false ∧ 2 ^ 21 < s.since (s.grp 0 0).since) ∧
    (let s := testGroup 2 {}
     s.tdiOpen 1 = true ∧ s.grpOn 0 0 = true ∧ bits (2 ^ 63) 63 63 = 1 ∧ bits 0 63 63 = 0 ∧ s.grpUsed 0 0 = true ∧
      (s.setFld rColCqCfg 1 0 63 63 0).grpUsed 0 0 = false) ∧
    (let s := testGroup 2 {}
     let x := 2 ^ 63 + 2 ^ 32 + 6
     let s1 := s.setFld rColGrpShape 1 1 47 0 x
     s.grpOn 0 1 = false ∧ bits x 63 63 = 1 ∧ (shapeOf x).mask ≠ 0 ∧ (shapeOf x).has s1.addr = true ∧ (s1.pt 0).job = .running ∧
      (s1.pt 0).info.keyId ≠ 0 ∧ ((List.range 64).any fun k => k != 1 && s1.grpOn 0 k && s1.grpTag 0 k == bits x 15 0) = false ∧
      (shapeOf (2 ^ 63)).mask = 0) ∧
    (let s := testGroup 2 {}
     let x := 2 ^ 63 + 4 * 2 ^ 56
     let s1 := ((s.setFld rColCqCfg 1 1 60 56 (bits x 60 56)).setFld rColCqCfg 1 1 53 48 (bits x 53 48)).setFld rColCqCfg 1 1 31 0 x
     s.tdiOpen 1 = true ∧ s.fld rColCqCfg 1 1 63 63 = 0 ∧ bits x 63 63 = 1 ∧ bits x 60 56 = 4 ∧ bits x 31 0 % 64 = 0 ∧
      bits x 31 0 + 64 + 2 ^ bits x 60 56 * 64 ≤ s1.scratchSize 0 ∧ s1.grpOn 0 (bits x 53 48) = true ∧ s.fld rColCqCfg 1 0 63 63 = 1) := by
  refine ⟨?_, ?_, ?_, ?_, ?_⟩ <;> decide +kernel

/-- An entry of queue 0 with this opcode, FUNC, COUNT and TIMEOUT. -/
def testOp (op func count t : Nat) : COp := { words := [op + func * 65536, 0, 0, 0, count, 256 + t * 65536, 0, 0] }

/-- A packet for partition 0. -/
def testPacket (ptype : Nat) : Packet :=
  { src := 3, sptn := 0, ptype := ptype, dptn := 0, addr := 0, data := List.replicate 4 1#8, dtype := 0, narrow := false, rctrEn := true,
    rctr := 0, inc := 1, group := 0, coll := none }

/-- Does an operation find its pages ready? -/
def testPages (r : OpPages) : Bool := match r with | .ready _ => true | _ => false

theorem witness_TriggeredOperations :
    (∀ op ∈ [1, 2, 3, 4], let o := testOp op 0 64 0
     let s := testGroup 2 { ops := [o] }
     s.mgmt.powerGood = true ∧ s.opStarts 0 0 0 o ∧ o.op = op ∧ testPages (s.opPages 0 (unitOfOp o.q o.n) (pagesOf [(o.src, o.count)]) [] [(o.src, o.count)]) = true) ∧
    (∀ x ∈ [(1, 0), (4, 0), (0x10, 1), (0x20, 0)], let o := testOp x.1 x.2 64 0
     let s := testGroup 3 { ops := [o] }
     (s.pt 0).col.find 0 0 = some o ∧ o.done = false ∧ o.armed = none ∧ o.ready = none ∧ s.triggered 0 o = true ∧
      s.grpState 0 (s.cqGroup 0 0) = 3 ∧ o.op = x.1 ∧ o.func = x.2) ∧
    (let o : COp := { testOp 1 0 64 0 with armed := some 0 }
     let r : COp := { testOp 1 0 64 0 with armed := some 0, ready := some 0 }
     let s := testGroup 2 { ops := [o] }
     (s.pt 0).col.find 0 0 = some o ∧ o.done = false ∧ o.armed = some 0 ∧ o.ready = none ∧ o.op ≤ 0x03 ∧ s.opDue o = false ∧ Code.known 0 = true ∧ Code.known 7 = false ∧
      ((testGroup 2 { ops := [r] }).pt 0).col.find 0 0 = some r ∧ r.ready = some 0) ∧
    (let o : COp := { testOp 1 0 64 1 with armed := some 0 }
     let s : State := { testGroup 2 { ops := [o] } with mgmt := { powerGood := true, beat := 2 } }
     (s.pt 0).col.find 0 0 = some o ∧ o.timeout ≠ 0 ∧ 0 + o.timeout < s.mgmt.beat) ∧
    (let s := testGroup 2 {}
     let s : State := { s with links := { s.links with inbox := [1, 2, 4].map testPacket } }
     (testPacket 4).ptype = 4 ∧ (∀ k ∈ [1, 2, 4], s.came (testPacket k) = true) ∧ s.present 0 = true ∧ (s.pt 0).job ≠ .noJob ∧
      s.awake 0 = true ∧ (s.land 0 (testPacket 1)).2 = some 0 ∧ (s.land 0 (testPacket 2)).2 = some 0 ∧ (s.setL 0 2).awake 0 = false ∧
      ((s.upPt 0 fun q => { q with job := .noJob }).pt 0).job = .noJob) := by
  unfold State.opStarts; refine ⟨?_, ?_, ?_, ?_, ?_⟩ <;> decide +kernel

/-- A waggle message of generation 0. -/
def testWag : WagMsg := { own := false, gen := 0, round := 0, func := 1, src := 3, lanes := [1] }

theorem witness_WagglesAndDataCollectives :
    (∀ f ∈ [0, 1, 2, 3, 4, 5, 6], let o := testOp 0x10 f 0 0
     let s := testGroup 2 { ops := [o] }
     s.mgmt.powerGood = true ∧ s.opStarts 0 0 0 o ∧ o.op = 0x10 ∧ o.ord = (s.grp 0 (s.cqGroup 0 o.q)).wagDone ∧ o.func = f ∧
      rangeBad 8 (s.pt 0).live.slmBad [(o.src, 8 * o.lanes)] = []) ∧
    (let o : COp := { testOp 0x10 1 0 0 with armed := some 0 }
     ∀ l ∈ [[], [o]], let s := testGroup 2 { ops := l }
     let u := s.upGrp 0 0 fun x => { x with held := x.held ++ [testWag] }
     s.present 0 = true ∧ testWag.own = false ∧ (s.grp 0 0).wagDone ≤ testWag.gen ∧ testWag.gen ≤ (s.grp 0 0).wagDone + 1 ∧
      ((u.pt 0).col.ops.find? fun x => u.cqGroup 0 x.q == 0 && x.op == 0x10 && x.armed.isSome && !x.done && x.ready.isNone) = l.head? ∧
      u.opDue o = false) ∧
    (let m : WagMsg := { testWag with own := true }
     ∀ w ∈ [none, some ({} : Wag)], let s := testGroup 2 { own := w }
     s.present 0 = true ∧ m.own = true ∧ (s.pt 0).col.ownGen ≤ m.gen ∧ (s.pt 0).col.own = w ∧
      m.gen < ((testGroup 2 { ownGen := 1 }).pt 0).col.ownGen) ∧
    (∀ op ∈ [0x20, 0x21, 0x22, 0x23, 0x24], let o := testOp op 0 32 0
     let s := testGroup 2 { ops := [o] }
     let cb := s.chunkElems 0 o * esize o.dt
     s.opStarts 0 0 0 o ∧ o.ord = (s.grp 0 (s.cqGroup 0 o.q)).colDone ∧ o.op = op ∧ (s.grpShape 0 0).rank s.addr = o.peer ∧
      testPages (s.opPages 0 (unitOfOp o.q o.n) (pagesOf [(o.src, o.count * esize o.dt)]) (pagesOf [(o.dst, o.count * esize o.dt)])
        [(o.src, o.count * esize o.dt)]) = true ∧
      testPages (s.opPages 0 (unitOfOp o.q o.n) (pagesOf [(o.src + 0 * cb, cb)]) (pagesOf [(o.dst, o.count * esize o.dt)]) [(o.src + 0 * cb, cb)]) = true) ∧
    (let o : COp := { words := [0x23, 0, 0, 0, 32 + 2 ^ 32, 0, 0, 0] }
     let s := (testGroup 2 { ops := [o] }).setFld rColGrpShape 1 0 47 32 3
     s.opStarts 0 0 0 o ∧ o.op = 0x23 ∧ o.ord = (s.grp 0 (s.cqGroup 0 o.q)).colDone ∧ (s.grpShape 0 0).rank s.addr ≠ o.peer ∧
      testPages (s.opPages 0 (unitOfOp o.q o.n) (pagesOf []) (pagesOf [(o.dst, o.count * esize o.dt)]) []) = true) := by
  unfold State.opStarts; refine ⟨?_, ?_, ?_, ?_, ?_⟩ <;> decide +kernel

/-! ### Video coding -/

/-- The session block of 64 × 64 pictures in two slots on engine 0: pool at page 1, state area at page 2. -/
def testSession (dec : Bool) : Bytes :=
  let own := if dec then List.replicate 0x2B 0#8
    else leBytes 1 0 ++ List.replicate 5 20#8 ++ leBytes 1 1 ++ List.replicate 16 0#8 ++ leBytes 4 30 ++ leBytes 4 1 ++ leBytes 4 1000 ++
      leBytes 2 8 ++ leBytes 1 1 ++ List.replicate 5 0#8
  leBytes 1 0 ++ leBytes 1 (if dec then 1 else 0) ++ leBytes 2 0 ++ leBytes 2 64 ++ leBytes 2 64 ++ leBytes 8 0x40000 ++ leBytes 4 64 ++
    leBytes 4 6144 ++ leBytes 1 2 ++ own ++ leBytes 4 0 ++ leBytes 8 0x80000 ++ List.replicate 48 0#8

/-- A job with four pages of a DATA region in HBM, the session block in the first, two engines, that descriptor at the head of
ring 0, and session 0 as `c`. -/
def testCodec (d : ADesc) (c : CdcSes) (dec : Bool) (f : JobData → JobData) : State :=
  (testRing d fun q => { q with
    info := { q.info with regions := [{ base := 0, kind := 1, pages := 4 }] }
    live := f { q.live with pages := (List.range 4).map fun i => (i, { state := 1 }), codec := [(0, c)],
                            dv := Memory.wrN [] 0 (testSession dec) } }).setFld rMemSlmSplitPtn 0 0 11 8 2

/-- The head of ring 0 as a CODEC descriptor of that FUNC with words 2 to 7. -/
def testCodecDesc (func : Nat) (ws : List W64) : ADesc := testDesc ([0, BitVec.ofNat 64 (0x30 + 256 * func)] ++ ws)

/-- An open session that decodes or encodes. -/
def testSes (dec : Bool) : CdcSes := { state := 1, block := testSession dec }

/-- Engine 0 works on the picture of a descriptor of that FUNC, changed by `f`. -/
def testCdcRun (func : Nat) (f : CdcRun → CdcRun) : State :=
  testCodec { testCodecDesc func [0xC0000, 64, 0, 0, 0, 0] with start := some 0 } { testSes (func == 3) with queued := [{ src := 0xC0000 }] }
    (func == 3) fun j => { j with runs := [(0, f { start := some 0 })] }

/-- What decoding may find in a unit of that width, usable and within the limits or not. -/
def testUnit (usable supported : Bool) (width : Nat) : Config.DecodedUnit :=
  { usable := usable, supported := supported, width := width, height := 64, ten := false, inter := false, key := true, coded := true,
    clean := true, shown := [], refs := [] }

/-- A coded picture of two bytes. -/
def testCoded : CodedPic := { pic := 0, intra := true, bytes := [0, 0], header := 0, plan := 0, qp0 := 20, blocks := [(20, 16, 16)], model := none }

theorem witness_CodecSessionsAndPictures :
    (let goes := fun (s : State) (d : ADesc) (f : Nat) =>
      s.starts 0 0 0x30 d ∧ d.func = f ∧ (s.pt 0).splitNew = none ∧ (s.pt 0).job = .running ∧ (s.pt 0).paused = none
     (let d := testCodecDesc 1 [0, 0, 0, 0, 0, 64]
      (testCodec d {} false id).mgmt.powerGood = true ∧ goes (testCodec d {} false id) d 1 ∧ d.w 7 ≠ d.ses) ∧
     (let d := testCodecDesc 1 [0, 0, 0, 0, 0, 0]
      let s := testCodec d {} false id
      let t := s.passUnits 0 (unitOfRing 0) (pagesOf [(0, 128)])
      let x : CdcSes := { state := 1, block := t.dvRead 0 0 128 }
      goes s d 1 ∧ d.w 7 = d.ses ∧ goes (testCodec d (testSes false) false id) d 1 ∧ ((testCodec d (testSes false) false id).cdc 0 0).state ≠ 0 ∧
       (s.cdc 0 0).state = 0 ∧ s.areaCheck 0 [(0, 128)] [] = 0 ∧ s.residAll 0 (pagesOf [(0, 128)]) [] = .pin ∧ s.dvBadIn 0 [(0, 128)] = [] ∧
       x.blockOk (2 * t.k) = true ∧ t.areaCheck 0 [] x.areas = 0 ∧ t.fld rMemSlmSplitPtn 0 0 11 8 = 2 ∧ (t.eng 0 x.engine).failed = false ∧
       (t.eng 0 (x.engine + 1)).failed = false) ∧
     (let d := testCodecDesc 4 [0, 0, 0, 0, 0, 0]
      goes (testCodec d {} false id) d 4 ∧ d.w 7 = d.ses ∧ (testCodec d {} false id).run 0 0 = none ∧
       (let t := testCodec d {} false id; t.run 0 (t.leadOf 0 1) = none ∧ t.present 0 = true ∧ 1 < 2 * t.k)) ∧
     (∀ key ∈ [true, false], let d := testCodecDesc 2 [0xC0000, 0xD0000, 2000, 0, if key then 1 else 0, 0]
      let s := testCodec d (testSes false) false id
      let c := s.cdc 0 0
      goes s d 2 ∧ goes (testCodec d {} false id) d 2 ∧ ((testCodec d {} false id).cdc 0 0).state ≠ 1 ∧ c.state = 1 ∧ c.dec = false ∧
       (c.bFrames + 1) * c.maxAu ≤ 2000 ∧ s.engineFree 0 0 c.pair = true ∧ s.residAll 0 [] [] = .pin ∧ s.dvBadIn 0 [] = [] ∧
       s.areaCheck 0 [(0xC0000, c.picBytes c.height)] ((0xD0000, 2000) :: c.areas) = 0 ∧ c.ends key false (c.nextSince key) = key) ∧
     (∀ held ∈ [[0, 1], []], let d := testCodecDesc 3 [0xC0000, 64, 0, 0, 0, 0]
      let s := testCodec d { testSes true with held := held } true id
      let c := s.cdc 0 0
      goes s d 3 ∧ goes (testCodec d {} true id) d 3 ∧ ((testCodec d {} true id).cdc 0 0).state ≠ 1 ∧ c.state = 1 ∧ c.dec = true ∧
       s.engineFree 0 0 c.pair = true ∧ s.areaCheck 0 [(0xC0000, 64)] c.areas = 0 ∧
       (({ c with held := c.held.filter fun i => bits 0 i i == 0 }).freeSlots = [] ↔ held = [0, 1]))) ∧
    (let d : ADesc := { testCodecDesc 3 [0xC0000, 64, 0, 0, 0, 0] with start := some 0 }
     let s := testCdcRun 3 id
     let late := { s with mgmt := { s.mgmt with beat := 100 } }
     s.run 0 0 = some { start := some 0 } ∧ (s.pt 0).findDesc 0 0 = some d ∧ d.func = 3 ∧ (s.pt 0).paused = none ∧
      late.run 0 0 = some { start := some 0 } ∧ 0 + d.budget (late.cdc 0 0) ≤ late.mgmt.beat) ∧
    (((testCdcRun 3 id).resetEngine 0 0).eng 0 0).failed = false ∧
    (testCdcRun 3 fun r => { r with replayed := true }).run 0 0 = some { start := some 0, replayed := true } ∧
    (let s := testCdcRun 3 id
     ∀ u ∈ [testUnit true true 128, testUnit true false 64, testUnit false true 64, testUnit true true 64],
       (s.pt 0).job = .running ∧ s.runBad 0 { start := some 0 } = [] ∧ s.storeBad 0 0 { start := some 0 } = [] ∧ s.framesFor 0 [] = true ∧
         u.clean = true ∧ (s.cdc 0 0).freeSlots.contains 1 = true ∧ (u.usable = false ↔ u = testUnit false true 64) ∧
         (withinLimits u = false ↔ u = testUnit true false 64) ∧ ((s.cdc 0 0).width < u.width ↔ u = testUnit true true 128) ∧
         u.height = (s.cdc 0 0).height) ∧
    (let s := testCdcRun 2 id
     let c := s.cdc 0 0
     (s.pt 0).job = .running ∧ s.runBad 0 { start := some 0 } = [] ∧ s.storeBad 0 0 { start := some 0 } = [] ∧
      (s.pt 0).findDesc 0 0 = some { testCodecDesc 2 [0xC0000, 64, 0, 0, 0, 0] with start := some 0 } ∧
      c.takePics [testCoded] = some (c.drain 2, []) ∧ ADesc.coded (testCodecDesc 2 []) = none ∧ c.queued.length = 1 ∧ testCoded.pic = 0) := by
  unfold State.starts; refine ⟨⟨?_, ?_, ?_, ?_, ?_⟩, ?_, ?_, ?_, ?_, ?_⟩ <;> decide +kernel

/-- What decoding finds in a unit is a free value (R463): with any of the values above for it, the unit of the session is that value. -/
theorem witness_CodecUnits (u : Config.DecodedUnit) (h : ∀ l, Config.decodeUnit false l = u) (l : List Bytes) :
    (((testCdcRun 3 id).cdc 0 0).fed l).unit = u := by
  have e : (((testCdcRun 3 id).cdc 0 0).fed l).av1 = ((testCdcRun 3 id).cdc 0 0).av1 := rfl
  have f : ((testCdcRun 3 id).cdc 0 0).av1 = false := by decide +kernel
  rw [CdcSes.unit, e, f, h]

/-! ### Power states and bring-up -/

/-- Partition 0 in state `l` of the ladder, quiet for 16 beats, allowed to go to `depth`, with no delay before L2 and L3. -/
def testLadder (l depth : Nat) : State :=
  let s := testOn.setFld rPwrPtnState 0 0 2 0 l
  let s := (s.setFld rPwrPtnState 0 0 9 8 depth).setFld rPwrPtnState 0 0 31 16 0
  { s with power := { s.power with ladder := [(0, { quiet := 16 })] } }

theorem witness_PowerLadder :
    (testLadder 0 1).mgmt.powerGood = true ∧
    (let s := testLadder 0 1
     s.present 0 = true ∧ s.lstate 0 = 0 ∧ 1 ≤ s.maxDepth 0 ∧ 16 ≤ (s.ladder 0).quiet) ∧
    (let s := testLadder 1 2
     s.lstate 0 = 1 ∧ 2 ≤ s.maxDepth 0 ∧ s.dozes 0 = true ∧ s.fld rPwrPtnState 0 0 23 16 * 2 ^ 20 ≤ s.since (s.ladder 0).since) ∧
    (let s := testLadder 2 3
     s.lstate 0 = 2 ∧ s.maxDepth 0 = 3 ∧ s.dozes 0 = true ∧ s.fld rPwrPtnState 0 0 31 24 * 2 ^ 20 ≤ s.since (s.ladder 0).since) ∧
    (testLadder 3 3).present 0 = true ∧ (testLadder 3 3).lstate 0 = 3 ∧ (testLadder 0 0).maxDepth 0 = 0 := by
  decide +kernel

/-- Phase `n` with RESULT `r`. -/
def testPhase (n r : Nat) : State := testOn.setFld rMgtBuPhase 0 (n - 1) 63 60 r

/-- A firmware class with two equal slots, which verify or do not. -/
def testSlots (ok : Bool) : FwSlot × FwSlot :=
  let x : FwSlot := { staging := 0, svn := 0, verified := ok, digest := 0 }
  (x, x)

/-- A carrier of eight dies of 61,035,156 blocks. -/
def testCarrier : CarrierIn :=
  { bytes := leBytes 4 0x52435947 ++ leBytes 2 1 ++ List.replicate 15 0#8 ++ leBytes 1 8 ++ List.replicate 10 0#8 ++ leBytes 4 61035156 ++
      List.replicate 604 0#8, sigOk := true, bbmDigest := 0 }

theorem witness_BringUpPhases :
    (({} : State).mgmt.powerGood = false ∧ ({} : State).mgmt.standby = false) ∧
    (testOn.mgmt.powerGood = true ∧ testOn.mgmt.staggered = false ∧ testOn.fld rMgtBringup 0 0 35 16 ≤ testOn.mgmt.sincePg) ∧
    (let s := testPhase 1 1
     let slots := List.replicate 5 (testSlots true)
     s.phase 1 = 1 ∧ slots.length = 5 ∧ bootAll s.svn 1 (List.replicate 5 (testSlots false)) = none ∧
      (bootAll s.svn 1 slots).isSome = true ∧
      (bootAll s.svn 1 slots).all (fun fw =>
        let t : State := { s with sec := { s.sec with fw := fw, hasAlias := true } }
        let pair := (t.fwDigest 1, t.fwDigest 2)
        let u := { t with sec := { t.sec with pairs := if t.sec.pairs.contains pair then t.sec.pairs else pair :: t.sec.pairs } }
        let fall := fw.foldl (fun v (e : Nat × FwClass) => if e.2.older then v + 2 ^ (e.1 - 1) else v) 0
        let u := (u.setFld rSecStatus 0 0 11 7 fall).setFld rSecStatus 0 0 1 0 (if fall = 0 then 1 else 2)
        u.phase 1 == 1) = true) ∧
    (∀ n ∈ [2, 3, 4, 5, 6, 7, 8, 9], (testPhase n 1).mgmt.powerGood = true ∧ (testPhase n 1).phase n = 1) ∧
    (let s := (testPhase 5 1).upBoot fun b => { b with carrier := some testCarrier }
     let m : MountIn := { energy := 200, journalOk := true, creditMiB := 0, chargedBytes := 0, avgPe := 0, spares := [], journalSpare := 100 }
     s.phase 5 = 1 ∧ (testPhase 5 1).boot.carrier = none ∧ s.boot.carrier = some testCarrier ∧ carrierOk testCarrier = true ∧
      testCarrier.bbmDigest.toNat = beNat ((testCarrier.bytes.drop 0x30).take 32) ∧ 120 ≤ m.energy * 100 / 140 ∧ m.journalOk = true) ∧
    testOn.phase 9 ≠ 1 := by
  decide +kernel

/-- Phase `n` with RESULT `r`, and ports 0 and 15 UP. -/
def testUp (n r : Nat) (f : Boot → Boot) : State :=
  (((testPhase n r).setFld rLnkPStatus 0 0 2 0 PS.up).setFld rLnkPStatus 0 15 2 0 PS.up).upBoot f

theorem witness_HiveAndApiary :
    (let s := testUp 10 1 id
     let now := (helloSet 7 1 []).foldl (fun t (e : Nat × Nat) => if e.1 < 16 then Tbl.put t e.1 e.2 else t) s.boot.heard
     s.mgmt.powerGood = true ∧ s.pup 0 = true ∧ s.pup 15 = true ∧ now ≠ s.boot.heard ∧ s.phase 10 ≠ 0 ∧ s.phaseOver 10 = false ∧
      s.phase 10 = 1 ∧ s.boot.hiveFixed = false ∧ s.hiveAgrees = false ∧ s.mgmt.sincePg < s.fld rMgtBuPhase 0 9 31 0 + 488281) ∧
    (let s := testUp 10 1 fun b => { b with heard := [(1, 7)], reports := [(0, [(1, 7)])] }
     let now := (helloSet 7 1 []).foldl (fun t (e : Nat × Nat) => if e.1 < 16 then Tbl.put t e.1 e.2 else t) s.boot.heard
     s.pup 0 = true ∧ now = s.boot.heard ∧ s.phase 10 = 1 ∧ s.hiveAgrees = true ∧ s.boot.hiveFixed = false) ∧
    (let s := testUp 11 1 fun b => { b with cand := some 7 }
     s.pup 0 = true ∧ s.boot.elected = false ∧ s.boot.cand = some (minSerial 9 s.boot.cand) ∧ s.boot.cand ≠ some (minSerial 5 s.boot.cand) ∧
      (let u := { s with mgmt := { s.mgmt with sincePg := 166016 } }
       u.phase 11 = 1 ∧ u.boot.elected = false ∧ u.boot.candBeat + 166016 ≤ u.mgmt.sincePg)) ∧
    (let s := testUp 11 1 fun b => { b with elected := true }
     s.pup 0 = true ∧ s.phase 11 ≠ 5 ∧ s.boot.coords = none ∧ s.boot.elected = true) ∧
    (let s := testUp 11 1 fun b => { b with coords := some (2, 3) }
     s.pup 0 = true ∧ s.phase 11 = 1 ∧ s.phase 11 ≠ 5 ∧ s.boot.coords = some (impliedCoords 0 2 3) ∧ s.boot.coords = some (2, 3) ∧ s.pup 15 = true ∧
      impliedCoords 15 0 0 ≠ (2, 3) ∧ s.boot.coords.isSome = true ∧ s.boot.refAddr ≠ some (5#12).toNat ∧ s.phaseOver 11 = false) ∧
    (let s := testUp 11 2 fun b => { b with coords := some (2, 3) }
     s.pup 0 = true ∧ s.boot.coords.isSome = true ∧ s.boot.refAddr ≠ some (5#12).toNat ∧ s.phaseOver 11 = true ∧ s.phase 11 ≠ 5) ∧
    (let s := testUp 12 1 id
     s.phase 12 = 1 ∧ s.mgmt.adopted = false ∧ { s.mgmt with adopted := true }.adopted = true) := by
  decide +kernel

/-! ### Time, the management bus and register accesses -/

theorem witness_TimeBase :
    (testOn.mgmt.powerGood = true ∧ testOn.mgmt.adopted = false ∧ testOn.mgmt.drift < 16 ∧ testOn.fld rMgtSb3 0 0 1 0 ≠ 1) ∧
    (let s : State := { testOn with mgmt := { testOn.mgmt with beat := 2 ^ 20, awaiting := true, adopted := true, drift := 16 } }
     s.mgmt.beat % 2 ^ 20 = 0 ∧ s.mgmt.epochSeen ≠ s.epoch ∧ s.mgmt.beat ≠ 0 ∧ s.mgmt.awaiting = true ∧ s.mgmt.adopted = true ∧ 16 ≤ s.mgmt.drift ∧
      (s.setFld rMgtTimeAlign 0 0 31 30 1).fld rMgtTimeAlign 0 0 31 30 = 1 ∧ 16 ≤ (s.setFld rMgtTimeAlign 0 0 31 30 1).mgmt.drift) ∧
    (let s : State := { testOn with mgmt := { testOn.mgmt with beat := 1 } }
     s.mgmt.beat % 2 ^ 20 ≠ 0) ∧
    (let s := (testPhase 12 1).upBoot fun b => { b with exch := 4, nbrs := [testOn.refPort] }
     s.mgmt.adopted = false ∧ s.anyReady = false ∧ s.phase 12 = 1 ∧ 4 ≤ s.boot.exch ∧ s.boot.nbrs.contains s.refPort = true) ∧
    (let s := testOn.setFld rMgtTimeAlign 0 0 31 30 3
     s.fld rMgtTimeAlign 0 0 31 30 = 3 ∧ s.offBeyond = false) ∧
    (testOn.setFld rMgtSb3 0 0 1 0 1).fld rMgtSb3 0 0 1 0 = 1 ∧
    (let s : State := { testOn.setFld rMgtPpsStatus 0 0 31 31 1 with mgmt := { testOn.mgmt with beat := 245001 } }
     s.fld rMgtPpsStatus 0 0 31 31 = 1 ∧ 245000 < s.since (s.rd rMgtPpsBeat 0 0) ∧ s.mgmt.ppsMissed = false ∧
      testOn.since (testOn.rd rMgtPpsBeat 0 0) ≤ 245000) := by
  decide +kernel

theorem witness_TelemetryAndManagementBus :
    (∀ w ∈ [0, 16], let s : State := { testOn.setFld rMgtTelCfg 0 0 31 31 1 with
       mgmt := { testOn.mgmt with busMaster := true }, tel := { due := some (1, []), written := w } }
     let s := s.setFld rMgtTelCfg 0 0 4 0 4
     s.mgmt.powerGood = true ∧ s.tel.due = some (1, []) ∧ s.fld rMgtTelCfg 0 0 31 31 = 1 ∧ s.busMaster 0 = true ∧ s.fld rMgtTelCfg 0 0 4 0 = 4 ∧
      ((w + 2 ^ 64 - s.tel.head) % 2 ^ 64 < 2 ^ 4 ↔ w = 0)) ∧
    (∀ tripped ∈ [true, false], let s : State := { mgmt := { standby := true, tripped := tripped } }
     s.mgmt.standby = true ∧ s.mgmt.tripped = tripped) ∧
    testOn.mgmt.standby = false ∧
    (let s := testPhase 2 2
     s.mgmt.powerGood = true ∧ s.mgmt.perst = false ∧ s.phaseOver 2 = true ∧ 1 ≤ 4 ∧ 4 ≤ 6 ∧ 8 ∈ ([1, 2, 4, 8, 16] : List Nat)) := by
  decide +kernel

theorem witness_RegisterAccesses :
    testOn.mgmt.powerGood = true ∧ testOn.tdiOpen 1 = true ∧ alignedAccess 2 4 = false ∧ 0x7FFFFC % 4 = 0 ∧ findReg 0 0x7FFFFC regMap = none ∧
      findReg 0 0x120 regMap = some (rMgtPpsStatus, 0, 0) ∧ rMgtPpsStatus.width = 4 ∧
      findReg 0 0x118 regMap = some (rMgtPpsBeat, 0, 0) ∧ findReg 0 0x11C regMap = some (rMgtPpsBeat, 0, 4) ∧ rMgtPpsBeat.width = 8 ∧
      (let s : State := { testOn with stage := [(rMgtPpsBeat.key 0 0, 5)] }
       Tbl.find s.stage (rMgtPpsBeat.key 0 0) = some 5) ∧
      alignedAccess 4096 8 = true ∧ testOn.d3hot 0 = false ∧ 0x3C < 4096 ∧ 0x3C % 4 = 0 ∧
      testOn.phaseOver 2 = false ∧ (testPhase 2 2).phaseOver 2 = true ∧ ideReg 0 0x314 = some (1, 0) ∧ ideReg 1 0x3C = none ∧
      (∀ st ∈ [1, 2], let s := (testPhase 2 2).setTdi 1 st
       s.mgmt.powerGood = true ∧ s.phaseOver 2 = true ∧ ((s.tdi 1).state = 1 ∨ (s.tdi 1).state = 2) ∧ tdiGuards 0x10 = true ∧ tdiGuards 0x58 = true ∧ tdiGuards 0x3C = false) ∧
      ¬ (1 ≠ 0 ∧ (((testPhase 2 2).tdi 1).state = 1 ∨ ((testPhase 2 2).tdi 1).state = 2)) := by
  decide +kernel
end

section
/-! PROOF. Shared memories: what a memory-side add, the end of an SLM split and a host window access leave (O31). -/

namespace Sys2Proof.Machine

/-! ### The commands -/

theorem exec_memorySideAdd (s : State) (p va : Nat) (t : DType) (mask : BitVec 32) (addends : Bytes) (h : s.mgmt.powerGood = true) :
    exec (.memorySideAdd p va t mask addends) s = .next (memorySideAdd p va t mask addends s) :=
  State.live_on s _ h

theorem exec_slmSplitDone (s : State) (p : Nat) (h : s.mgmt.powerGood = true) :
    exec (.slmSplitDone p) s = .next (slmSplitDone p s) :=
  State.live_on s _ h

theorem exec_hostWindowAccess (s : State) (p : Nat) (a : WinAccess) (h : s.mgmt.powerGood = true) :
    exec (.hostWindowAccess p a) s = .next (hostWindowAccess p a s) :=
  State.live_on s _ h

/-! ### Memory-side adds and SLM splits -/

/-- An addition whose page its check pins reaches the adders (R271, R272). -/
theorem memorySideAdd_pinned (s : State) (p va : Nat) (t : DType) (mask : BitVec 32) (addends : Bytes) (ht : t ≠ .fp64)
    (hr : (s.pt p).inRange [(va, 64)] = true) (hp : s.residOf p (pageOf va) true = .pin) :
    memorySideAdd p va t mask addends s = ((s.touchPage p (pageOf va) true).memAdd p va t mask addends).1 := by
  simp [memorySideAdd, ht, hr, hp]

/-- A split that is being formed takes effect (R278); its RESULT is DONE, which is 0. -/
theorem slmSplitDone_forming (s : State) (p v : Nat) (h : (s.pt p).splitNew = some v) :
    slmSplitDone p s = (((s.give rMemSlmSplitPtn 0 p v).noteSetting (0x500000 + 8 * p)).upPt p fun q =>
      { q with splitNew := none, live := { q.live with slm := [], slmBad := [] } }).clearStores p := by
  have hv : Code.done * 65536 + v = v := by simp [Code.done]
  simp only [slmSplitDone, h, hv]

/-! ### Host window accesses -/

/-- The device virtual address that an access to the host window reaches (R314). -/
def State.winAddr (s : State) (p : Nat) (a : WinAccess) : Nat := s.fld rPtnHostwin (p + 1) 0 47 30 * 2 ^ 30 + a.off

/-- The pages that an access to the host window touches. -/
def State.winPages (s : State) (p : Nat) (a : WinAccess) : List Nat := pagesOf [(s.winAddr p a, a.len)]

/-- The window serves the access: it lies within BAR4 of a READY function that is reachable, with its window open on a job, and touches
nothing but unbound pages of DATA and KV regions (R312, R314, R316). -/
structure WinServes (s : State) (p : Nat) (a : WinAccess) : Prop where
  bar : a.off + a.len ≤ s.barSize (p + 1) 4
  ready : s.funcState p = .ready
  tdi : s.tdiOpen (p + 1) = true
  shown : s.fld rPtnHostwin (p + 1) 0 0 0 = 1
  job : (s.pt p).job ≠ .noJob
  opened : (s.pt p).job ≠ .opening
  range : (s.pt p).inRange [(s.winAddr p a, a.len)] = true
  pages : ∀ n ∈ s.winPages p a, ((s.pt p).kind n = 1 ∨ (s.pt p).kind n = 3) ∧ (s.pt p).pageBound n = false

namespace WinServes

variable {s : State} {p : Nat} {a : WinAccess} (h : WinServes s p a)
include h

theorem within_bar : ¬ s.barSize (p + 1) 4 < a.off + a.len := Nat.not_lt.mpr h.bar

theorem pages_served : (s.winPages p a).any (fun n => ((s.pt p).kind n != 1 && (s.pt p).kind n != 3) || (s.pt p).pageBound n) = false := by
  rw [List.any_eq_false]
  intro n hm
  obtain ⟨hk | hk, hb⟩ := h.pages n hm <;> simp [hk, hb]

/-- None of the conditions of an Unsupported Request holds (R314). -/
theorem not_unsupported : ¬ (s.funcState p ≠ .ready ∨ s.tdiOpen (p + 1) = false ∨ s.fld rPtnHostwin (p + 1) 0 0 0 = 0 ∨
    (s.pt p).job = .noJob ∨ (s.pt p).job = .opening ∨ (s.pt p).inRange [(s.winAddr p a, a.len)] = false ∨
    (s.winPages p a).any (fun n => ((s.pt p).kind n != 1 && (s.pt p).kind n != 3) || (s.pt p).pageBound n) = true) := by
  simp only [h.ready, h.tdi, h.shown, h.job, h.opened, h.range, h.pages_served, ne_eq, not_true_eq_false, or_self, Nat.one_ne_zero,
    Bool.true_eq_false, Bool.false_eq_true, not_false_eq_true]

/-- An access that a page stops is not performed: a read answers all ones (R315). -/
theorem stopped {n : Nat} (hs : (s.wake p).winStop p a.wr.isSome (s.winPages p a) = some n) :
    hostWindowAccess p a s =
      if a.wr.isSome then (s.wake p).winMissed p n (s.winPages p a)
      else ((s.wake p).winMissed p n (s.winPages p a)).emit (.window p (some (List.replicate a.len 0xff#8))) := by
  rw [hostWindowAccess, if_neg h.within_bar]
  refine (if_neg h.not_unsupported).trans ?_
  simp only [State.winPages, State.winAddr, -Nat.reducePow] at hs ⊢
  cases hw : a.wr with
  | none =>
    rw [hw, Option.isSome_none] at hs
    simp [hs, -Nat.reducePow]
  | some bs =>
    rw [hw, Option.isSome_some] at hs
    simp [hs, -Nat.reducePow]

/-- A read that meets no bad word pins the pages, answers their bytes and unpins them. -/
theorem read_clean (hw : a.wr = none) (hs : (s.wake p).winStop p false (s.winPages p a) = none)
    (hb : (s.wake p).dvBadIn p [(s.winAddr p a, a.len)] = []) :
    hostWindowAccess p a s =
      let t := (s.winPages p a).foldl (fun t n => t.pinUnit p n false) (s.wake p)
      (s.winPages p a).foldl (fun t n => t.unpinUnit p n false) (t.emit (.window p (some (t.dvRead p (s.winAddr p a) a.len)))) := by
  rw [hostWindowAccess, if_neg h.within_bar]
  refine (if_neg h.not_unsupported).trans ?_
  simp only [State.winPages, State.winAddr, -Nat.reducePow] at hs hb ⊢
  simp [hw, hs, hb, -Nat.reducePow]

/-- A read that meets a bad word stops there. -/
theorem read_bad (hw : a.wr = none) (hs : (s.wake p).winStop p false (s.winPages p a) = none) {u : Nat} {us : List Nat}
    (hb : (s.wake p).dvBadIn p [(s.winAddr p a, a.len)] = u :: us) :
    hostWindowAccess p a s = ((s.wake p).meetBad p u).emit (.window p none) := by
  rw [hostWindowAccess, if_neg h.within_bar]
  refine (if_neg h.not_unsupported).trans ?_
  simp only [State.winPages, State.winAddr, -Nat.reducePow] at hs hb
  simp [hw, hs, hb, -Nat.reducePow]

/-- A write of as many bytes as the access has pins the pages, writes and unpins them. -/
theorem write {bs : Bytes} (hw : a.wr = some bs) (hl : bs.length = a.len) (hs : (s.wake p).winStop p true (s.winPages p a) = none) :
    hostWindowAccess p a s = (s.winPages p a).foldl (fun t n => t.unpinUnit p n true)
      (((s.winPages p a).foldl (fun t n => t.pinUnit p n true) (s.wake p)).winWrite p (bwrites (s.winAddr p a) bs)) := by
  rw [hostWindowAccess, if_neg h.within_bar]
  refine (if_neg h.not_unsupported).trans ?_
  simp only [State.winPages, State.winAddr, -Nat.reducePow] at hs ⊢
  simp [hw, hs, hl, -Nat.reducePow]

end WinServes

/-- Settles O31: each row's command, by the lemma of its case. -/
theorem sharedMemoryRows : Obligations.SharedMemoryRows := by
  unfold Obligations.SharedMemoryRows
  intro s p va v t mask addends a hp
  rw [exec_memorySideAdd _ _ _ _ _ _ hp, exec_slmSplitDone _ _ hp, exec_hostWindowAccess _ _ _ hp]
  refine ⟨fun ht hr hpin => congrArg _ (memorySideAdd_pinned s p va t mask addends ht hr hpin),
    fun hv => congrArg _ (slmSplitDone_forming s p v hv), ?_⟩
  intro wa ns hbar hready htdi hshown hjob hopened hrange hpages w
  have h : WinServes s p a := ⟨hbar, hready, htdi, hshown, hjob, hopened, hrange, hpages⟩
  exact ⟨fun n hs => congrArg _ (h.stopped hs), fun hw hs hb => congrArg _ (h.read_clean hw hs hb),
    fun u us hw hs hb => congrArg _ (h.read_bad hw hs hb), fun bs hw hl hs => congrArg _ (h.write hw hl hs)⟩

end Sys2Proof.Machine
end

section
/-! PROOF. Triggered operations, the packets they send and their completion (O51). -/

namespace Sys2Proof.Machine

/-! ### Operations that start (R409, R410, R412) -/

/-- PUT and ADD with their pages ready pin them, read the source and send it. -/
theorem putStart_ready (s t : State) (p ptype : Nat) (o : COp)
    (h : s.opPages p (unitOfOp o.q o.n) (pagesOf [(o.src, o.count)]) [] [(o.src, o.count)] = .ready t) :
    putStart p ptype s o =
      let pages := pagesOf [(o.src, o.count)]
      let u := pages.foldl (fun u n => u.pinUnit p n false) t
      let o' := { o with armed := some u.mgmt.beat, pins := pages }
      let r := (u.upOp p o.q o.n fun _ => o').sendBytes (o.count / 256 + 1) p o' (u.peerAddr p o) ptype o.dst
        (u.dvRead p o.src o.count) none
      if r.2 then r.1 else r.1.finishOp p o' Code.routeLost := by
  simp only [putStart, h]

/-- The row of an operation starts the entry that it is the turn of. -/
theorem live_opRow_starts {s : State} {p q n : Nat} {o : COp} (hp : s.mgmt.powerGood = true) (h : s.opStarts p q n o)
    (isOp : COp → Bool) (f : State → COp → State) (ho : isOp o = true) :
    s.live (fun s => s.opRow p q n isOp f) = .next (f s o) :=
  (State.live_on s _ hp).trans (congrArg _ (s.opRow_starts p q n o isOp f h ho))

/-! ### Operations of a FAILED group (R410) -/

/-- Entry `n` of queue `q` is `o`, which has not started, and the queue's group has FAILED. -/
structure OpGroupFailed (s : State) (p q n : Nat) (o : COp) : Prop where
  entry : (s.pt p).col.find q n = some o
  unfinished : o.done = false
  unarmed : o.armed = none
  unready : o.ready = none
  failed : s.grpState p (s.cqGroup p q) = 3

/-- Whatever its row, such an operation ends GROUP_FAILED. -/
theorem OpGroupFailed.live_opRow {s : State} {p q n : Nat} {o : COp} (h : OpGroupFailed s p q n o) (hp : s.mgmt.powerGood = true)
    (isOp : COp → Bool) (f : State → COp → State) (ho : isOp o = true) :
    s.live (fun s => s.opRow p q n isOp f) = .next (s.finishOp p o Code.groupFailed) :=
  (State.live_on s _ hp).trans
    (congrArg _ (s.opRow_failed p q n o isOp f h.entry h.unfinished h.unarmed h.unready h.failed ho))

/-! ### Completion and timeout (R411, R413) -/

section
variable {s : State} {p q n b : Nat} {o : COp} (hf : (s.pt p).col.find q n = some o) (hd : o.done = false) (hb : o.armed = some b)
include hf hd hb

/-- An operation whose outcome is known completes with it. -/
theorem operationComplete_ready (st r : Nat) (hr : o.ready = some r) :
    operationComplete p q n st s = (s.finishOp p o r).takeEntries 64 p q := by
  simp [operationComplete, hf, hd, hb, hr]

/-- No acknowledgement carries a reserved code (R14). -/
theorem operationComplete_reserved (st : Nat) (hr : o.ready = none) (hk : Code.known st = false) :
    operationComplete p q n st s = s := by
  simp [operationComplete, hf, hd, hb, hr, hk]

/-- The acknowledgements of a PUT, ADD or CTR_ADD complete it before its timeout is due. -/
theorem operationComplete_acked (st : Nat) (hr : o.ready = none) (ho : o.op ≤ 0x03) (hk : Code.known st = true)
    (ht : s.opDue o = false) : operationComplete p q n st s = (s.finishOp p o st).takeEntries 64 p q := by
  simp [operationComplete, hf, hd, hb, hr, ho, hk, ht]

/-- A timeout that has fallen due ends the operation TIMEOUT, and a data collective fails its group. -/
theorem operationTimeout_due (hr : o.ready = none) (ht : o.timeout ≠ 0) (hl : b + o.timeout < s.mgmt.beat) :
    operationTimeout p q n s =
      let u := s.finishOp p o Code.timeout
      if o.isColl then u.setGrp p (u.cqGroup p q) 3 else u := by
  have hdue : s.opDue o = true := by simp [State.opDue, hb, ht, hl]
  simp [operationTimeout, hf, hd, hr, hdue]

end

/-! ### Packets that arrive (R412) -/

section
variable {s : State} {m : Packet} (hc : s.came m = true)
include hc

/-- A packet for a partition without a job is dropped. -/
theorem packetArrival_noJob (hj : (s.pt m.dptn).job = .noJob) : packetArrival m s = s.took m := by
  simp [packetArrival, hc, hj]

variable (hp : s.present m.dptn = true) (hj : (s.pt m.dptn).job ≠ .noJob)
include hp hj

/-- One for a partition in L2 or L3 wakes it and waits (R531). -/
theorem packetArrival_wakes (ha : s.awake m.dptn = false) : packetArrival m s = s.setL m.dptn 1 := by
  simp [packetArrival, hc, hp, hj, ha, State.wake]

variable (ha : s.awake m.dptn = true)
include ha

/-- A CTR packet's increment is made and acknowledged. -/
theorem packetArrival_increment (ht : m.ptype = 4) :
    packetArrival m s = ((s.took m).bumpTrig m.dptn (m.rctr % 256) m.inc).emit (.ack m Code.done) := by
  simp [packetArrival, hc, hp, hj, ha, ht]

/-- What a PUT or ADD packet brings lands, its trigger counter rises if it landed whole, and its status is acknowledged. -/
theorem packetArrival_lands (ht : m.ptype = 1 ∨ m.ptype = 2) (hm : m.coll = none) {u : State} {st : Nat}
    (hl : s.land m.dptn m = (u, some st)) :
    packetArrival m s =
      ((if m.rctrEn = true ∧ st = Code.done then u.bumpTrig m.dptn (m.rctr % 256) 1 else u).took m).emit (.ack m st) := by
  have ht4 : m.ptype ≠ 4 := by omega
  have htd : ¬ (m.ptype ≠ 1 ∧ m.ptype ≠ 2) := by omega
  simp only [packetArrival, hc, hp, hj, ha, ht4, htd, hm, hl, Bool.true_eq_false, or_self, if_false]

end

/-- Settles O51: each command by the lemma of its case. -/
theorem triggeredOperations : Obligations.TriggeredOperations := by
  unfold Obligations.TriggeredOperations
  intro s t p q n o a m hp
  refine ⟨?_, ?_, ?_, ?_, ?_, ?_, ?_⟩
  · intro pages u o' sent end_ h hr
    exact ⟨fun ho => (live_opRow_starts hp h _ (putStart p 1) (by simp [ho])).trans (congrArg _ (putStart_ready s t p 1 o hr)),
      fun ho => (live_opRow_starts hp h _ (putStart p 2) (by simp [ho])).trans (congrArg _ (putStart_ready s t p 2 o hr))⟩
  · intro o' r h
    exact ⟨fun ho => live_opRow_starts hp h _ _ (by simp [ho]), fun ho => live_opRow_starts hp h _ _ (by simp [ho])⟩
  · intro hf hd ha hr hg
    have h : OpGroupFailed s p q n o := ⟨hf, hd, ha, hr, hg⟩
    exact ⟨fun ho => h.live_opRow hp _ _ (by simp [ho]), fun ho => h.live_opRow hp _ _ (by simp [ho]),
      fun ho hfn => h.live_opRow hp _ _ (by simp [ho, hfn]), fun ho => h.live_opRow hp _ _ (by simp [ho])⟩
  · intro hf hd b hb
    have completes : exec (.operationComplete p q n a) s = .next (operationComplete p q n a.status.toNat s) := State.live_on s _ hp
    have expires : exec (.operationTimeout p q n) s = .next (operationTimeout p q n s) := State.live_on s _ hp
    rw [completes, expires]
    exact ⟨fun st hr => congrArg _ (operationComplete_ready hf hd hb _ st hr),
      fun hr hk => congrArg _ (operationComplete_reserved hf hd hb _ hr hk),
      fun hr ho hk ht => congrArg _ (operationComplete_acked hf hd hb _ hr ho hk ht),
      fun hr ht hl => congrArg _ (operationTimeout_due hf hd hb hr ht hl)⟩
  all_goals
    rintro rfl hc hpr hj
    have arrives : exec (.packetArrival m) s = .next (packetArrival m s) := State.live_on s _ hp
    rw [arrives]
  · exact congrArg _ (packetArrival_noJob hc hj)
  · exact fun ha => congrArg _ (packetArrival_wakes hc hpr hj ha)
  · exact fun ha => ⟨fun ht => congrArg _ (packetArrival_increment hc hpr hj ha ht),
      fun ht hm u st hl => congrArg _ (packetArrival_lands hc hpr hj ha ht hm hl)⟩

end Sys2Proof.Machine
end

section
/-! PROOF. Register accesses: a written configuration word reads back while the table of configuration words is canonical, and not
when it lists a word twice (O60). -/

namespace Sys2Proof.Machine

/-! ### A configuration word after it is set -/

theorem Tbl.find_of_lt {α : Type} : ∀ (lo k : Nat) (t : Tbl α), k < lo → Tbl.rising lo t → Tbl.find t k = none
  | _, _, [], _, _ => rfl
  | lo, k, (a, w) :: t, hk, h => by
    have hka : k < a := by have := h.1; omega
    simp [Tbl.find, hka, Nat.ne_of_lt hka]

theorem Tbl.find_del_self {α : Type} : ∀ (lo k : Nat) (t : Tbl α), Tbl.rising lo t → Tbl.find (Tbl.del t k) k = none
  | _, _, [], _ => rfl
  | lo, k, (a, w) :: t, h => by
    rcases Nat.lt_trichotomy k a with hka | rfl | hka
    · simp [Tbl.del, Tbl.find, hka, Nat.ne_of_lt hka]
    · simp [Tbl.del, Tbl.find_of_lt (k + 1) k t (Nat.lt_succ_self k) h.2]
    · simp [Tbl.del, Tbl.find, Nat.not_lt_of_gt hka, Nat.ne_of_gt hka, Tbl.find_del_self (a + 1) k t h.2]

theorem State.cfgRd_setCfg (s : State) (fn off v : Nat) (h : Tbl.rising 0 s.cfg) :
    (s.setCfg fn off v).cfgRd fn off = v % 2 ^ 32 := by
  by_cases hv : v % 2 ^ 32 = cfgReset off
  · rw [State.setCfg, if_pos hv, State.cfgRd, Tbl.find_del_self 0 _ _ h]
    exact hv.symm
  · rw [State.setCfg, if_neg hv, State.cfgRd, Tbl.find_put_self]
    exact BitVec.toNat_ofNat _ _

/-! ### The bits that software may write -/

theorem State.cfgRw_lt (s : State) (fn off : Nat) : s.cfgRw fn off < 2 ^ 32 := by
  have pick {c : Prop} [Decidable c] {a b : Nat} (ha : a < 2 ^ 32) (hb : b < 2 ^ 32) : (if c then a else b) < 2 ^ 32 := by
    split <;> assumption
  have hbar : s.barMask fn off < 2 ^ 32 := pick (by decide) (Nat.mod_lt _ (by decide))
  unfold State.cfgRw
  refine pick (by decide) (pick hbar ?_)
  repeat' apply pick
  all_goals decide

/-- Bits taken from `v` under a mask, beside bits of `old` outside it, read back under the mask. -/
theorem masked_read_back (v old rw x n : Nat) (h : rw < 2 ^ n) :
    ((v &&& rw) ||| (old &&& (2 ^ n - 1 - rw) &&& x)) % 2 ^ n &&& rw = v &&& rw := by
  apply Nat.eq_of_testBit_eq
  intro i
  have hc : (2 ^ n - 1 - rw).testBit i = (decide (i < n) && !rw.testBit i) := by
    rw [Nat.sub_sub, Nat.add_comm, Nat.testBit_two_pow_sub_succ h]
  have hlt : rw.testBit i = true → i < n := fun hb => by
    refine Nat.lt_of_not_le fun hn => ?_
    have hsmall : rw < 2 ^ i := Nat.lt_of_lt_of_le h (Nat.pow_le_pow_right Nat.zero_lt_two hn)
    rw [Nat.testBit_lt_two_pow hsmall] at hb
    exact Bool.false_ne_true hb
  simp only [Nat.testBit_and, Nat.testBit_or, Nat.testBit_mod_two_pow, hc]
  cases hb : rw.testBit i
  · simp
  · simp [hlt hb]

/-- What O60 says of a configuration write holds while the table of configuration words is canonical: the bits that software may write
read back as written (R310). -/
theorem State.cfgRd_cfgStore (s : State) (fn off v : Nat) (h : Tbl.rising 0 s.cfg) :
    (s.cfgStore fn off v).cfgRd fn off &&& s.cfgRw fn off = v &&& s.cfgRw fn off := by
  rw [State.cfgStore, State.cfgRd_setCfg _ _ _ _ h]
  exact masked_read_back _ _ _ _ 32 (s.cfgRw_lt fn off)

/-! ### A table that lists a word twice -/

/-- A module whose phase 2 of bring-up has ended and whose table of configuration words lists PF0's interrupt line word twice. No run from
reset comes to such a table: it changes by `State.setCfg` and `State.clearSpace` alone, which insert, remove or filter in key order. -/
def twiceListed : State :=
  { mgmt := { powerGood := true }, regs := [(rMgtBuPhase.key 0 1, 0x2000000000000000)], cfg := [(0x3C, 5), (0x3C, 7)] }

/-- Writing 0, the reset value, removes the first listing, and the second shows. -/
theorem twiceListed_reads_stale :
    (twiceListed.cfgStore 0 0x3C 0).cfgRd 0 0x3C &&& twiceListed.cfgRw 0 0x3C ≠ 0 &&& twiceListed.cfgRw 0 0x3C := by
  decide +kernel

/-- Refutes O60: the statement speaks of every state, also of one whose table of configuration words is not canonical. Where the table
lists a word twice, a write of the word's reset value unlists it once only, and the word does not read as it was written. On canonical
tables it does (`State.cfgRd_cfgStore`). -/
theorem not_registerAccesses : ¬ Obligations.RegisterAccesses := by
  unfold Obligations.RegisterAccesses
  rintro ⟨-, hcfg, -⟩
  obtain ⟨-, -, -, hwrite, -⟩ := hcfg twiceListed 0 0x3C 0 rfl (by decide) (by decide) (by decide)
  obtain ⟨hexec, hnext⟩ := hwrite (by decide +kernel) rfl (by decide) (by simp)
  exact twiceListed_reads_stale (hnext _ hexec).1

end Sys2Proof.Machine
end

section
/-! PROOF. A change of the partition shape: when it begins, when it is refused and what it forms (O38). -/

namespace Sys2Proof.Machine

/-! ### A request at the boundary (R24, R25) -/

section
variable {s : State} {r b : Nat} (hreq : s.mgmt.shapeReq = some (r, b)) (hb : s.since b ≠ 0)
include hreq hb

theorem shapeChange_held (hh : s.shapeHeld = true) :
    shapeChange s = { s with mgmt := { s.mgmt with shapeReq := none } }.setFld rMgtPtnShape 0 0 23 8 Code.resourceHeld := by
  simp only [shapeChange, hreq, hb, hh, if_true, if_false]

theorem shapeChange_begins (hh : s.shapeHeld = false) :
    shapeChange s =
      ({ s with mgmt := { s.mgmt with shapeReq := none } }.setFld rMgtPtnShape 0 0 1 0 r).setFld rMgtPtnShape 0 0 7 7 1 := by
  simp only [shapeChange, hreq, hb, hh, Bool.false_eq_true, if_false]

end

/-! ### The partitions that it forms (R25) -/

/-- Operations that leave the partitions as they are do so in a row. -/
theorem foldl_ptn (f : State → Nat → State) (hf : ∀ s p, (f s p).ptn = s.ptn) (s : State) (l : List Nat) :
    (l.foldl f s).ptn = s.ptn := by
  induction l generalizing s with
  | nil => rfl
  | cons p l ih => rw [List.foldl_cons, ih, hf]

theorem Tbl.get_map_range_four {α : Type} (d : α) (f : Nat → α) (p : Nat) (hp : p < 4) :
    Tbl.get d ((List.range 4).map fun q => (q, f q)) p = f p :=
  match p, hp with
  | 0, _ => rfl
  | 1, _ => rfl
  | 2, _ => rfl
  | 3, _ => rfl

@[simp] theorem State.drawHbmKey_ptn (s : State) (p : Nat) : (s.drawHbmKey p).ptn = s.ptn := rfl

@[simp] theorem State.formRegs_ptn (s : State) (p : Nat) : (s.formRegs p).ptn = s.ptn := rfl

@[simp] theorem State.dropEvents_ptn (s : State) (fn : Nat) : (s.dropEvents fn).ptn = s.ptn := rfl

theorem State.formPartitions_ptn (s : State) :
    s.formPartitions.ptn = (List.range 4).map fun p => (p, (s.pt p).formed (s.present p)) := by
  unfold State.formPartitions
  rw [foldl_ptn _ (fun s p => by split <;> simp), foldl_ptn _ State.drawHbmKey_ptn, foldl_ptn _ State.formRegs_ptn]

theorem State.pt_formPartitions (s : State) (p : Nat) (hp : p < 4) :
    s.formPartitions.pt p = (s.pt p).formed (s.present p) := by
  rw [State.pt, State.formPartitions_ptn, Tbl.get_map_range_four _ (fun p => (s.pt p).formed (s.present p)) p hp]

/-- Settles O38: the request by what stands against it, the end of the change by its definition, and each partition as
`Ptn.formed` makes it. -/
theorem shapeChangeRows : Obligations.ShapeChangeRows := by
  unfold Obligations.ShapeChangeRows
  intro s r b hp
  have request : exec .shapeChange s = .next (shapeChange s) := State.live_on s _ hp
  have ending : exec .shapeChangeDone s = .next (shapeChangeDone s) := State.live_on s _ hp
  rw [request, ending]
  refine ⟨fun hreq hb => ⟨fun hh => congrArg _ (shapeChange_held hreq hb hh), fun hh => congrArg _ (shapeChange_begins hreq hb hh)⟩,
    fun hbusy => ?_, fun p hlt => ⟨_, State.pt_formPartitions s p hlt, rfl, rfl, rfl, rfl, rfl, rfl⟩⟩
  simp only [shapeChangeDone, hbusy, Bool.true_eq_false, if_false, Code.done]

end Sys2Proof.Machine
end

section
/-! PROOF. A write of MGT_RESET names a partition that a conventional reset holds: the conventional reset absorbs the request
(R324), and no rollback is asked for (O26). -/

namespace Sys2Proof.Machine

/-! ### Partitions that no conventional reset holds -/

/-- Whether a conventional reset holds a partition is read from the partitions alone. -/
theorem State.hostResets_eq (s t : State) (p : Nat) (h : s.ptn = t.ptn) : s.hostResets p = t.hostResets p := by
  simp only [State.hostResets, State.pt, h]

/-- The request of MGT_RESET brings no conventional reset, and ends none. -/
theorem State.hostResets_wantRollback (s : State) (p q : Nat) : (s.wantRollback q 9).hostResets p = s.hostResets p := by
  by_cases h : p = q
  · subst h
    cases hr : (s.pt p).rollReq <;> simp [State.hostResets, State.wantRollback, hr]
  · simp [State.hostResets, State.wantRollback, State.pt_upPt_ne _ _ _ _ h]

/-- What O26 says a write of MGT_RESET asks of partition `q`: a rollback, if `m` names it and it is not DISCARDING. -/
def State.askReset (m : Nat) (s : State) (q : Nat) : State :=
  if bits m q q = 1 ∧ (s.pt q).func ≠ .discarding then s.wantRollback q 9 else s

theorem State.hostResets_askReset (m : Nat) (s : State) (p q : Nat) : (s.askReset m q).hostResets p = s.hostResets p := by
  unfold State.askReset
  split
  · exact s.hostResets_wantRollback p q
  · rfl

/-- Where no conventional reset holds a partition that `m` names, none is passed over. -/
theorem State.foldl_askReset (m : Nat) (l : List Nat) (s : State) (h : ∀ q ∈ l, bits m q q = 1 → s.hostResets q = false) :
    l.foldl (fun s p => if bits m p p = 1 ∧ (s.pt p).func ≠ .discarding ∧ s.hostResets p = false then s.wantRollback p 9 else s) s =
      l.foldl (State.askReset m) s := by
  induction l generalizing s with
  | nil => rfl
  | cons p l ih =>
    obtain ⟨hp, hl⟩ := List.forall_mem_cons.mp h
    have step : (if bits m p p = 1 ∧ (s.pt p).func ≠ .discarding ∧ s.hostResets p = false then s.wantRollback p 9 else s) =
        s.askReset m p := ite_congr (propext (and_congr_right fun hm => and_iff_left (hp hm))) (fun _ => rfl) fun _ => rfl
    rw [List.foldl_cons, List.foldl_cons, step]
    exact ih _ fun q hq => (s.hostResets_askReset m q p).symm ▸ hl q hq

/-- A write of MGT_RESET with mask `m` is logged, BUSY is set and the mask is kept; RESULT keeps its value (R325). -/
def State.resetRequested (s : State) (m : Nat) : State :=
  let t := (s.logChange 0x408 0 0 m).setFld rMgtReset 0 0 15 15 1
  { t with mgmt := { t.mgmt with resetMask := m } }

@[simp] theorem State.resetRequested_ptn (s : State) (m : Nat) : (s.resetRequested m).ptn = s.ptn := by
  rw [State.resetRequested, State.setFld_ptn, State.logChange_ptn]

/-- An accepted write of MGT_RESET asks every partition that it names and that is not DISCARDING for a rollback, if no conventional reset
holds one of them (R325). -/
theorem mgtResetWrite_accepted (s : State) (v : Nat) (hbusy : s.fld rMgtReset 0 0 15 15 = 0) (hm : bits v 3 0 ≠ 0)
    (hnamed : ∀ q < 4, bits (bits v 3 0) q q = 1 → s.present q = true) (hshape : s.shapeBusy = false)
    (hhost : ∀ q < 4, bits (bits v 3 0) q q = 1 → s.hostResets q = false) (hlog : s.canLog = true) :
    mgtResetWrite v s =
      ((List.range 4).foldl (State.askReset (bits v 3 0)) (s.resetRequested (bits v 3 0))).noteSetting 0x408 := by
  have hopen : ¬ (s.fld rMgtReset 0 0 15 15 = 1 ∨ bits v 3 0 = 0) := by omega
  have hpresent : ¬ ((List.range 4).any fun p => bits (bits v 3 0) p p == 1 && !s.present p) = true := by
    simpa only [List.any_eq_true, List.mem_range, Bool.and_eq_true, beq_iff_eq, Bool.not_eq_true', not_exists, not_and,
      Bool.not_eq_false] using hnamed
  have asked := State.foldl_askReset (bits v 3 0) (List.range 4) (s.resetRequested (bits v 3 0)) fun q hq hb =>
    (State.hostResets_eq _ s q (s.resetRequested_ptn _)).trans (hhost q (List.mem_range.mp hq) hb)
  rw [mgtResetWrite, if_neg hopen, if_neg hpresent, if_neg (Bool.not_eq_true _ ▸ hshape), State.logged_accepted _ _ _ _ _ _ hlog, ← asked]
  rfl

/-! ### A partition that a conventional reset holds -/

/-- A module with power good and its store mounted, whose partition 0 goes through the internal reset of a conventional reset: the reset's
rollback has begun, and RESET_DONE has not come. -/
def heldByHostReset : State :=
  { mgmt := { powerGood := true }, store := { mounted := true }, ptn := [(0, { func := .resetting, rolling := some 0, resetKind := 0 })] }

/-- MGT_RESET asks for no rollback of it. -/
theorem mgtResetWrite_absorbed : ((mgtResetWrite 1 heldByHostReset).pt 0).rollReq = none := by
  decide +kernel

/-- Refutes O26: its clause for MGT_RESET asks for a rollback of every named partition that is not DISCARDING, also of one that goes through
the internal reset of a conventional reset, which absorbs the request (R324). It also writes RESULT = DONE at once, where R325 has it wait
until every named partition is READY; `mgtResetWrite_accepted` says what such a write does. -/
theorem not_loggedRegisterWrites : ¬ Obligations.LoggedRegisterWrites := by
  unfold Obligations.LoggedRegisterWrites
  intro h
  obtain ⟨-, -, -, hreset, -⟩ := h heldByHostReset 0 0 1 rfl (by decide +kernel) (by decide)
  have asked := hreset (by decide +kernel) (by decide) (by decide +kernel) (by decide +kernel)
  have absorbed : exec (.mgtResetWrite 1) heldByHostReset = .next (mgtResetWrite 1 heldByHostReset) := State.live_on _ _ rfl
  rw [absorbed, Host.Outcome.next.injEq] at asked
  have same := congrArg (fun t : State => (t.pt 0).rollReq) asked
  rw [mgtResetWrite_absorbed] at same
  exact absurd same (by decide +kernel)

end Sys2Proof.Machine
end

section
/-! PROOF. The step, and the module before power-good (O1, O4). -/

namespace Sys2Proof.Machine

theorem step_cons {c : Instr} {rest : List Instr} {s : State} (h : s.pending = c :: rest) :
    step s = exec c { s with pending := rest } := by
  simp only [step, h]

theorem step_nil {s : State} (h : s.pending = []) : step s = .next s.idle := by
  simp only [step, h]

/-- Settles O1: by what stands at the front of the queue. -/
theorem stepRunsFrontCommand : Obligations.StepRunsFrontCommand := by
  unfold Obligations.StepRunsFrontCommand
  exact ⟨fun _ _ => step_cons rfl, fun _ _ _ h => step_cons h, fun _ h => step_nil h⟩

/-- A register whose value the state does not list reads as its reset value. -/
theorem State.rd_unlisted {s : State} {r : RegSpec} {fn i : Nat} (h : Tbl.find s.regs (r.key fn i) = none) :
    s.rd r fn i = r.resetOf i := by
  simp only [State.rd, h]

/-- Settles O4: the state before power-good lists no register. -/
theorem resetIsAModuleWithoutPower : Obligations.ResetIsAModuleWithoutPower := by
  unfold Obligations.ResetIsAModuleWithoutPower
  exact ⟨rfl, rfl, rfl, rfl, rfl, fun _ _ _ => State.rd_unlisted rfl⟩

end Sys2Proof.Machine
end

section
/-! PROOF. Counter waits, their timeouts, and barriers (O19). -/

namespace Sys2Proof.Machine

/-! ### Counter waits (R50, R51, R108) -/

/-- A counter has reached its target when it lies less than 2^31 past it, in 32-bit arithmetic. -/
theorem Disp.reached_iff (x : Disp) (c : Nat) (target : W32) :
    x.reached c target = true ↔ ((Tbl.get 0 x.ccnt c).setWidth 32 - target).toNat < 2 ^ 31 := by
  generalize hd : (Tbl.get 0 x.ccnt c).setWidth 32 - target = diff
  have hmsb : diff.getLsbD 31 = decide (2 ^ 31 ≤ diff.toNat) := (BitVec.msb_eq_getLsbD_last diff).symm.trans (BitVec.msb_eq_decide diff)
  simp only [Disp.reached, hd, hmsb, Bool.not_eq_true', decide_eq_false_iff_not, Nat.not_le]

theorem ofNat_bits_low (v : Nat) : (BitVec.ofNat 32 (bits v 31 0) : W32) = BitVec.ofNat 32 v := by
  apply BitVec.eq_of_toNat_eq
  simp [bits]

section
variable (s : State) (d rd v : Nat)

theorem coreCcwait_reached
    (h : ((Tbl.get 0 (s.disp d).ccnt (bits v 45 40)).setWidth 32 - (BitVec.ofNat 32 v : W32)).toNat < 2 ^ 31) :
    coreCcwait d rd v s = s.retire d rd Code.done := by
  have hreached := (Disp.reached_iff (s.disp d) _ _).mpr h
  simp only [coreCcwait, ofNat_bits_low, hreached, if_true]

theorem coreCcwait_stalls
    (h : 2 ^ 31 ≤ ((Tbl.get 0 (s.disp d).ccnt (bits v 45 40)).setWidth 32 - (BitVec.ofNat 32 v : W32)).toNat) :
    coreCcwait d rd v s =
      let s1 := s.upDisp d fun x => { x with stall := some (.ccwait rd (bits v 45 40) (BitVec.ofNat 32 v) (bits v 63 48)) }
      if bits v 63 48 = 0 then s1 else s1.arm (.ccwait d) (bits v 63 48) := by
  have hreached : ¬ (s.disp d).reached (bits v 45 40) (BitVec.ofNat 32 v) = true :=
    fun hr => Nat.not_lt.mpr h ((Disp.reached_iff _ _ _).mp hr)
  simp only [coreCcwait, ofNat_bits_low, hreached]
  rfl

end

/-- A timeout that has come due ends the counter wait of its dispatcher TIMEOUT. -/
theorem timeoutFires_ccwait {s : State} {n d rd c t : Nat} {g : W32} {x : Timer} (hx : s.timers[n]? = some x) (hdue : x.due = true)
    (hkind : x.kind = .ccwait d) (hstall : (s.disp d).stall = some (.ccwait rd c g t)) :
    timeoutFires n s = ({ s with timers := s.timers.eraseIdx n } : State).retire d rd Code.timeout := by
  have hsame : (({ s with timers := s.timers.eraseIdx n } : State).disp d).stall = some (.ccwait rd c g t) := hstall
  simp only [timeoutFires, hx, hdue, hkind, hsame, Bool.true_eq_false, if_false]

/-! ### Barriers (R97, R98) -/

theorem coreBarrier_participant {s : State} {d ctx : Nat} (rd : Nat)
    (h : ((s.pt (s.dispPos d).1).live.bar ctx).hasDisp (s.dispPos d).2 = true) :
    coreBarrier d rd ctx s =
      let g := Tbl.get 0 (s.disp d).barGen ctx
      (s.upDisp d fun x =>
        { x with stall := some (.barrier rd ctx g), barGen := Tbl.set 0 x.barGen ctx (g + 1), barSent := some (ctx, g) }).sendArrival
          (s.dispPos d).1 ctx (8192 + (s.dispPos d).2) g 0 := by
  simp only [coreBarrier, h, Bool.true_eq_false, if_false]

theorem coreBarrier_outsider {s : State} {d ctx : Nat} (rd : Nat)
    (h : ((s.pt (s.dispPos d).1).live.bar ctx).hasDisp (s.dispPos d).2 = false) :
    coreBarrier d rd ctx s = s.retire d rd Code.invalidOperand := by
  simp only [coreBarrier, h, if_true]

theorem barrierArrival_reaches {s : State} {p ctx who slot : Nat} {g : W32} {rest : List (Nat × Nat × W32 × Nat)}
    (h : takeFirst ctx (s.pt p).live.arrivals = some ((who, g, slot), rest)) :
    barrierArrival p ctx s =
      ((s.upJob p fun j => { j.upBar ctx (fun b => b.arrive who g slot) with arrivals := rest }).releaseBar p ctx).releaseBar p ctx := by
  simp only [barrierArrival, h]

section
variable {b : Bar} {who : Nat} {g : W32} (slot : Nat)

theorem Bar.arrive_current (hg : g = b.gen) (hw : who ∉ b.arrived) : (b.arrive who g slot).arrived = who :: b.arrived := by
  rw [Bar.arrive, if_pos ⟨hg, hw⟩]

/-- One generation early, an arrival is held for the next. -/
theorem Bar.arrive_early (hg : g = b.gen + 1) (hw : who ∉ b.next) :
    (b.arrive who g slot).next = who :: b.next ∧ (b.arrive who g slot).arrived = b.arrived := by
  have hne : g ≠ b.gen := by bv_omega
  rw [Bar.arrive, if_neg fun h => hne h.1, if_pos ⟨hg, hw⟩]
  exact ⟨rfl, rfl⟩

theorem Bar.arrive_discarded (hg : g ≠ b.gen) (hn : g ≠ b.gen + 1) : b.arrive who g slot = b := by
  rw [Bar.arrive, if_neg fun h => hg h.1, if_neg fun h => hn h.1]

end

/-- Settles O19: each access and each event by the lemma of its case. -/
theorem counterAndBarrierWaits : Obligations.CounterAndBarrierWaits := by
  unfold Obligations.CounterAndBarrierWaits
  refine ⟨?_, ?_, ?_, ?_⟩
  · intro s d rd v hruns c target t low
    have waits : exec (.coreCcwait d rd v) s = .next (coreCcwait d rd v.toNat s) := State.onHart_runs s d _ hruns
    rw [waits]
    refine ⟨fun hlow => congrArg _ (coreCcwait_reached s d rd _ hlow), fun hhigh => congrArg _ (coreCcwait_stalls s d rd _ hhigh), ?_⟩
    intro n rd' c' t' g x s2 hp hx hdue hkind hstall
    exact (State.live_on s2 _ hp).trans (congrArg _ (timeoutFires_ccwait hx hdue hkind hstall))
  · intro s d rd v hruns p i ctx g
    have arrives : exec (.coreBarrier d rd v) s = .next (coreBarrier d rd (bits v.toNat 2 0) s) := State.onHart_runs s d _ hruns
    rw [arrives]
    exact ⟨fun h => congrArg _ (coreBarrier_participant rd h), fun h => congrArg _ (coreBarrier_outsider rd h)⟩
  · exact fun s p ctx who slot g rest hp h => (State.live_on s _ hp).trans (congrArg _ (barrierArrival_reaches h))
  · exact fun b who slot g => ⟨Bar.arrive_current slot, Bar.arrive_early slot, Bar.arrive_discarded slot⟩

end Sys2Proof.Machine
end

section
/-! PROOF. The fall of power-good: a partition whose job opens and whose initial cut has its record acknowledged does not keep its
job (O36). -/

namespace Sys2Proof.Machine

/-! ### What is left of the partitions (R304) -/

theorem State.ptn_fallPower (s : State) (aux trip : Bool) :
    (s.fallPower aux trip).ptn = s.ptn.map fun (e : Nat × Ptn) =>
      (e.1, e.2.afterLoss (s.store.lostCompletions e.1) (s.store.records.contains (.cut e.1))) := by
  unfold State.fallPower
  by_cases hmounted : s.store.mounted = true <;> by_cases hphase : (s.phase 9 == 2 || s.phase 9 == 3) = true <;>
    simp only [hmounted, hphase, if_true, if_false, Bool.false_eq_true] <;> rfl

/-- A job that opens and whose cut is durable runs from that cut. -/
theorem Ptn.job_afterLoss_opened (q : Ptn) (lost : Nat) (hjob : q.job = .opening) (hsent : q.cutSent = true) :
    (q.afterLoss lost false).job = .running :=
  if_pos ⟨hjob, hsent, rfl⟩

/-- Any other job is kept as it is. -/
theorem Ptn.job_afterLoss_kept (q : Ptn) (lost : Nat) (cutLost : Bool)
    (h : ¬ (q.job = .opening ∧ q.cutSent = true ∧ cutLost = false)) : (q.afterLoss lost cutLost).job = q.job :=
  if_neg h

/-! ### A job that opens -/

/-- A partition whose JOB_OPEN waits for its initial cut, the record of which has been sent (R252, R345). -/
def openingPtn : Ptn := { job := .opening, cutPhase := .flushing, pend := some {}, cutSent := true }

/-- A module with power-good and that partition; the journal buffer has acknowledged every record. -/
def openingWithCut : State := { mgmt := { powerGood := true }, store := { mounted := true }, ptn := [(0, openingPtn)] }

/-- Refutes O36: the statement has every partition keep its job, also one whose JOB_OPEN waits for an initial cut whose record has been
acknowledged. That cut is durable (R304), the open is not undone, and the partition comes back with its job RUNNING. Every other job is
kept (`Ptn.job_afterLoss_kept`). -/
theorem not_fallOfPowerGood : ¬ Obligations.FallOfPowerGood := by
  unfold Obligations.FallOfPowerGood
  intro h
  obtain ⟨-, -, -, hfall⟩ := h openingWithCut false 0 0 rfl
  obtain ⟨-, -, -, -, -, -, -, -, -, -, -, -, -, -, -, -, -, -, -, -, -, -, -, hptn⟩ := hfall false
  obtain ⟨q', hmem, hjob, -⟩ := hptn 0 openingPtn (List.mem_singleton.mpr rfl)
  rw [State.ptn_fallPower] at hmem
  have hq' : q' = openingPtn.afterLoss 0 false := by simpa [openingWithCut, Store.lostCompletions] using hmem
  rw [hq', Ptn.job_afterLoss_opened openingPtn 0 rfl rfl] at hjob
  exact absurd hjob (by decide)

end Sys2Proof.Machine
end

section
/-! PROOF. Flits: what a port sends in a flit time, and what it does with what it receives (O48). -/

namespace Sys2Proof.Machine

/-! ### Ports and registers -/

@[simp] theorem State.upPort_regs (s : State) (n : Nat) (f : Port → Port) : (s.upPort n f).regs = s.regs := rfl

@[simp] theorem State.sendMgmt_regs (s : State) (n typ : Nat) (ws : List Nat) : (s.sendMgmt n typ ws).regs = s.regs := rfl

@[simp] theorem State.returnCredits_regs (s : State) (n min : Nat) : (s.returnCredits n min).regs = s.regs := by
  unfold State.returnCredits
  generalize (s.port n).freed = freed
  induction freed generalizing s with
  | nil => rfl
  | cons e freed ih =>
    rw [List.foldl_cons, ih]
    split <;> simp

theorem State.addr_eq {s t : State} (h : s.regs = t.regs) : s.addr = t.addr := by
  simp only [State.addr, State.rd_eq s t _ _ _ h]

/-! ### Packets that have come whole (R44, R376, R382, R395) -/

/-- The channel and class whose buffer a packet lies in, as channel × 2 + class (R376, R379). -/
def bufferOf (h : Slot) : Nat := 2 * hdr h 11 9 + (if hdr h 12 12 = 1 ∧ 2 ≤ hdr h 11 9 then 1 else 0)

/-- The slots of a packet are freed in its buffer, and full batches of credits go back (R382). -/
def State.freeSlots (s : State) (n : Nat) (h : Slot) (rest : List Slot) : State :=
  (s.upPort n fun q => { q with freed := Tbl.upd 0 q.freed (bufferOf h) (· + (rest.length + 1)) }).returnCredits n 64

@[simp] theorem State.freeSlots_addr (s : State) (n : Nat) (h : Slot) (rest : List Slot) : (s.freeSlots n h rest).addr = s.addr :=
  State.addr_eq (State.returnCredits_regs _ _ _)

theorem creditFree_of_type_ne {h : Slot} (ht : hdr h 3 0 ≠ 5) : creditFree h = false := by
  simp [creditFree, ht]

theorem creditFree_of_message_ne {h : Slot} (ht : hdr h 71 64 ≠ Msg.credit) : creditFree h = false := by
  simp [creditFree, ht]

section
variable (s : State) (n k : Nat) {h : Slot} (rest : List Slot) (c : Option (Nat × Nat × Nat))

theorem State.packetIn_reserved (ht : 5 < hdr h 3 0) :
    s.packetIn n k (h :: rest) c = (s.freeSlots n h rest).countErr n 15 8 1 := by
  have hfree : creditFree h = false := creditFree_of_type_ne (by omega)
  have hif : (if creditFree h = true then s else s.freeSlots n h rest) = s.freeSlots n h rest := by simp [hfree]
  exact (if_pos (Or.inl ht)).trans (congrArg (·.countErr n 15 8 1) hif)

/-- A packet for this module with no reserved value is delivered once its slots have been freed, which leaves `t`. -/
theorem State.packetIn_here {t : State} (ht : (if creditFree h then s else s.freeSlots n h rest) = t) (haddr : hdr h 27 16 = t.addr)
    (hdtype : hdr h 52 50 ≤ 4) (hptype : hdr h 3 0 ≤ 5) (hmsg : hdr h 3 0 = 5 → mgmtKnown (hdr h 71 64) = true) :
    s.packetIn n k (h :: rest) c = t.deliver n h rest c := by
  have hvalid : ¬ (5 < hdr h 3 0 ∨ 4 < hdr h 52 50 ∨ (hdr h 3 0 = 5 ∧ mgmtKnown (hdr h 71 64) = false)) := by
    rintro (hr | hr | ⟨hr, hm⟩)
    · omega
    · omega
    · exact Bool.false_ne_true (hm.symm.trans (hmsg hr))
  subst ht
  exact (if_neg hvalid).trans (if_pos (Or.inl haddr))

section
variable (haddr : hdr h 27 16 = s.addr) (hdtype : hdr h 52 50 ≤ 4)
include haddr hdtype

theorem State.packetIn_delivered (hptype : hdr h 3 0 ≤ 5) (hmsg : hdr h 3 0 = 5 → mgmtKnown (hdr h 71 64) = true)
    (hfree : creditFree h = false) : s.packetIn n k (h :: rest) c = (s.freeSlots n h rest).deliver n h rest c :=
  s.packetIn_here n k rest c (by simp [hfree]) (haddr.trans (s.freeSlots_addr n h rest).symm) hdtype hptype hmsg

theorem State.packetIn_data (ht : hdr h 3 0 = 1 ∨ hdr h 3 0 = 2 ∨ hdr h 3 0 = 4) :
    s.packetIn n k (h :: rest) c =
      let t := s.freeSlots n h rest
      packetArrival (packetOf h rest c) { t with links := { t.links with inbox := t.links.inbox ++ [packetOf h rest c] } } := by
  have h3 : hdr h 3 0 ≠ 3 := by omega
  have h5 : hdr h 3 0 ≠ 5 := by omega
  rw [s.packetIn_delivered n k rest c haddr hdtype (by omega) (fun e => absurd e h5) (creditFree_of_type_ne h5)]
  simp only [State.deliver, h3, h5, if_false]

theorem State.packetIn_waggle (ht : hdr h 3 0 = 3) :
    s.packetIn n k (h :: rest) c = waggleMessage (hdr h 29 28) (hdr h 35 30) (waggleOf h rest) (s.freeSlots n h rest) := by
  have h5 : hdr h 3 0 ≠ 5 := by omega
  rw [s.packetIn_delivered n k rest c haddr hdtype (by omega) (fun e => absurd e h5) (creditFree_of_type_ne h5)]
  simp only [State.deliver, ht, Nat.reduceEqDiff, if_false, if_true]

theorem State.packetIn_keyReady (ht : hdr h 3 0 = 5) (hm : hdr h 71 64 = Msg.keyReady) :
    s.packetIn n k (h :: rest) c =
      keyReadyIn n ((mgmtWords rest).getD 0 0) ((mgmtWords rest).getD 1 0) (s.freeSlots n h rest) := by
  rw [s.packetIn_delivered n k rest c haddr hdtype (by omega) (fun _ => by rw [hm]; rfl)
    (creditFree_of_message_ne (by rw [hm]; decide))]
  simp only [State.deliver, ht, hm, if_true]
  rfl

/-- A CREDIT message takes no credit, so that it frees no slots. -/
theorem State.packetIn_credit (ht : hdr h 3 0 = 5) (hm : hdr h 71 64 = Msg.credit) :
    s.packetIn n k (h :: rest) c =
      creditIn n ((mgmtWords rest).getD 0 0) ((mgmtWords rest).getD 1 0) ((mgmtWords rest).getD 2 0) s := by
  have hfree : creditFree h = true := by simp [creditFree, ht, hm]
  rw [s.packetIn_here n k rest c (by simp [hfree]) haddr hdtype (by omega) (fun _ => by rw [hm]; rfl)]
  simp only [State.deliver, State.mgmtIn, ht, hm, if_true]

end

end

/-! ### What a port sends (R373 to R377, R380, R391) -/

/-- The port as a flit time begins: its counter advances, the bucket of VC0 is refilled every 64 flit times, and the last NAK ages. -/
def Port.flitTime (q : Port) : Port :=
  let ticks := (q.ticks + 1) % 64
  { q with ticks := ticks, txCtr := q.txCtr + 1, tokens := if ticks = 0 then Nat.min 512 (q.tokens + 23) else q.tokens,
           nakFor := q.nakFor.map fun (x : Nat × Nat) => (x.1, x.2 + 1) }

/-- The idle flit of a port. -/
def Port.idleFlit (q : Port) : Flit :=
  { fseq := BitVec.ofNat 11 q.tx, ack := BitVec.ofNat 11 q.rx, typ := 1, key := 4, start := 31, slots := List.replicate 18 0 }

/-- The packet flit of a port whose slots `fillFlit` has gathered under key slot `k`. -/
def Port.packetFlit (q : Port) (k start : Nat) (slots : List Slot) : Flit :=
  { q.idleFlit with typ := 0, key := BitVec.ofNat 3 k, start := BitVec.ofNat 5 start, slots := slots }

/-- The port with that flit in its replay buffer, sent once. -/
def Port.keepSent (q : Port) (f : Flit) : Port := { q with tx := (q.tx + 1) % 2048, replay := q.replay ++ [f], sent := q.sent + 1 }

/-- What port `n` sends in its flit time `q`, and the port after it (R376, R377). -/
def State.nextFlit (s : State) (q : Port) : Port × Flit :=
  if q.nakDue then ({ q with nakDue := false, nakFor := some (q.rx, 0) }, { q.idleFlit with typ := 2 })
  else if q.sent < q.replay.length then
    ({ q with sent := q.sent + 1 }, { q.replay.getD q.sent q.idleFlit with ack := BitVec.ofNat 11 q.rx })
  else if 512 ≤ q.replay.length then (q, q.idleFlit)
  else
    let b := s.fillFlit 18 q [] none 31
    match b.2.2.1 with
    | none => (q, q.idleFlit)
    | some k => (b.1.keepSent (q.packetFlit k b.2.2.2 b.2.1), q.packetFlit k b.2.2.2 b.2.1)

/-- Port `n` sends a flit and is afterwards as `r` says. -/
def State.sendFlit (s : State) (n : Nat) (r : Port × Flit) : State :=
  let t := (s.upPort n fun _ => r.1.carried r.2).emit (.flit n r.2 (s.onWire n ((s.port n).txCtr + 1) r.2))
  let t := if r.2.typ = 0 then t.tally fun c => { c with linkTx := c.linkTx + 288 } else t
  if ((s.port n).ticks + 1) % 64 = 0 then t.returnCredits n 1 else t

/-- In every flit time a port that is UP sends the next flit. -/
theorem flitTransmit_up {s : State} {n : Nat} (hup : s.pup n = true) :
    flitTransmit n s = s.sendFlit n (s.nextFlit (s.port n).flitTime) := by
  rw [flitTransmit, if_neg (by simp [hup])]
  rfl

section
variable (s : State) {q : Port}

theorem State.nextFlit_nak (hn : q.nakDue = true) :
    s.nextFlit q = ({ q with nakDue := false, nakFor := some (q.rx, 0) }, { q.idleFlit with typ := 2 }) :=
  if_pos hn

variable (hn : q.nakDue = false)
include hn

theorem State.nextFlit_again (hr : q.sent < q.replay.length) :
    s.nextFlit q = ({ q with sent := q.sent + 1 }, { q.replay.getD q.sent q.idleFlit with ack := BitVec.ofNat 11 q.rx }) := by
  rw [State.nextFlit, if_neg (by simp [hn]), if_pos hr]

variable (hr : q.replay.length ≤ q.sent)
include hr

theorem State.nextFlit_full (hf : 512 ≤ q.replay.length) : s.nextFlit q = (q, q.idleFlit) := by
  rw [State.nextFlit, if_neg (by simp [hn]), if_neg (Nat.not_lt.mpr hr), if_pos hf]

variable (hf : q.replay.length < 512) {b : Port} {l : List Slot} {st : Nat}
include hf

theorem State.nextFlit_idle (hb : s.fillFlit 18 q [] none 31 = (b, l, none, st)) : s.nextFlit q = (q, q.idleFlit) := by
  rw [State.nextFlit, if_neg (by simp [hn]), if_neg (Nat.not_lt.mpr hr), if_neg (Nat.not_le.mpr hf), hb]

theorem State.nextFlit_packet {k : Nat} (hb : s.fillFlit 18 q [] none 31 = (b, l, some k, st)) :
    s.nextFlit q = (b.keepSent (q.packetFlit k st l), q.packetFlit k st l) := by
  rw [State.nextFlit, if_neg (by simp [hn]), if_neg (Nat.not_lt.mpr hr), if_neg (Nat.not_le.mpr hf), hb]

end

@[simp] theorem Port.start_keys (q : Port) (x : TxPkt) (served : Tbl Nat) : (q.start x served).keys = q.keys := by
  unfold Port.start
  simp only
  split <;> rfl

/-- Filling a flit leaves the port's keys as they are. -/
theorem State.fillFlit_keys (s : State) (fuel : Nat) (q : Port) (l : List Slot) (key : Option Nat) (st : Nat) :
    (s.fillFlit fuel q l key st).1.keys = q.keys := by
  induction fuel generalizing q l key st with
  | zero => rfl
  | succ fuel ih =>
    rw [State.fillFlit]
    split
    · exact ih ..
    · split
      · exact ih ..
      · exact (ih ..).trans (Port.start_keys ..)

/-! ### What a port does with a received flit (R374, R376, R377, R391, R394) -/

/-- A flit time has come in at port `n`: the receive counter advances (R391). -/
def State.flitTimeIn (s : State) (n : Nat) : State := s.upPort n fun q => { q with rxCtr := q.rxCtr + 1 }

/-- A flit with header `h` has come in at port `n` with that many symbols corrected (R374, R532). -/
def State.flitIn (s : State) (n : Nat) (h : Flit) (errors : Nat) : State :=
  let t := s.upPort n fun q => q.carried h
  if 0 < errors then t.countErr n 63 32 1 else t

/-- What port `n` does with flit `f`, which authenticates under its key slot `k` (R376, R377). -/
def State.flitOpened (s : State) (n k : Nat) (x : FlitIn) (f : Flit) : State :=
  if f.typ = 3 then s.countErr n 15 8 1
  else
    let s := if f.typ = 2 then nakArrives n f.ack.toNat s else s.upPort n fun q => q.acked f.ack.toNat
    if f.typ ≠ 0 then s
    else if f.fseq.toNat ≠ (s.port n).rx then s.upPort n Port.wantNak
    else
      let r := parsePkts 36 ((s.port n).part ++ f.slots)
      let s := s.upPort n fun q => { q with rx := (q.rx + 1) % 2048, part := r.2, nakDue := false, nakFor := none }
      (r.1.zip (x.colls ++ List.replicate 18 none)).foldl (fun s y => s.packetIn n k y.1 y.2) s

/-- The flit that opens under key slot `k` of port `n` at the receive counter `ctr`, if that counter is new to the slot (R391). -/
def State.flitFrom (s : State) (n k ctr : Nat) (bs : Bytes) : Option Flit :=
  (openFlit (Tbl.get {} (s.port n).keys k).rx ctr bs).filter fun _ => Tbl.get 0 (s.port n).rxLast k < ctr

/-- What port `n` does with the flit that authenticates under its key slot `k`, or with none (R391, R394). -/
def State.flitKeyed (s : State) (n k ctr : Nat) (x : FlitIn) : Option Flit → State
  | none => (s.upPort n Port.wantNak).authFail n
  | some f => (s.upPort n fun q => { q with rxLast := Tbl.set 0 q.rxLast k ctr }).flitOpened n k x f

/-- The header of a flit from its first four bytes, which are in clear (R373). -/
def flitHeader (bs : Bytes) : Flit := flitOf (leNat (bs.take 4)) []

/-- What port `n` does with the bytes of a flit once its symbols are corrected. -/
def State.flitCorrected (s : State) (n ctr : Nat) (x : FlitIn) (bs : Bytes) : State :=
  match (s.port n).keyFor (flitHeader bs).key.toNat with
  | none => s.authFail n
  | some k => s.flitKeyed n k ctr x (s.flitFrom n k ctr bs)

/-- What port `n` does with what its lanes bring in a flit time. -/
def State.flitCame (s : State) (n : Nat) (x : FlitIn) : State :=
  match s.flitBytes n x with
  | none => s.upPort n Port.wantNak
  | some (bs, errors) => (s.flitIn n (flitHeader bs) errors).flitCorrected n (s.port n).rxCtr x bs

/-- A port that is UP receives by these stages. -/
theorem flitReceive_up {s : State} {n : Nat} {x : FlitIn} (hup : s.pup n = true) :
    flitReceive n x s = (s.flitTimeIn n).flitCame n x := by
  rw [flitReceive, if_neg (by simp [hup])]
  dsimp only [State.flitTimeIn, State.flitCame, State.flitCorrected, State.flitFrom, State.flitIn, flitHeader]
  generalize (s.upPort n fun q => { q with rxCtr := q.rxCtr + 1 }) = t
  cases t.flitBytes n x with
  | none => rfl
  | some r =>
    dsimp only
    generalize (if 0 < r.2 then _ else _ : State) = u
    cases (u.port n).keyFor _ with
    | none => rfl
    | some k =>
      dsimp only
      cases Option.filter _ (openFlit (Tbl.get {} (u.port n).keys k).rx (t.port n).rxCtr r.1) with
      | none => rfl
      | some f => rfl

section
variable {s : State} {n ctr k : Nat} {x : FlitIn} {bs : Bytes}

theorem State.flitCame_uncorrectable (hb : s.flitBytes n x = none) : s.flitCame n x = s.upPort n Port.wantNak := by
  simp only [State.flitCame, hb]

theorem State.flitCame_corrected {errors : Nat} (hb : s.flitBytes n x = some (bs, errors)) :
    s.flitCame n x = (s.flitIn n (flitHeader bs) errors).flitCorrected n (s.port n).rxCtr x bs := by
  simp only [State.flitCame, hb]

theorem State.flitCorrected_unkeyed (hk : (s.port n).keyFor (flitHeader bs).key.toNat = none) :
    s.flitCorrected n ctr x bs = s.authFail n := by
  simp only [State.flitCorrected, hk]

theorem State.flitCorrected_keyed (hk : (s.port n).keyFor (flitHeader bs).key.toNat = some k) :
    s.flitCorrected n ctr x bs = s.flitKeyed n k ctr x (s.flitFrom n k ctr bs) := by
  simp only [State.flitCorrected, hk]

theorem State.flitFrom_none (h : openFlit (Tbl.get {} (s.port n).keys k).rx ctr bs = none ∨ ctr ≤ Tbl.get 0 (s.port n).rxLast k) :
    s.flitFrom n k ctr bs = none := by
  rw [State.flitFrom, Option.filter_eq_none_iff]
  intro f hf hnew
  rcases h with h | h
  · exact Option.some_ne_none f (hf.symm.trans h)
  · exact Nat.not_lt.mpr h (of_decide_eq_true hnew)

theorem State.flitFrom_some {f : Flit} (hf : openFlit (Tbl.get {} (s.port n).keys k).rx ctr bs = some f)
    (hnew : Tbl.get 0 (s.port n).rxLast k < ctr) : s.flitFrom n k ctr bs = some f :=
  Option.filter_eq_some_iff.mpr ⟨hf, decide_eq_true hnew⟩

end

section
variable (s : State) (n k : Nat) (x : FlitIn) {f : Flit}

theorem State.flitOpened_reserved (h : f.typ = 3) : s.flitOpened n k x f = s.countErr n 15 8 1 := if_pos h

theorem State.flitOpened_nak (h : f.typ = 2) : s.flitOpened n k x f = nakArrives n f.ack.toNat s := by
  simp [State.flitOpened, h]

theorem State.flitOpened_idle (h : f.typ = 1) : s.flitOpened n k x f = s.upPort n fun q => q.acked f.ack.toNat := by
  simp [State.flitOpened, h]

theorem State.flitOpened_outOfOrder (h : f.typ = 0) (hseq : f.fseq.toNat ≠ ((s.upPort n fun q => q.acked f.ack.toNat).port n).rx) :
    s.flitOpened n k x f = (s.upPort n fun q => q.acked f.ack.toNat).upPort n Port.wantNak := by
  rw [State.flitOpened, if_neg (by simp [h])]
  simp only [h, BitVec.reduceEq, if_false]
  exact (if_neg fun hne => hne rfl).trans (if_pos hseq)

/-- A packet flit in order acknowledges, and each packet that ends in it comes in. -/
theorem State.flitOpened_inOrder (h : f.typ = 0) (hseq : f.fseq.toNat = ((s.upPort n fun q => q.acked f.ack.toNat).port n).rx) :
    s.flitOpened n k x f =
      let s3 := s.upPort n fun q => q.acked f.ack.toNat
      let r := parsePkts 36 ((s3.port n).part ++ f.slots)
      let t := s3.upPort n fun q => { q with rx := (q.rx + 1) % 2048, part := r.2, nakDue := false, nakFor := none }
      (r.1.zip (x.colls ++ List.replicate 18 none)).foldl (fun t y => t.packetIn n k y.1 y.2) t := by
  rw [State.flitOpened, if_neg (by simp [h])]
  simp only [h, BitVec.reduceEq, if_false]
  exact (if_neg fun hne => hne rfl).trans (if_neg fun hne => hne hseq)

end

/-! ### NAKs and credits (R377, R378, R382) -/

theorem nakArrives_up {s : State} {n fseq : Nat} (hup : s.pup n = true) :
    nakArrives n fseq s =
      let t := (s.upPort n fun q =>
        let q := q.acked fseq
        { q with sent := 0, retry := (fseq, if q.retry.1 = fseq then q.retry.2 + 1 else 1) }).countErr n 31 16 1
      if 8 ≤ (t.port n).retry.2 then (t.upPort n fun q => { q with retry := (fseq, 0) }).retrain n else t :=
  if_neg (by simp [hup])

theorem creditIn_up {s : State} {n vc cls slots : Nat} (hup : s.pup n = true) :
    creditIn n vc cls slots s = s.upPort n fun q => { q with
      credits := Tbl.set 0 q.credits (2 * vc + cls) (Nat.min (vcBuffer vc) (Tbl.get 0 q.credits (2 * vc + cls) + slots)),
      outst := giveBack (2 * vc + cls) slots q.outst } :=
  if_pos hup

/-- Settles O48: a packet by its type, a flit time by what the port has to send, a received flit by how far it comes, and the rest by the
lemma of its command. -/
theorem flitRows : Obligations.FlitRows := by
  unfold Obligations.FlitRows
  refine ⟨?_, ?_⟩
  · intro s n k h rest c haddr hdtype
    exact ⟨fun ht => s.packetIn_data n k rest c haddr hdtype ht, fun ht => s.packetIn_waggle n k rest c haddr hdtype ht,
      fun ht hm => s.packetIn_keyReady n k rest c haddr hdtype ht hm, fun ht hm => s.packetIn_credit n k rest c haddr hdtype ht hm,
      fun ht => s.packetIn_reserved n k rest c ht⟩
  intro s n fseq vc cls k x b l st hp hup
  have sends : exec (.flitTransmit n) s = .next (flitTransmit n s) := State.live_on s _ hp
  have receives : exec (.flitReceive n x) s = .next (flitReceive n x s) := State.live_on s _ hp
  have naks : exec (.nak n fseq) s = .next (nakArrives n (fseq % 2048) s) := State.live_on s _ hp
  have credits : exec (.credit n vc cls k) s = .next (creditIn n vc cls k s) := State.live_on s _ hp
  rw [sends, receives, naks, credits, flitTransmit_up hup, flitReceive_up hup]
  refine ⟨?_, ?_, congrArg _ (nakArrives_up hup), congrArg _ (creditIn_up hup)⟩
  · intro ticks p q ack idle goes
    have sent : ∀ {r : Port} {f : Flit}, s.nextFlit p.flitTime = (r, f) → r.keys = p.keys →
        .next (s.sendFlit n (s.nextFlit p.flitTime)) = goes r f := by
      intro r f hnext hkeys
      simp only [hnext, goes, hkeys]
      rfl
    have hkeys : (s.fillFlit 18 q [] none 31).1.keys = p.keys := s.fillFlit_keys 18 q [] none 31
    exact ⟨fun hn => sent (s.nextFlit_nak hn) rfl, fun hn hr => sent (s.nextFlit_again hn hr) rfl,
      fun hn hr hf => sent (s.nextFlit_full hn hr hf) rfl, fun hn hr hf =>
        ⟨fun hb => sent (s.nextFlit_idle hn hr hf hb) rfl,
          fun hb => sent (s.nextFlit_packet hn hr hf hb) ((congrArg (·.1.keys) hb).symm.trans hkeys)⟩⟩
  · refine ⟨fun hb => congrArg _ (State.flitCame_uncorrectable hb), fun bs errors hb => ?_⟩
    have corrected := State.flitCame_corrected (s := s.flitTimeIn n) hb
    refine ⟨fun hk => congrArg _ (corrected.trans (State.flitCorrected_unkeyed hk)), fun hk => ?_⟩
    have keyed := corrected.trans (State.flitCorrected_keyed hk)
    refine ⟨fun hu => congrArg _ (keyed.trans (congrArg _ (State.flitFrom_none hu))), fun f hf hl => ?_⟩
    have opened := keyed.trans (congrArg _ (State.flitFrom_some hf hl))
    exact ⟨fun ht => congrArg _ (opened.trans (State.flitOpened_reserved _ n k x ht)),
      fun ht => congrArg _ (opened.trans (State.flitOpened_nak _ n k x ht)),
      fun ht => congrArg _ (opened.trans (State.flitOpened_idle _ n k x ht)),
      fun ht hs => congrArg _ (opened.trans (State.flitOpened_outOfOrder _ n k x ht hs)),
      fun ht hs => congrArg _ (opened.trans (State.flitOpened_inOrder _ n k x ht hs))⟩

end Sys2Proof.Machine
end

section
/-! PROOF. The matrix product: what it makes of its operands' rows, and what a checksum outside its tolerance leaves (O9). -/

namespace Sys2Proof.Machine

theorem exec_matmul (s : State) (p lc ck : Nat) (h : s.mgmt.powerGood = true) :
    exec (.matmul p lc ck) s = .next (s.tileRow p lc .matmul ck (matmulSpec p lc)) :=
  State.live_on s (fun s => s.tileRow p lc .matmul ck (matmulSpec p lc)) h

/-- Row `r` of MATMUL's accumulator, by the elements of slot 2 (R130). -/
theorem accRow_elements {s : State} {p lc : Nat} {w : TDesc} {d : Opnd} (hd : w.opnd lc 2 = some d) (r n : Nat) :
    (if w.acc then d.row (s.pt p).live r n else List.replicate n Fv.zero) =
      (List.range n).map fun k => if w.acc then s.slotVal p lc w 2 r k else .zero := by
  cases w.acc with
  | true => exact Opnd.row_getD s p lc w 2 r n d hd
  | false => simp only [Bool.false_eq_true, if_false, List.map_const', List.length_range]

/-- The rows that MATMUL pairs off have the product of rows `r` and `k` over element (r, k) of the accumulator as their element (r, k)
(R77, R130). -/
theorem rowsProduct_elements (w : TDesc) (a b : Nat → GRow) (acc : Nat → Nat → Fv) :
    ((((List.range (w.val 0)).map a).zip (w.result acc)).map fun x =>
        (((List.range (w.val 1)).map b).zip x.2).map fun y => growDot x.1 y.1 y.2) =
      w.result fun r k => growDot (a r) (b k) (acc r k) := by
  simp only [TDesc.result, List.zip_map', List.map_map, Function.comp_def]

/-- MATMUL's effect where all its operands are given: it writes the product, or nothing where the checksum is outside its tolerance
(R130, R147). -/
theorem matmulRun_elements {s : State} {p lc : Nat} {w : TDesc} {a b d : Opnd} (ha : w.opnd lc 0 = some a)
    (hb : w.opnd lc 1 = some b) (hd : w.opnd lc 2 = some d) :
    let rowA := fun r => a.grow (s.pt p).live r (w.val 2) (w.dim 2)
    let rowB := fun k => b.grow (s.pt p).live k (w.val 2) (w.dim 2)
    let acc := fun r k => if w.acc then s.slotVal p lc w 2 r k else .zero
    let product := w.result fun r k => growDot (rowA r) (rowB k) (acc r k)
    matmulRun p lc w s =
      if w.ck ∧ ckPass ((List.range (w.val 0)).map rowA) ((List.range (w.val 1)).map rowB) (w.result acc) product w.tol = false
      then (s, Code.checksumMismatch) else s.writeAcc p lc w d product := by
  intro rowA rowB acc product
  have accRows : ((List.range (w.val 0)).map fun r =>
      if w.acc then d.row (s.pt p).live r (w.val 1) else List.replicate (w.val 1) Fv.zero) = w.result acc :=
    List.map_congr_left fun r _ => accRow_elements hd r (w.val 1)
  simp only [matmulRun, ha, hb, hd]
  rw [accRows, rowsProduct_elements]

/-- Settles O9: an attempt that no fault breaks has MATMUL's effect; two that a fault breaks end the row CHECKSUM_MISMATCH. -/
theorem matmulResultAndChecksum : Obligations.MatmulResultAndChecksum := by
  unfold Obligations.MatmulResultAndChecksum
  intro s s1 p lc e c a b d w j ar br cin cout hx ha hb hd
  rw [exec_matmul _ _ _ _ hx.1, exec_matmul _ _ _ _ hx.1, State.tileRow_executes s s1 p lc _ _ e c hx]
  have effect : (matmulSpec p lc s w).run e (e.word.getD 0) (s1.walkRoot p c) s1 = plain _ :=
    congrArg plain (matmulRun_elements ha hb hd)
  refine ⟨?_, fun hk => congrArg _ (State.tileRow_checksum s s1 p lc 2 _ _ e c hx hk (Nat.le_refl 2))⟩
  rw [effect]
  rfl

end Sys2Proof.Machine
end

section
/-! PROOF. Ticket counters, as a dispatcher and a core take tickets of them, and ECALL (O15, O20). -/

namespace Sys2Proof.Machine

/-! ### A fetch-and-add at its counter (R110) -/

section
variable {t : Ticket} (n : Nat)

theorem Ticket.faa_exhausted (h : t.limit.toNat ≤ t.value.toNat) : t.faa n = (2 ^ 63 + t.value.toNat % 2 ^ 63, t) := if_pos h

theorem Ticket.faa_open (h : t.value.toNat < t.limit.toNat) :
    t.faa n = (t.value.toNat % 2 ^ 63, { t with value := BitVec.ofNat 64 (min (t.value.toNat + n) t.limit.toNat) }) :=
  if_neg (Nat.not_le.mpr h)

theorem Ticket.faa_rises (h : t.value.toNat < t.limit.toNat) :
    (t.faa n).1 = t.value.toNat % 2 ^ 63 ∧ (t.faa n).2.limit = t.limit ∧
      (t.faa n).2.value.toNat = min (t.value.toNat + n) t.limit.toNat := by
  have fits : min (t.value.toNat + n) t.limit.toNat < 2 ^ 64 := Nat.lt_of_le_of_lt (Nat.min_le_right ..) t.limit.isLt
  rw [Ticket.faa_open n h]
  exact ⟨rfl, rfl, (BitVec.toNat_ofNat ..).trans (Nat.mod_eq_of_lt fits)⟩

end

/-! ### The commands that take a ticket (R109, R110, R134) -/

/-- The partition of dispatcher Dd takes a ticket of a counter that it has and that reads correctly. -/
theorem exec_coreTktFaa_takes {s : State} {d : Nat} (rd : Nat) (v : W64) (hruns : HartRuns s d)
    (hk : bits (s.disp d).tktSel.toNat 13 0 / 4096 < s.k)
    (hread : (s.pt (s.dispPos d).1).live.tktFails (bits (s.disp d).tktSel.toNat 13 0) = false) :
    exec (.coreTktFaa d rd v) s = .next (
      let i := bits (s.disp d).tktSel.toNat 13 0
      let r := ((s.pt (s.dispPos d).1).live.ticket i).faa (bits v.toNat 31 0)
      (s.upJob (s.dispPos d).1 fun j => { j with tickets := Tbl.put j.tickets i r.2 }).retire d rd r.1) := by
  have accesses : exec (.coreTktFaa d rd v) s = .next (coreTktFaa d rd (bits v.toNat 31 0) s) := State.onHart_runs s d _ hruns
  simp [accesses, coreTktFaa, State.tktOk, hk, hread]

/-- TKT_FAA's first execution with no use of its result slot (R134, R156). -/
theorem tktFaaRun_first {s : State} {p lc : Nat} {w : TDesc} {e : QEntry} (hfirst : e.faa = none)
    (hread : (s.pt p).live.tktFails (w.dim 1) = false) (hslot : w.opnd lc 1 = none) :
    tktFaaRun p lc w e s =
      let r := ((s.pt p).live.ticket (w.dim 1)).faa (w.dim 0)
      (s.upJob p fun j => { j with tickets := Tbl.put j.tickets (w.dim 1) r.2 }, Code.done, some (BitVec.ofNat 64 r.1)) := by
  simp [tktFaaRun, hfirst, hread, hslot]

/-- Settles O15: the counter by whether it is exhausted, and each command as the one step that its row makes of it. -/
theorem ticketFetchAndAdd : Obligations.TicketFetchAndAdd := by
  unfold Obligations.TicketFetchAndAdd
  refine ⟨fun t n => ⟨Ticket.faa_exhausted n, Ticket.faa_rises n⟩, ?_, ?_⟩
  · intro s d rd v hruns p i r
    exact exec_coreTktFaa_takes rd v hruns
  · intro s s1 p lc e c w r s2 hx hfirst hread hslot
    exact State.tileRow_run s s1 p lc .tktFaa (tktFaaSpec p lc) e c (s2, Code.done) (some (BitVec.ofNat 64 r.1)) hx
      (tktFaaRun_first hfirst hread hslot)

/-! ### ECALL (R102, R348) -/

section
variable {s : State} {d : Nat} (a7 a0 : W64)

theorem State.hartEcall_done (h : a7 = 0) :
    s.hartEcall d a7 a0 = (s.upDisp d fun x => x.trap false (if x.umode then 8 else 11) 0).endPart d Code.done a0 := if_pos h

theorem State.hartEcall_fails (h : a7 ≠ 0) :
    s.hartEcall d a7 a0 = (s.upDisp d fun x => x.trap false (if x.umode then 8 else 11) 0).endPart d Code.invalidOperand 0 := if_neg h

end

/-- Settles O20: the ticket as in O15, and ECALL by a7. -/
theorem ticketAccessAndEcall : Obligations.TicketAccessAndEcall := by
  unfold Obligations.TicketAccessAndEcall
  intro s d rd v a7 a0 hruns p i t
  have calls : exec (.ecall d a7 a0) s = .next (s.hartEcall d a7 a0) :=
    State.onHart_runs s d (fun s => s.hartEcall d a7 a0) hruns
  rw [calls]
  exact ⟨exec_coreTktFaa_takes rd v hruns, fun h => congrArg _ (State.hartEcall_done a7 a0 h),
    fun h => congrArg _ (State.hartEcall_fails a7 a0 h)⟩

end Sys2Proof.Machine
end

section
/-! PROOF. The dispatchers' pushes and mailbox accesses, and what becomes of the posts that reach a slot (O18). -/

namespace Sys2Proof.Machine

/-! ### CORE_TQPUSH (R105, R106) -/

/-- A push asks only for a part that runs with no access outstanding, so that a hart that runs carries it out. -/
theorem exec_coreTqpush {s : State} {d : Nat} (rd : Nat) (v : W64) (hruns : HartRuns s d) :
    exec (.coreTqpush d rd v) s = .next (coreTqpush d rd v.toNat s) := by
  obtain ⟨hpower, hready⟩ := hruns
  have hhart : s.hartRuns d = true := (Bool.and_eq_true_iff.mp hready).1
  have acts : exec (.coreTqpush d rd v) s = .next (if s.hartRuns d = false then s else coreTqpush d rd v.toNat s) :=
    State.live_on s (fun s => if s.hartRuns d = false then s else coreTqpush d rd v.toNat s) hpower
  rw [acts, if_neg (by simp [hhart])]

section
variable {s : State} {d : Nat} (rd : Nat) {v : Nat}

theorem coreTqpush_pushed (h : s.pushResult d v = 0) :
    coreTqpush d rd v s = (s.upCore (s.dispPos d).1 (bits v 47 32) fun c =>
      { c with queue := c.queue ++ [{ desc := BitVec.ofNat 512 ((s.disp d).dlm.rdLe (bits v 17 6 * 64) 64) }] }).retire d rd 0 := by
  simp only [coreTqpush, h, if_true]

theorem coreTqpush_refused (h : s.pushResult d v ≠ 0) : coreTqpush d rd v s = s.retire d rd (s.pushResult d v) := by
  simp only [coreTqpush, h, if_false]

end

/-! ### The mailbox accesses of a dispatcher (R92, R93, R105) -/

section
variable {s : State} {d : Nat} (rd : Nat) {v : Nat}

theorem coreMboxPost_mapped (h : s.mapped (s.dispPos d).1 (bits v 47 32) = true) :
    coreMboxPost d rd v s = (s.post (s.dispPos d).1 (8192 + (s.dispPos d).2) (bits v 47 32) (bits v 3 0) (s.disp d).mboxData).retire d rd 0 :=
  if_pos h

theorem coreMboxPost_unmapped (h : s.mapped (s.dispPos d).1 (bits v 47 32) = false) :
    coreMboxPost d rd v s = s.retire d rd Code.invalidOperand := if_neg (Bool.eq_false_iff.mp h)

theorem coreMboxOvf_mapped (h : s.mapped (s.dispPos d).1 (bits v 47 32) = true) :
    coreMboxOvf d rd v s = (s.upCore (s.dispPos d).1 (bits v 47 32) fun c => { c with ovf := 0 }).retire d rd
      (s.core (s.dispPos d).1 (bits v 47 32)).ovf.toNat := by
  simp only [coreMboxOvf, h, if_true, Code.done, Nat.zero_mul, Nat.zero_add]

theorem coreMboxOvf_unmapped (h : s.mapped (s.dispPos d).1 (bits v 47 32) = false) :
    coreMboxOvf d rd v s = s.retire d rd (Code.invalidOperand * 65536) := if_neg (Bool.eq_false_iff.mp h)

end

/-! ### The posts of one cycle in the order of their ports (R93) -/

section
variable (f : Post → Nat)

theorem insertPort_perm (m : Post) (l : List Post) : (insertPort f m l).Perm (m :: l) := by
  induction l with
  | nil => exact .refl [m]
  | cons x l ih =>
    rw [insertPort]
    split
    case isTrue => exact .refl (m :: x :: l)
    case isFalse => exact (ih.cons x).trans (.swap m x l)

theorem insertPort_ascending (m : Post) (l : List Post) (h : l.Pairwise fun a b => f a ≤ f b) :
    (insertPort f m l).Pairwise fun a b => f a ≤ f b := by
  induction l with
  | nil => exact List.pairwise_singleton _ m
  | cons x l ih =>
    obtain ⟨hx, hl⟩ := List.pairwise_cons.mp h
    rw [insertPort]
    split
    case isTrue hlt =>
      refine List.pairwise_cons.mpr ⟨fun y hy => ?_, h⟩
      rcases List.mem_cons.mp hy with rfl | hy
      · exact Nat.le_of_lt hlt
      · exact Nat.le_trans (Nat.le_of_lt hlt) (hx y hy)
    case isFalse hge =>
      refine List.pairwise_cons.mpr ⟨fun y hy => ?_, ih hl⟩
      rcases List.mem_cons.mp ((insertPort_perm f m l).mem_iff.mp hy) with rfl | hy
      · exact Nat.not_lt.mp hge
      · exact hx y hy

/-- `now` in the order in which the posts of one cycle are applied. -/
def byPort (now : List Post) : List Post := now.foldl (fun l m => insertPort f m l) []

theorem byPort_perm (now : List Post) : (byPort f now).Perm now := by
  have gathers : ∀ l, (now.foldl (fun l m => insertPort f m l) l).Perm (now ++ l) := by
    induction now with
    | nil => exact fun l => .refl l
    | cons m now ih => exact fun l => (ih _).trans (((insertPort_perm f m l).append_left now).trans List.perm_middle)
  have whole := gathers []
  rwa [List.append_nil] at whole

theorem byPort_ascending (now : List Post) : (byPort f now).Pairwise fun a b => f a ≤ f b :=
  List.foldlRecOn now _ List.Pairwise.nil fun l h m _ => insertPort_ascending f m l h

end

/-! ### MAILBOX_POST (R92, R93) -/

/-- The posts in flight are not part of any core. -/
theorem State.core_posts (s : State) (p lc : Nat) (rest : List Post) :
    (s.upJob p fun j => { j with posts := rest }).core p lc = s.core p lc := by
  simp only [State.core, State.live_upJob_self]
  rfl

/-- The posts that reach a slot of a mapped core in one cycle leave flight and are applied in the order of their ports. -/
theorem exec_mailboxPost {s : State} {p lc slot : Nat} {who : List Nat} {now rest : List Post} (hpower : s.mgmt.powerGood = true)
    (hslot : slot < 16) (hmapped : s.mapped p lc = true)
    (hsplit : splitPosts (lc * 16 + slot) who 0 (s.pt p).live.posts = (now, rest)) :
    exec (.mailboxPost p lc ⟨slot, who⟩) s = .next ((byPort (s.postPort p lc) now).foldl
      (fun t m => t.applyPost p lc slot m.word) (s.upJob p fun j => { j with posts := rest })) := by
  refine (State.live_on s _ hpower).trans (congrArg _ ((if_pos ⟨hslot, hmapped⟩).trans ?_))
  rw [mailboxPost, hsplit]
  rfl

/-- Settles O18: each access by the lemma of its case, and the posts of one cycle by the order of their ports. -/
theorem dispatcherQueueAndMailbox : Obligations.DispatcherQueueAndMailbox := by
  unfold Obligations.DispatcherQueueAndMailbox
  refine ⟨?_, ?_⟩
  · intro s d rd v hruns p lc
    have posts : exec (.coreMboxPost d rd v) s = .next (coreMboxPost d rd v.toNat s) := State.onHart_runs s d _ hruns
    have clears : exec (.coreMboxOvf d rd v) s = .next (coreMboxOvf d rd v.toNat s) := State.onHart_runs s d _ hruns
    rw [exec_coreTqpush rd v hruns, posts, clears]
    exact ⟨fun h => congrArg _ (coreTqpush_pushed rd h), fun h => congrArg _ (coreTqpush_refused rd h),
      fun h => if_neg (Bool.eq_false_iff.mp h), fun h => if_pos h,
      fun h => ⟨congrArg _ (coreMboxPost_mapped rd h), congrArg _ (coreMboxOvf_mapped rd h)⟩,
      fun h => ⟨congrArg _ (coreMboxPost_unmapped rd h), congrArg _ (coreMboxOvf_unmapped rd h)⟩⟩
  · intro s p lc slot who now rest hpower hslot hmapped hsplit n gone
    rw [exec_mailboxPost hpower hslot hmapped hsplit]
    refine ⟨?_, ?_, rfl, byPort_perm _ now, byPort_ascending _ now⟩
    · rintro rfl
      rfl
    · rintro m rfl t
      have hcount : Tbl.get 0 (gone.core p lc).mboxCount slot = n := by rw [State.core_posts]
      have applied : gone.applyPost p lc slot m.word = if n = 65535 then t.raiseP p 0x120 lc slot else t := by
        simp only [State.applyPost, hcount]
        rfl
      exact congrArg _ applied

end Sys2Proof.Machine
end

section
/-! PROOF. The vector unit's rows: elementwise functions, sums and maxima of rows, and integer operations (O5, O6). -/

namespace Sys2Proof.Machine

/-! ### The rows that VEC makes (R131) -/

/-- Element (r, k) that floating-point function `f` makes of slots 0 to 2 and the scalar; B and C count only where `f` reads them. -/
def VecFn.slotElem (f : VecFn) (s : State) (p lc : Nat) (w : TDesc) (sc : Fv) (r k : Nat) : Fv :=
  f.elem (s.slotVal p lc w 0 r k) (if f.usesB then s.slotVal p lc w 1 (if f.rowB then 0 else r) k else .zero)
    (if f = .fma then s.slotVal p lc w 2 r k else .zero) sc

section
variable {s : State} {p lc : Nat} {w : TDesc}

section
variable {used : Prop} [Decidable used] {i : Nat} (r n : Nat)

/-- A source that is read and given is a row of its slot's elements. -/
theorem vecSource_given {o : Opnd} (h : (if used then w.opnd lc i else none) = some o) :
    o.row (s.pt p).live r n = (List.range n).map fun k => if used then s.slotVal p lc w i r k else .zero := by
  obtain ⟨hu, hi⟩ := Option.ite_none_right_eq_some.mp h
  simp only [hu, if_true, Opnd.row_getD s p lc w i r n o hi]

/-- A source that is not read, or whose slot is unused, is a row of zeros. -/
theorem vecSource_absent (h : (if used then w.opnd lc i else none) = none) :
    List.replicate n Fv.zero = (List.range n).map fun k => if used then s.slotVal p lc w i r k else .zero := by
  have zero : ∀ k, (if used then s.slotVal p lc w i r k else .zero) = Fv.zero := fun k => by
    by_cases hu : used
    · simp only [hu, if_true] at h ⊢
      simp only [State.slotVal, h]
    · exact if_neg hu
  simp only [zero, List.map_const', List.length_range]

end

/-- Row `r` of the result, from the rows of A, B and C. -/
theorem vecRow_elements {f : VecFn} {sc : Fv} (r : Nat) {n : Nat} {x y z : List Fv}
    (hx : x = (List.range n).map fun k => s.slotVal p lc w 0 r k)
    (hy : y = (List.range n).map fun k => if f.usesB then s.slotVal p lc w 1 (if f.rowB then 0 else r) k else .zero)
    (hz : z = (List.range n).map fun k => if f = .fma then s.slotVal p lc w 2 r k else .zero) :
    (x.zip (y.zip z)).map (fun v => f.elem v.1 v.2.1 v.2.2 sc) = (List.range n).map fun k => f.slotElem s p lc w sc r k := by
  simp only [hx, hy, hz, List.zip_map', List.map_map, Function.comp_def, VecFn.slotElem]

variable {f : VecFn} {a b d : Opnd} (word : W64) (ha : w.opnd lc 0 = some a) (hd : w.opnd lc 3 = some d)
include ha hd

theorem vecRun_elementwise (hi : f.isInt = false) (hr : f.reduces = false) :
    vecRun f p lc w word s =
      s.writeRows p lc w d (w.result (f.slotElem s p lc w (ofW32 (word.toNat % 2 ^ 32)))) := by
  simp only [vecRun, hd, ha, onOpnd, hi, Bool.false_eq_true, if_false]
  refine congrArg (s.writeRows p lc w d) (List.map_congr_left fun r _ => ?_)
  split
  case h_1 => simp [VecFn.reduces] at hr
  case h_2 => simp [VecFn.reduces] at hr
  case h_3 =>
    refine vecRow_elements r (Opnd.row_getD s p lc w 0 r _ a ha) ?_ ?_
    · split
      case h_1 o h => exact vecSource_given _ _ h
      case h_2 h => exact vecSource_absent _ _ h
    · split
      case h_1 o h => exact vecSource_given _ _ h
      case h_2 h => exact vecSource_absent _ _ h

theorem vecRun_rowSum :
    vecRun .rowSum p lc w word s = s.writeRows p lc w d ((List.range (w.val 0)).map fun r =>
      [laneSum binFp32 fadd ((List.range (w.val 1)).map fun k => s.slotVal p lc w 0 r k)]) := by
  simp only [vecRun, hd, ha, onOpnd, VecFn.isInt, Bool.false_eq_true, if_false, Opnd.row_getD s p lc w 0 _ _ a ha,
    rowSumOf]

theorem vecRun_rowMax :
    vecRun .rowMax p lc w word s = s.writeRows p lc w d ((List.range (w.val 0)).map fun r =>
      [((List.range (w.val 1)).map fun k => s.slotVal p lc w 0 r k).foldl Fv.maxOf .negInf]) := by
  simp only [vecRun, hd, ha, onOpnd, VecFn.isInt, Bool.false_eq_true, if_false, Opnd.row_getD s p lc w 0 _ _ a ha,
    rowMaxOf]

theorem vecRun_integer (hi : f.isInt = true) (hb : w.opnd lc 1 = some b) :
    vecRun f p lc w word s =
      s.writeCodes p d (w.result fun r k => (f.intElem (s.slotInt p lc w 0 r k) (s.slotInt p lc w 1 r k)).toNat) := by
  simp only [vecRun, hd, ha, hb, onOpnd, hi, if_true, State.slotInt, TDesc.result]

end

/-- IMAX and IMIN compare as signed words. -/
theorem VecFn.intElem_imax (u v : W32) : VecFn.imax.intElem u v = if u.toInt < v.toInt then v else u := by
  simp only [VecFn.intElem, BitVec.slt_iff_toInt_lt]

theorem VecFn.intElem_imin (u v : W32) : VecFn.imin.intElem u v = if v.toInt < u.toInt then v else u := by
  simp only [VecFn.intElem, BitVec.slt_iff_toInt_lt]

/-! ### The commands -/

section
variable {s s1 : State} {p lc : Nat} {e : QEntry} {c : Machine.Core} {f : VecFn}
  (hx : TileExecutes s p lc (.vec f) (vecSpec f p lc) s1 e c)
include hx

/-- A VEC row whose instruction executes leaves it in flight with the effect of its function. -/
theorem vecRow_executes {r : State × Nat} (hr : vecRun f p lc e.desc.toNat (e.word.getD 0) s1 = r) :
    s.live (fun s => s.vecRow f p lc) = .next (State.inFlight r p lc (.vec f) (vecSpec f p lc s e.desc.toNat) e c none) :=
  State.tileRow_run s s1 p lc (.vec f) (vecSpec f p lc) e c r none hx (congrArg plain hr)

variable {a b d : Opnd} (ha : TDesc.opnd e.desc.toNat lc 0 = some a) (hd : TDesc.opnd e.desc.toNat lc 3 = some d)
include ha hd

theorem vecRow_elementwise (hi : f.isInt = false) (hr : f.reduces = false) {g : Nat → Nat → Fv}
    (hg : ∀ r k, f.slotElem s1 p lc e.desc.toNat (ofW32 ((e.word.getD 0).toNat % 2 ^ 32)) r k = g r k) :
    s.live (fun s => s.vecRow f p lc) = .next (State.inFlight
      (s1.writeRows p lc e.desc.toNat d (TDesc.result e.desc.toNat g)) p lc (.vec f) (vecSpec f p lc s e.desc.toNat) e c none) :=
  have elements : f.slotElem s1 p lc e.desc.toNat (ofW32 ((e.word.getD 0).toNat % 2 ^ 32)) = g :=
    funext fun r => funext fun k => hg r k
  vecRow_executes hx (elements ▸ vecRun_elementwise _ ha hd hi hr)

theorem vecRow_integer (hi : f.isInt = true) (hb : TDesc.opnd e.desc.toNat lc 1 = some b) {g : W32 → W32 → W32}
    (hg : ∀ u v, f.intElem u v = g u v) :
    s.live (fun s => s.vecRow f p lc) = .next (State.inFlight
      (s1.writeCodes p d (TDesc.result e.desc.toNat fun r k =>
        (g (s1.slotInt p lc e.desc.toNat 0 r k) (s1.slotInt p lc e.desc.toNat 1 r k)).toNat))
      p lc (.vec f) (vecSpec f p lc s e.desc.toNat) e c none) :=
  vecRow_executes hx (by simp only [← hg, vecRun_integer _ ha hd hi hb])

end

/-- Settles O5: each function's elements are those that VEC makes of the slots that the function reads. -/
theorem vecElementwiseResults : Obligations.VecElementwiseResults := by
  unfold Obligations.VecElementwiseResults
  intro s s1 p lc e c a d x w A B C sc hrow hx ha hd
  simp only [List.mem_cons, List.not_mem_nil, or_false] at hrow
  rcases hrow with rfl | rfl | rfl | rfl | rfl | rfl | rfl | rfl | rfl | rfl | rfl <;>
    exact vecRow_elementwise hx ha hd rfl rfl fun r k => by simp [VecFn.slotElem, VecFn.elem, VecFn.usesB, VecFn.rowB, A, B, C, sc, w]

/-- Settles O6: the reductions by their rows, and each integer function by its words. -/
theorem vecRowAndIntegerResults : Obligations.VecRowAndIntegerResults := by
  unfold Obligations.VecRowAndIntegerResults
  refine ⟨?_, ?_⟩
  · intro s s1 p lc e c a d x w hrow hx ha hd
    simp only [List.mem_cons, List.not_mem_nil, or_false] at hrow
    rcases hrow with rfl | rfl
    · dsimp only at hx ⊢
      exact vecRow_executes hx (vecRun_rowSum _ ha hd)
    · dsimp only at hx ⊢
      exact vecRow_executes hx (vecRun_rowMax _ ha hd)
  · intro s s1 p lc e c a b d x w hrow hx ha hb hd
    simp only [List.mem_cons, List.not_mem_nil, or_false] at hrow
    rcases hrow with rfl | rfl | rfl | rfl | rfl | rfl
    · exact vecRow_integer hx ha hd rfl hb fun _ _ => rfl
    · exact vecRow_integer hx ha hd rfl hb fun _ _ => rfl
    · exact vecRow_integer hx ha hd rfl hb fun _ _ => rfl
    · exact vecRow_integer hx ha hd rfl hb fun _ _ => rfl
    · exact vecRow_integer hx ha hd rfl hb VecFn.intElem_imax
    · exact vecRow_integer hx ha hd rfl hb VecFn.intElem_imin

end Sys2Proof.Machine
end

section
/-! PROOF. Tickets, barrier arrivals and pruning by tile instructions (O14). -/

namespace Sys2Proof.Machine

/-! ### TKT_FAA (R134, R156) -/

/-- TKT_FAA's result goes to the scratchpad, where slot 1 names a place for it, and is the instruction's word. -/
def State.ticketResult (s : State) (p lc : Nat) (w : TDesc) (v : W64) : State × Nat × Option W64 :=
  let t := match w.opnd lc 1 with
    | some o => s.slmStore p (bwrites o.addr (leBytes 8 v.toNat)) none
    | none => (s, false)
  (t.1, if t.2 then Code.uncorrectable else Code.done, some v)

section
variable {s : State} {p lc : Nat} {w : TDesc} {e : QEntry}

/-- A re-execution takes no ticket: its result is the one that it received before. -/
theorem tktFaaRun_again {v : W64} (h : e.faa = some v) : tktFaaRun p lc w e s = s.ticketResult p lc w v := by
  simp only [tktFaaRun, h, Option.isNone_some, Bool.false_eq_true, false_and, if_false]
  rfl

theorem tktFaaRun_takes (h : e.faa = none) (hread : (s.pt p).live.tktFails (w.dim 1) = false) :
    tktFaaRun p lc w e s =
      let r := ((s.pt p).live.ticket (w.dim 1)).faa (w.dim 0)
      (s.upJob p fun j => { j with tickets := Tbl.put j.tickets (w.dim 1) r.2 }).ticketResult p lc w (BitVec.ofNat 64 r.1) := by
  simp only [tktFaaRun, h, hread, Bool.false_eq_true, and_false, if_false]
  rfl

end

/-! ### BARRIER (R98, R135) -/

/-- The generation that a core keeps for a context advances when it first sends its arrival; a re-execution carries the one it has. -/
theorem barrierRun_arrives {s : State} {p lc : Nat} {w : TDesc} {e : QEntry} :
    barrierRun p lc w e s =
      let g := e.gen.getD (Tbl.get 0 (s.core p lc).barGen (w.dim 0))
      let s2 := if e.gen = none then s.upCore p lc fun k => { k with barGen := Tbl.set 0 k.barGen (w.dim 0) (g + 1) } else s
      (s2.sendArrival p (w.dim 0) lc g (w.func % 16), Code.done, none) := by
  cases hg : e.gen with
  | none => simp only [barrierRun, hg, Option.isSome_none, Bool.false_eq_true, if_false, if_true]
  | some g => simp only [barrierRun, hg, Option.isSome_some, if_true, reduceCtorEq, if_false]

/-! ### KV_PRUNE (R194) -/

theorem kvPruneRun_marks {s : State} {p lc : Nat} {w : TDesc} (word : W64) {a d g : Opnd} (ha : w.opnd lc 0 = some a)
    (hd : w.opnd lc 1 = some d) (hg : w.opnd lc 2 = some g) :
    kvPruneRun p lc w word s =
      let j := (s.pt p).live
      let r := s.storeIn p d.space d.core (rowWrites j d.space d.core d.addr 1 ((List.range (w.val 0)).map fun i =>
        if (a.elem j 0 i).below (ofW32 word.toNat) ∧ prunProtected j g i = false then 1 else 0))
      (r.1, storeStatus r) := by
  simp only [kvPruneRun, ha, hd, hg, onOpnd]

/-- Settles O14: TKT_FAA by whether it executes again, BARRIER and KV_PRUNE by their effects. -/
theorem ticketBarrierAndPruneRows : Obligations.TicketBarrierAndPruneRows := by
  unfold Obligations.TicketBarrierAndPruneRows
  intro s s1 p lc e c w
  refine ⟨fun hx hread => ?_, fun hx => ?_, fun a d g ha hd hg hx => ?_⟩
  · cases hfaa : e.faa with
    | some v => exact State.tileRow_run s s1 p lc .tktFaa (tktFaaSpec p lc) e c _ (some v) hx (tktFaaRun_again hfaa)
    | none => exact State.tileRow_run s s1 p lc .tktFaa (tktFaaSpec p lc) e c _ _ hx (tktFaaRun_takes hfaa (hread hfaa))
  · exact State.tileRow_run s s1 p lc .barrier (barrierSpec p lc) e c (_, Code.done) none hx barrierRun_arrives
  · exact State.tileRow_run s s1 p lc .kvPrune (kvPruneSpec p lc) e c _ none hx (congrArg plain (kvPruneRun_marks _ ha hd hg))

end Sys2Proof.Machine
end

section
/-! PROOF. The end of a tile instruction in flight, and the watches over those that do not end (O16). -/

namespace Sys2Proof.Machine

/-! ### TILE_COMPLETE (R145, R218) -/

/-- What becomes of an instruction that has left its unit: its pins and walk are released, its claim closes, its bank becomes active, and
it completes. -/
def State.flightEnds (s : State) (p lc : Nat) (f : Flight) : State :=
  let s0 := s.unpinTile p f.pages f.writes
  let s1 := match f.walk with
    | some (n, v) => s0.closeWalk p n v
    | none => s0
  let s2 := if f.closes then s1.claimClose p (TDesc.claimIdx f.q.desc.toNat) ((s1.phys p lc).getD 0) else s1
  let s3 := if TDesc.tileOp f.q.desc.toNat = some .tableSwap then
    s2.upCore p lc fun c => { c with bank := TDesc.func f.q.desc.toNat % 2 } else s2
  s3.completeTile p lc f.q f.status f.word

section
variable {s : State} {p lc : Nat} {f : Flight} (hlive : (s.core p lc).failed ≠ some 1)
include hlive

theorem tileComplete_comp (hf : (s.core p lc).comp = some f) :
    tileComplete p lc false s = (s.upCore p lc fun c => { c with comp := none }).flightEnds p lc f := by
  simp only [tileComplete, hf, hlive, Bool.false_eq_true, if_false]
  rfl

theorem tileComplete_move (hf : (s.core p lc).move = some f) :
    tileComplete p lc true s = (s.upCore p lc fun c => { c with move := none }).flightEnds p lc f := by
  simp only [tileComplete, hf, hlive, if_true, if_false]
  rfl

end

/-! ### Remap copies, stalls and watchdogs (R114, R233, R436) -/

section
variable {s : State} {p lc : Nat}

theorem exec_remapCopyDone_copying (hpower : s.mgmt.powerGood = true) (h : (s.core p lc).copying = true) :
    exec (.remapCopyDone p lc) s = .next (s.upCore p lc fun c => { c with copying := false }) :=
  (State.live_on s _ hpower).trans (congrArg _ (if_pos h))

theorem residencyStall_reports {b : Nat} (hb : (s.core p lc).check = some b) (hlate : b + 4096 < s.mgmt.beat)
    (hfirst : (s.core p lc).stalled = false) :
    residencyStall p lc s = (s.raiseP p 0x113 (s.core p lc).checkPage lc).upCore p lc fun c => { c with stalled := true } := by
  simp only [residencyStall, hb, hlate, hfirst, and_self, if_true]

theorem tileWatchdog_late {move : Bool} {f : Flight} (hf : (if move then (s.core p lc).move else (s.core p lc).comp) = some f)
    (hlate : f.beat + 2 < s.mgmt.beat) : tileWatchdog p lc move s = s.failCore p lc 1 := by
  simp only [tileWatchdog, hf, hlate, if_true]

end

/-- Settles O16: each command, with power good, by the lemma of its case. -/
theorem tileCompletionAndWatch : Obligations.TileCompletionAndWatch := by
  unfold Obligations.TileCompletionAndWatch
  intro s p lc hpower
  have completes : ∀ move, exec (.tileComplete p lc move) s = .next (tileComplete p lc move s) := fun _ => State.live_on s _ hpower
  have stalls : exec (.residencyStall p lc) s = .next (residencyStall p lc s) := State.live_on s _ hpower
  have watches : ∀ move, exec (.tileWatchdog p lc move) s = .next (tileWatchdog p lc move s) := fun _ => State.live_on s _ hpower
  rw [completes, completes, stalls, watches, watches]
  exact ⟨fun f hf hlive => congrArg _ (tileComplete_comp hlive hf), fun f hf hlive => congrArg _ (tileComplete_move hlive hf),
    exec_remapCopyDone_copying hpower, fun b hb hlate hfirst => congrArg _ (residencyStall_reports hb hlate hfirst),
    fun f hf hlate => congrArg _ (tileWatchdog_late hf hlate), fun f hf hlate => congrArg _ (tileWatchdog_late hf hlate)⟩

end Sys2Proof.Machine
end

section
/-! PROOF. The operations on claim records, and the reservations that they end (O17). -/

namespace Sys2Proof.Machine

/-! ### Reservations of a scratchpad unit (R284) -/

/-- The window's base is the base of a 64-byte unit, so that an address of a scratchpad unit lies in the window. -/
theorem slmWindow_unit {a off : Nat} (h : a / 64 = (slmWindow + off) / 64) : slmWindow ≤ a ∧ (a - slmWindow) / 64 = off / 64 := by
  simp only [slmWindow] at h ⊢
  omega

/-- No hart holds a reservation of a unit that a requester which is no hart has operated on. -/
theorem dropResv_ends {ds : Tbl Disp} {off : Nat} {d : Nat × Disp} (hd : d ∈ dropResv ds [off / 64] none) {x : Nat × Nat}
    (hx : d.2.resv = some x) : x.1 / 64 ≠ (slmWindow + off) / 64 := by
  intro hunit
  obtain ⟨hwindow, hoff⟩ := slmWindow_unit hunit
  obtain ⟨e, -, rfl⟩ := List.mem_map.mp hd
  cases he : e.2.resv with
  | none => simp [he] at hx
  | some y =>
    simp only [he] at hx
    split at hx
    case isTrue => simp at hx
    case isFalse hkept =>
      obtain rfl : y = x := Option.some.inj (he.symm.trans hx)
      exact hkept ⟨hwindow, by simp [hoff], by simp⟩

theorem State.disps_slmOperate (s : State) (p off : Nat) (who : Option Nat) :
    ((s.slmOperate p off who).pt p).live.disps = dropResv (s.pt p).live.disps [off / 64] who := by
  rw [State.slmOperate, State.live_upJob_self]

theorem State.claimRec_slmOperate (s : State) (p off i : Nat) (who : Option Nat) :
    ((s.slmOperate p off who).pt p).claimRec i = (s.pt p).claimRec i := by
  rw [State.slmOperate, Ptn.claimRec, State.live_upJob_self]
  rfl

/-! ### The record's states (R153) -/

section
variable {s : State} {p i : Nat} (pc : Nat)

section
variable (hread : i ∉ (s.pt p).live.slmBad)
include hread

/-- A FREE record becomes TAKEN by the core. -/
theorem State.claimTake_free (h : bits ((s.pt p).claimRec i) 1 0 = 0) :
    s.claimTake p i pc = ((s.slmOperate p (8 * i) none).bankWrite p (8 * i)
      (setBits (setBits ((s.pt p).claimRec i) 28 16 pc) 1 0 1), .proceed) := by
  simp only [State.claimTake, hread, if_false, State.claimRec_slmOperate, h]

theorem State.claimTake_taken (h : bits ((s.pt p).claimRec i) 1 0 = 1) :
    s.claimTake p i pc =
      (s.slmOperate p (8 * i) none, if bits ((s.pt p).claimRec i) 28 16 = pc then .proceed else .stale) := by
  simp only [State.claimTake, hread, if_false, State.claimRec_slmOperate, h, if_true, ne_eq, ite_not]
  split <;> rfl

theorem State.claimTake_committed (h : bits ((s.pt p).claimRec i) 1 0 = 2) :
    s.claimTake p i pc =
      (s.slmOperate p (8 * i) none, if bits ((s.pt p).claimRec i) 28 16 = pc then .skip else .stale) := by
  simp only [State.claimTake, hread, if_false, State.claimRec_slmOperate, h, ne_eq, ite_not]
  split <;> rfl

theorem State.claimTake_reserved (h : bits ((s.pt p).claimRec i) 1 0 = 3) :
    s.claimTake p i pc = (s.slmOperate p (8 * i) none, .state) := by
  simp only [State.claimTake, hread, if_false, State.claimRec_slmOperate, h]

end

theorem State.claimClose_own (h : bits ((s.pt p).claimRec i) 1 0 = 1) (hown : bits ((s.pt p).claimRec i) 28 16 = pc) :
    s.claimClose p i pc = (s.slmOperate p (8 * i) none).bankWrite p (8 * i)
      (setBits (setBits ((s.pt p).claimRec i) 1 0 2) 2 2 0) := by
  simp only [State.claimClose, State.claimRec_slmOperate, h, hown, and_self, if_true]

theorem State.claimClose_other (h : ¬ (bits ((s.pt p).claimRec i) 1 0 = 1 ∧ bits ((s.pt p).claimRec i) 28 16 = pc)) :
    s.claimClose p i pc = s.slmOperate p (8 * i) none := by
  simp only [State.claimClose, State.claimRec_slmOperate, h, if_false]

end

/-- Settles O17: what the operation leaves of the record and of the reservations, and each answer by the record's state. -/
theorem claimRecordOperations : Obligations.ClaimRecordOperations := by
  unfold Obligations.ClaimRecordOperations
  intro s p i pc hread r t
  refine ⟨State.claimRec_slmOperate s p (8 * i) i none, fun d hd x hx => ?_, State.claimTake_free pc hread,
    State.claimTake_taken pc hread, State.claimTake_committed pc hread, State.claimTake_reserved pc hread,
    State.claimClose_own pc, State.claimClose_other pc⟩
  rw [State.disps_slmOperate] at hd
  exact dropResv_ends hd hx

end Sys2Proof.Machine
end

section
/-! PROOF. Sequence edits: what a request in word 2 leaves of an idle and of a busy sequence, and how the walk of the new version ends an
edit (O24). -/

namespace Sys2Proof.Machine

section
variable {s : State} {p n : Nat}

/-! ### Requests (R167) -/

theorem State.word2Written_without_req {w : Nat} (h : w % 2 = 0) : s.word2Written p n w = s := if_pos h

section
variable {w : Nat} (h : w % 2 = 1)
include h

theorem State.word2Written_busy (hbusy : (s.seqOf p n).edit.isSome = true) :
    s.word2Written p n w =
      ((s.setSlm64 p ((s.pt p).seqOff n + 16) (setBits w 0 0 0)).upSeq p n fun q => { q with dropped := true }).syncSeq p n := by
  have hreq : ¬ w % 2 = 0 := by omega
  simp only [State.word2Written, hreq, hbusy, if_false, if_true]

theorem State.word2Written_idle (hidle : (s.seqOf p n).edit = none) : s.word2Written p n w = s.takeEdit p n w := by
  have hreq : ¬ w % 2 = 0 := by omega
  simp only [State.word2Written, hreq, hidle, Option.isSome_none, Bool.false_eq_true, if_false]

end

/-- A write of word 2 of a sequence that the job has, which the bank detects. -/
theorem exec_seqEditRequest_detected (hpower : s.mgmt.powerGood = true) (hjob : (s.pt p).job ≠ .noJob)
    (hn : n < (s.pt p).info.seqEntries) (w : W64) :
    exec (.seqEditRequest p n w) s =
      .next ((s.setSlm64 p ((s.pt p).seqOff n + 16) w.toNat).word2Written p n w.toNat) := by
  have hdetects : ¬ ((s.pt p).job = .noJob ∨ (s.pt p).info.seqEntries ≤ n) := not_or.mpr ⟨hjob, Nat.not_le.mpr hn⟩
  exact (State.live_on s _ hpower).trans (congrArg _ (if_neg hdetects))

/-! ### The end of the walk (R168) -/

section
variable {e : Edit} (he : (s.seqOf p n).edit = some e) (hv : e.valid = false)
include he hv

theorem editValidated_malformed (h : bits e.word.toNat 63 48 ≠ 0 ∨ bits e.word.toNat 11 1 ≠ 0 ∨
    (s.pt p).validate (bits e.word.toNat 47 12) = .malformed) :
    editValidated p n s = s.refuseEdit p n Code.ptMalformed 0 := by
  simp only [editValidated, he, hv, Bool.false_eq_true, if_false]
  split
  case isTrue => rfl
  case isFalse hreserved =>
    rw [not_or] at hreserved
    have hwalk := (h.resolve_left hreserved.1).resolve_left hreserved.2
    simp only [hwalk]

theorem editValidated_found {bs : List (Nat × Nat)} (h63 : bits e.word.toNat 63 48 = 0) (h11 : bits e.word.toNat 11 1 = 0)
    (hwalk : (s.pt p).validate (bits e.word.toNat 47 12) = .ok bs) :
    editValidated p n s = if 4096 < bs.length then s.refuseEdit p n Code.limitExceeded bs.length
      else (s.upSeq p n fun q => { q with edit := some { e with valid := true, blocks := bs }, newBlocks := bs.length }).syncSeq p n := by
  simp only [editValidated, he, hv, h63, h11, hwalk, Bool.false_eq_true, ne_eq, not_true_eq_false, or_self, if_false]

end

end

/-- Settles O24: a request by whether REQ is set and the sequence busy, and a walk by what it finds. -/
theorem sequenceEditRows : Obligations.SequenceEditRows := by
  unfold Obligations.SequenceEditRows
  intro s p n w hpower hjob hn off s1 empty ed
  have validated : exec (.editValidated p n) s = .next (editValidated p n s) := State.live_on s _ hpower
  rw [exec_seqEditRequest_detected hpower hjob hn, validated]
  refine ⟨fun h => congrArg _ (State.word2Written_without_req h), fun h hbusy => congrArg _ (State.word2Written_busy h hbusy),
    fun h hidle => ?_, ?_⟩
  · rw [State.word2Written_idle h hidle, State.takeEdit, BitVec.ofNat_toNat, BitVec.setWidth_eq]
  · intro e he hv stop root
    exact ⟨fun h => congrArg _ (editValidated_malformed he hv h),
      fun bs h63 h11 hwalk => congrArg _ (editValidated_found he hv h63 h11 hwalk)⟩

end Sys2Proof.Machine
end

section
/-! PROOF. Attention: the rows of a tile, what ATTN_FWD, ATTN_BWD and ATTN_MERGE make of them, and the rules of a row and of a merged row
(O11). -/

namespace Sys2Proof.Machine

/-! ### A row of ATTN_FWD (R185) -/

/-- The flags of a masked list go with each element when the list is zipped with them again. -/
theorem zip_map_zip {α β : Type} (f : α × Bool → β) (xs : List α) (ok : List Bool) :
    ((xs.zip ok).map f).zip ok = (xs.zip ok).map fun x => (f x, x.2) := by
  induction xs generalizing ok with
  | nil => rfl
  | cons x xs ih =>
    cases ok with
    | nil => rfl
    | cons b ok => simp [ih]

/-- Elements next to functions of their places. -/
theorem zip_map_places {α β : Type} (f : Nat → β) (xs : List α) :
    xs.zip ((List.range xs.length).map f) = (xs.zip (List.range xs.length)).map fun x => (x.1, f x.2) := by
  rw [List.zip_map_right]
  rfl

section
variable (cl : Nat) (scale : Fv) (kexp vexp : Int) (q : List Fv) (ks vs : List (List Fv)) {ok : List Bool} (r : FwdRow)

theorem fwdRow_shut (h : ok.any id = false) : fwdRow cl scale kexp vexp q ks vs ok r =
    { r with p := ok.map fun _ => Fv.zero, pv := r.o.map fun _ => Fv.zero } := if_pos h

theorem fwdRow_open (h : ok.any id = true) :
    let sc := (ks.zip ok).map fun x => if x.2 then fmul scale ((dot77 q x.1 0).scale kexp).r32 else Fv.negInf
    let m := (((sc.zip ok).filter (·.2)).map (·.1)).foldl Fv.maxOf r.m
    let alpha := if r.m = .negInf then Fv.zero else SfuFn.exp.eval (fsub r.m m)
    let ps := (sc.zip ok).map fun x => if x.2 then roundP cl (SfuFn.exp.eval (fsub x.1 m)) else Fv.zero
    let x := fwdRow cl scale kexp vexp q ks vs ok r
    x.m = m ∧
    x.l = fadd (fmul alpha r.l) (((ps.zip ok).filter (·.2)).foldl (fun t x => fadd t x.1) .zero) ∧
    x.o = (r.o.zip (List.range r.o.length)).map fun y =>
      fadd (fmul alpha y.1) ((dot77 ps (column (maskRows vs ok) y.2) 0).scale vexp).r32 := by
  intro sc m alpha ps x
  have rounded : (((sc.zip ok).map fun x => if x.2 then SfuFn.exp.eval (fsub x.1 m) else Fv.zero).zip ok).map
      (fun x => if x.2 then roundP cl x.1 else Fv.zero) = ps := by
    rw [zip_map_zip, List.map_map]
    exact List.map_congr_left fun ⟨_, shown⟩ _ => by cases shown <;> rfl
  have hx : x = fwdRow cl scale kexp vexp q ks vs ok r := rfl
  simp only [fwdRow, h, Bool.true_eq_false, if_false] at hx
  rw [hx]
  refine ⟨rfl, ?_, ?_⟩
  · rw [← rounded]
  · rw [← rounded, zip_map_places, List.map_map]
    rfl

end

/-! ### Tables of rows -/

theorem map_range_zip_range {α : Type} (f : Nat → α) (n : Nat) :
    ((List.range n).map f).zip (List.range n) = (List.range n).map fun i => (f i, i) := by
  simpa using List.zip_map' (f := f) (g := id) (l := List.range n)

/-- A list of `n` elements, next to their places. -/
theorem zip_range_map {α β : Type} {xs : List α} {n : Nat} (h : xs.length = n) (d : α) (f : α × Nat → β) :
    (xs.zip (List.range n)).map f = (List.range n).map fun i => f (xs.getD i d, i) := by
  refine List.ext_getElem (by simp [h]) fun i hi _ => ?_
  have hlt : i < xs.length := by simp at hi; omega
  simp [hlt]

theorem getD_map_range {α : Type} (f : Nat → α) {n i : Nat} (h : i < n) (d : α) : ((List.range n).map f).getD i d = f i := by
  simp [h]

theorem getD_table {α : Type} (f : Nat → Nat → α) {m n i k : Nat} (hi : i < m) (hk : k < n) (d : α) :
    (((List.range m).map fun i => (List.range n).map (f i)).getD i []).getD k d = f i k := by
  rw [getD_map_range _ hi, getD_map_range _ hk]

theorem maskRows_table (rows : Nat → List Fv) (ok : Nat → Bool) (n : Nat) :
    maskRows ((List.range n).map rows) ((List.range n).map ok) =
      (List.range n).map fun i => if ok i then rows i else (rows i).map fun _ => .zero := by
  rw [maskRows, List.zip_map', List.map_map]
  rfl

/-- A column of rows of which `ok` leaves some out. -/
theorem column_maskRows (rows : Nat → List Fv) (ok : Nat → Bool) (n c : Nat) :
    column (maskRows ((List.range n).map rows) ((List.range n).map ok)) c =
      (List.range n).map fun i => if ok i then (rows i).getD c .zero else .zero := by
  rw [maskRows_table, column, List.map_map]
  refine List.map_congr_left fun i _ => ?_
  cases h : ok i with
  | true => simp only [Function.comp_def, h, if_true]
  | false =>
    simp only [Function.comp_def, h, Bool.false_eq_true, if_false, List.getD_eq_getElem?_getD, List.getElem?_map]
    cases (rows i)[c]? <;> rfl

/-- The product of a row with a key that is present, in the table of the products with all of them. -/
theorem product_present (rows keys : Nat → List Fv) (here : Nat → Bool) (e : Int) {m n i k : Nat} (hi : i < m) (hk : k < n)
    (h : here k = true) :
    ((((List.range m).map rows).map fun r => (maskRows ((List.range n).map keys) ((List.range n).map here)).map fun k =>
      dot77 r k e).getD i []).getD k .zero = dot77 (rows i) (keys k) e := by
  simp only [maskRows_table, List.map_map, Function.comp_def]
  rw [getD_table _ hi hk, h]
  rfl

/-! ### The tile of a row (R181, R185, R191) -/

/-- What a row of ATTN_FWD or ATTN_BWD computes on: the job after the stream, the descriptor, its parameter block, its geometry, the leaf of
its keys, and the operands of slots 0 to 2. -/
structure AttnTile where
  j : JobData
  lc : Nat
  w : TDesc
  par : AttnPar
  geom : SeqGeom
  leaf : Option Nat
  query : Opnd
  other : Opnd
  stats : Opnd

namespace AttnTile

/-- Key `k` of the tile, and its value. -/
def key (x : AttnTile) (k : Nat) : List Fv := kvRow x.j x.lc x.geom x.par.kbuf k
def value (x : AttnTile) (k : Nat) : List Fv := kvRow x.j x.lc x.geom x.par.vbuf k

/-- The exponents of the page's key and value scales (R164). -/
def kexp (x : AttnTile) : Int := ((bits (x.leaf.getD 0) 63 56 : Nat) : Int) - 127
def vexp (x : AttnTile) : Int := ((bits (x.leaf.getD 0) 55 48 : Nat) : Int) - 127

/-- Word `r` of row `i` of the statistics block (R184). -/
def stat (x : AttnTile) (r i : Nat) : Nat := statWord x.j x.lc x.stats r i

/-- Row `i` as ATTN_FWD finds it: empty under INIT, else as the statistics and the output hold it. -/
def before (x : AttnTile) (i : Nat) : FwdRow :=
  if x.w.func % 2 = 1 then { m := .negInf, l := .zero, o := List.replicate (x.w.val 2) .zero }
  else { m := ofW32 (x.stat 0 i), l := ofW32 (x.stat 1 i), o := x.other.row x.j i (x.w.val 2) }

/-- Row `i` as ATTN_FWD makes it, of the width class `cl`. -/
def fwd (x : AttnTile) (cl i : Nat) : FwdRow :=
  fwdRow cl (ofW32 x.par.scale) x.kexp x.vexp (x.query.row x.j i (x.w.val 2)) ((List.range (x.w.val 1)).map x.key)
    ((List.range (x.w.val 1)).map x.value) ((List.range (x.w.val 1)).map (allowed x.j x.par x.leaf x.w i)) (x.before i)

/-- The output of a row: under FINAL divided by its sum. -/
def output (x : AttnTile) (r : FwdRow) : List Fv :=
  if x.w.func / 2 % 2 = 1 then (if r.m = .negInf then List.replicate (x.w.val 2) .zero else r.o.map fun v => fdiv v r.l) else r.o

/-- The statistics of row `i`: under FINAL with its LSE. -/
def statistics (x : AttnTile) (i : Nat) (r : FwdRow) : List BWrite :=
  statWrite x.stats 0 i r.m.toW32 ++ statWrite x.stats 1 i r.l.toW32 ++
    (if x.w.func / 2 % 2 = 1 then
      statWrite x.stats 2 i (if r.m = .negInf then Fv.negInf else fadd r.m (SfuFn.ln.eval r.l)).toW32 else []) ++
    statWrite x.stats 3 i ((if r.m = .negInf then 1 else 0) + if x.w.func / 2 % 2 = 1 then 2 else 0)

/-- Does the pair of row `i` and key `k` count: is it allowed, in a row that is not empty (R186, R191)? -/
def counts (x : AttnTile) (i k : Nat) : Bool := x.stat 3 i % 2 == 0 && allowed x.j x.par x.leaf x.w i k

theorem counts_present {x : AttnTile} {i k : Nat} (h : x.counts i k = true) : keyPresent x.leaf x.par k = true := by
  simp only [counts, allowed, maskOk, Bool.and_eq_true] at h
  obtain ⟨-, ⟨⟨-, hpresent⟩, -⟩, -⟩ := h
  exact hpresent

/-- p and ds of a pair, zero where it does not count (R191). -/
def prob (x : AttnTile) (i k : Nat) : Fv :=
  if x.counts i k then roundBf16 (SfuFn.exp.eval (fsub (fmul (ofW32 x.par.scale)
    (dot77 (x.query.row x.j i (x.w.val 2)) (x.key k) x.kexp)) (ofW32 (x.stat 2 i)))) else .zero
def dscore (x : AttnTile) (i k : Nat) : Fv :=
  if x.counts i k then roundBf16 (fmul (x.prob i k)
    (fsub (dot77 (x.other.row x.j i (x.w.val 2)) (x.value k) x.vexp) (ofW32 (x.stat 4 i)))) else .zero

/-- A pair's p and ds, from products that are those of the row with its key and value where the key is present. -/
theorem pair {x : AttnTile} {i k : Nat} {score value : Fv}
    (hs : keyPresent x.leaf x.par k = true → score = dot77 (x.query.row x.j i (x.w.val 2)) (x.key k) x.kexp)
    (hv : keyPresent x.leaf x.par k = true → value = dot77 (x.other.row x.j i (x.w.val 2)) (x.value k) x.vexp) :
    (if x.counts i k = false then (Fv.zero, Fv.zero)
      else
        let pr := roundBf16 (SfuFn.exp.eval (fsub (fmul (ofW32 x.par.scale) score) (ofW32 (x.stat 2 i))))
        (pr, roundBf16 (fmul pr (fsub value (ofW32 (x.stat 4 i)))))) = (x.prob i k, x.dscore i k) := by
  cases hcounts : x.counts i k with
  | false => simp only [prob, dscore, hcounts, if_true, Bool.false_eq_true, if_false]
  | true =>
    have hpresent := counts_present hcounts
    simp only [prob, dscore, hcounts, hs hpresent, hv hpresent, if_true, Bool.true_eq_false, if_false]

/-- The gradient buffer at `base` (R190). -/
def gradient (x : AttnTile) (base : Nat) : Opnd :=
  { fmt := ⟨0x01, 32, .flt binFp32⟩, space := 1, core := x.lc, addr := base, stride := up64 (x.w.dim 2 * 4) }

/-- What a gradient is added to: zero when it starts. -/
def old (x : AttnTile) (starts : Bool) (base r c : Nat) : Fv :=
  if starts then .zero else ((x.gradient base).row x.j r (x.w.val 2)).getD c .zero

/-- A row that is added to row `r` of a gradient. -/
theorem add_old (x : AttnTile) (starts : Bool) (base r : Nat) (f : Nat → Fv) :
    (((if starts then List.replicate (x.w.val 2) Fv.zero else (x.gradient base).row x.j r (x.w.val 2)).zip (List.range (x.w.val 2))).map
      fun y => fadd y.1 (f y.2)) = (List.range (x.w.val 2)).map fun c => fadd (x.old starts base r c) (f c) := by
  cases starts with
  | false => exact zip_range_map (by simp [Opnd.row]) _ _
  | true =>
    refine (zip_range_map (by simp) Fv.zero _).trans (List.map_congr_left fun c hc => ?_)
    simp [old, List.mem_range.mp hc]

/-- Element (i, c) of the gradient of the queries, and element (k, c) of those of the keys and the values (R191). -/
def dq (x : AttnTile) (i c : Nat) : Fv :=
  fadd (x.old (x.w.func % 2 == 1) x.par.dq i c) (fmul (ofW32 x.par.scale) (dot77 ((List.range (x.w.val 1)).map (x.dscore i))
    ((List.range (x.w.val 1)).map fun k => if x.counts i k then (x.key k).getD c .zero else .zero) x.kexp))
def dk (x : AttnTile) (k c : Nat) : Fv :=
  fadd (x.old (x.w.func / 2 % 2 == 1) x.par.dk k c) (fmul (ofW32 x.par.scale) (dot77 ((List.range (x.w.val 0)).map fun i => x.dscore i k)
    ((List.range (x.w.val 0)).map fun i => if x.counts i k then (x.query.row x.j i (x.w.val 2)).getD c .zero else .zero) 0))
def dv (x : AttnTile) (k c : Nat) : Fv :=
  fadd (x.old (x.w.func / 2 % 2 == 1) x.par.dv k c) (dot77 ((List.range (x.w.val 0)).map fun i => x.prob i k)
    ((List.range (x.w.val 0)).map fun i => if x.counts i k then (x.other.row x.j i (x.w.val 2)).getD c .zero else .zero) 0)

/-- The gradients are added in the order DQ, DK, DV; answers the status of the first that failed. -/
def writeGradients (x : AttnTile) (s : State) (p : Nat) (dq dk dv : List (List Fv)) : State × Nat :=
  let r1 := s.writeAcc p x.lc x.w (x.gradient x.par.dq) dq
  let r2 := r1.1.writeAcc p x.lc x.w (x.gradient x.par.dk) dk
  let r3 := r2.1.writeAcc p x.lc x.w (x.gradient x.par.dv) dv
  (r3.1, if r1.2 ≠ Code.done then r1.2 else if r2.2 ≠ Code.done then r2.2 else r3.2)

end AttnTile

section
variable {s : State} {p lc : Nat} {w : TDesc} {a : AttnPar} {g : SeqGeom} {root : Option Nat} {q o st : Opnd}

/-- The tile that a row finds once the keys and values are streamed into its buffers. -/
def State.attnTile (s : State) (p lc : Nat) (w : TDesc) (a : AttnPar) (g : SeqGeom) (root : Option Nat) (q o st : Opnd) : AttnTile :=
  let leaf := (s.pt p).live.leafOf root g a
  { j := ((s.streamKv p lc g a w leaf).1.pt p).live, lc := lc, w := w, par := a, geom := g, leaf := leaf, query := q, other := o, stats := st }

/-- Rows are written to the output and the statistics after them; answers the status of the first that failed. -/
def State.writeTile (s : State) (p lc : Nat) (w : TDesc) (o : Opnd) (rows : List (List Fv)) (stats : List BWrite) : State × Nat :=
  let r1 := s.writeAcc p lc w o rows
  let r2 := r1.1.storeIn p 1 lc stats
  (r2.1, if r1.2 ≠ Code.done then r1.2 else storeStatus r2)

variable (hq : w.opnd lc 0 = some q) (ho : w.opnd lc 1 = some o) (hst : w.opnd lc 2 = some st) (hck : w.ck = false)
  (hstream : (s.streamKv p lc g a w ((s.pt p).live.leafOf root g a)).2 = false)
include hq ho hst hck hstream

/-- ATTN_FWD without SCORE and without a checksum writes each row's output and statistics (R185). -/
theorem attnFwdRun_unscored (cl : Nat) (hscore : w.func / 4 % 2 = 0) :
    let x := s.attnTile p lc w a g root q o st
    (w.func % 2 = 1 ∨ ∀ i < w.val 0, x.stat 3 i / 2 % 2 = 0) →
    attnFwdRun p lc w a g cl root s =
      (s.streamKv p lc g a w x.leaf).1.writeTile p lc w o ((List.range (w.val 0)).map fun i => x.output (x.fwd cl i))
        ((List.range (w.val 0)).flatMap fun i => x.statistics i (x.fwd cl i)) := by
  intro x hopen
  have unopened : ¬ ((w.func % 2 == 1) = false ∧ ((List.range (w.val 0)).any fun i => x.stat 3 i / 2 % 2 == 1) = true) := by
    rintro ⟨hinit, hfinal⟩
    obtain ⟨i, hi, hi1⟩ := List.any_eq_true.mp hfinal
    rcases hopen with hopen | hopen
    · simp [hopen] at hinit
    · simp [hopen i (List.mem_range.mp hi)] at hi1
  simp only [attnFwdRun, hq, ho, hst, onOpnd, hstream, hck, hscore, Bool.false_eq_true, false_and, if_false, Nat.zero_ne_one]
  refine (if_neg unopened).trans ?_
  simp only [beq_iff_eq]
  change State.writeTile _ p lc w o _ _ = State.writeTile _ p lc w o _ _
  have hw : x.w = w := rfl
  congr 1
  · rw [List.map_map, List.map_map]
    refine List.map_congr_left fun i _ => ?_
    by_cases hfinal : w.func / 2 % 2 = 1 <;> simp only [Function.comp_def, AttnTile.output, hw, hfinal, if_true, if_false] <;> rfl
  · rw [List.map_map, map_range_zip_range, List.flatMap_map]
    refine congrArg (List.flatMap · _) (funext fun i => ?_)
    by_cases hfinal : w.func / 2 % 2 = 1 <;> simp only [Function.comp_def, AttnTile.statistics, hw, hfinal, if_true, if_false] <;> rfl

/-- ATTN_BWD without a checksum adds each product to its gradient, or starts it (R190, R191). -/
theorem attnBwdRun_gradients :
    let x := s.attnTile p lc w a g root q o st
    (∀ i < w.val 0, x.stat 3 i / 2 % 2 = 1) →
    attnBwdRun p lc w a g root s = x.writeGradients (s.streamKv p lc g a w x.leaf).1 p
      ((List.range (w.val 0)).map fun i => (List.range (w.val 2)).map (x.dq i))
      ((List.range (w.val 1)).map fun k => (List.range (w.val 2)).map (x.dk k))
      ((List.range (w.val 1)).map fun k => (List.range (w.val 2)).map (x.dv k)) := by
  intro x hfinal
  unfold attnBwdRun
  extract_lets +onlyGivenNames leaf sk s1 j
  simp -zeta only [hq, ho, hst, onOpnd]
  have final : ¬ ((List.range (w.val 0)).any fun i => statWord j lc st 3 i / 2 % 2 == 0) = true := fun h => by
    obtain ⟨i, hi, hi0⟩ := List.any_eq_true.mp h
    exact absurd ((hfinal i (List.mem_range.mp hi)).symm.trans (beq_iff_eq.mp hi0)) Nat.one_ne_zero
  rw [if_neg (ne_true_of_eq_false hstream), if_neg final]
  extract_lets e kexp vexp scale n ks vs qs ds here kz vz ok sc dp pairs okCol pitch f32 buf old add colP cols pq pk pv at2 dq dk dv byKey
  rw [if_neg fun h => ne_true_of_eq_false hck h.1]
  have hpairs : pairs = (List.range (w.val 0)).map fun i => (List.range (w.val 1)).map fun k => (x.prob i k, x.dscore i k) := by
    refine List.map_congr_left fun i hi => List.map_congr_left fun k hk => ?_
    replace hi := List.mem_range.mp hi
    replace hk := List.mem_range.mp hk
    rw [show (ok.getD i []).getD k false = x.counts i k from getD_table x.counts hi hk false]
    exact AttnTile.pair (product_present _ _ _ _ hi hk) (product_present _ _ _ _ hi hk)
  have hadd : ∀ starts base r f, add starts base r f = (List.range n).map fun c => fadd (x.old starts base r c) (f c) := x.add_old
  have okRow : ∀ i < w.val 0, ok.getD i [] = (List.range (w.val 1)).map (x.counts i) := fun i hi => getD_map_range _ hi []
  have okColumn : ∀ k < w.val 1, okCol k = (List.range (w.val 0)).map fun i => x.counts i k := fun k hk => by
    simp only [okCol, ok, List.map_map]
    exact List.map_congr_left fun i _ => getD_map_range (x.counts i) hk false
  have pairColumn : ∀ k < w.val 1, colP k = (List.range (w.val 0)).map fun i => (x.prob i k, x.dscore i k) := fun k hk => by
    simp only [colP, hpairs, List.map_map]
    exact List.map_congr_left fun i _ => getD_map_range _ hk _
  have hdq : dq = (List.range (w.val 0)).map fun i => (List.range n).map (x.dq i) := by
    refine List.map_congr_left fun i hi => (hadd _ _ _ fun c => fmul scale (at2 pq i c)).trans (List.map_congr_left fun c hc => ?_)
    replace hi := List.mem_range.mp hi
    rw [show at2 pq i c = _ from getD_table _ hi (List.mem_range.mp hc) _, okRow i hi, column_maskRows, hpairs, getD_map_range _ hi,
      List.map_map]
    simp only [AttnTile.dq, Function.comp_def]
    rfl
  have hdk : dk = (List.range (w.val 1)).map fun k => (List.range n).map (x.dk k) := by
    refine List.map_congr_left fun k hk => (hadd _ _ _ fun c => fmul scale (at2 pk k c)).trans (List.map_congr_left fun c hc => ?_)
    replace hk := List.mem_range.mp hk
    rw [show at2 pk k c = _ from getD_table _ hk (List.mem_range.mp hc) _, okColumn k hk, pairColumn k hk, column_maskRows, List.map_map]
    simp only [AttnTile.dk, Function.comp_def]
    rfl
  have hdv : dv = (List.range (w.val 1)).map fun k => (List.range n).map (x.dv k) := by
    refine List.map_congr_left fun k hk => (hadd _ _ _ fun c => at2 pv k c).trans (List.map_congr_left fun c hc => ?_)
    replace hk := List.mem_range.mp hk
    rw [show at2 pv k c = _ from getD_table _ hk (List.mem_range.mp hc) _, okColumn k hk, pairColumn k hk, column_maskRows, List.map_map]
    simp only [AttnTile.dv, Function.comp_def]
    rfl
  rw [← hdq, ← hdk, ← hdv]
  rfl

end

/-! ### Parts that are joined (R189) -/

theorem mergeRow_absent (la : Fv) (oa ob : List Fv) : mergeRow la .negInf oa ob = none := if_pos rfl

theorem mergeRow_taken {lb : Fv} (h : lb ≠ .negInf) (oa ob : List Fv) : mergeRow .negInf lb oa ob = some (lb, ob) :=
  (if_neg h).trans (if_pos rfl)

theorem mergeRow_joined {la lb : Fv} (ha : la ≠ .negInf) (hb : lb ≠ .negInf) (oa ob : List Fv) :
    let mx := la.maxOf lb
    let lse := fadd mx (SfuFn.ln.eval (fadd (SfuFn.exp.eval (fsub la mx)) (SfuFn.exp.eval (fsub lb mx))))
    mergeRow la lb oa ob = some (lse, (oa.zip ob).map fun x =>
      fadd (fmul (SfuFn.exp.eval (fsub la lse)) x.1) (fmul (SfuFn.exp.eval (fsub lb lse)) x.2)) :=
  (if_neg hb).trans (if_neg ha)

/-- Row `i` of part `ob` is joined to row `i` of part `oa`, whose statistics it replaces. -/
def mergeStep (j : JobData) (p lc : Nat) (w : TDesc) (ob sb oa sa : Opnd) (t : State × Nat) (i : Nat) : State × Nat :=
  match mergeRow (ofW32 (statWord j lc sa 2 i)) (ofW32 (statWord j lc sb 2 i)) (oa.row j i (w.val 2)) (ob.row j i (w.val 2)) with
  | none => t
  | some (lse, x) =>
    let r1 := t.1.writeAcc p lc w { oa with addr := oa.addr + i * oa.stride } [x]
    let r2 := r1.1.storeIn p 1 lc (statWrite sa 0 i lse.toW32 ++ statWrite sa 1 i 0x3f800000 ++ statWrite sa 2 i lse.toW32 ++
      statWrite sa 3 i 2)
    (r2.1, if t.2 ≠ Code.done then t.2 else if r1.2 ≠ Code.done then r1.2 else storeStatus r2)

theorem attnMergeRun_final {s : State} {p lc : Nat} {w : TDesc} {ob sb oa sa : Opnd} (hob : w.opnd lc 0 = some ob)
    (hsb : w.opnd lc 1 = some sb) (hoa : w.opnd lc 2 = some oa) (hsa : w.opnd lc 3 = some sa)
    (hfinal : ∀ i < w.val 0, statWord (s.pt p).live lc sb 3 i / 2 % 2 = 1 ∧ statWord (s.pt p).live lc sa 3 i / 2 % 2 = 1) :
    attnMergeRun p lc w s =
      (List.range (w.val 0)).foldl (mergeStep (s.pt p).live p lc w ob sb oa sa) (s, Code.done) := by
  have final : ¬ ((List.range (w.val 0)).any fun i =>
      statWord (s.pt p).live lc sb 3 i / 2 % 2 == 0 || statWord (s.pt p).live lc sa 3 i / 2 % 2 == 0) = true := fun h => by
    obtain ⟨i, hi, hi0⟩ := List.any_eq_true.mp h
    simp [hfinal i (List.mem_range.mp hi)] at hi0
  simp only [attnMergeRun, hob, hsb, hoa, hsa, onOpnd]
  exact if_neg final

/-- Settles O11: each row by its effect on the tile that its walk finds, and the rules of a row and of a merged row. -/
theorem attentionRowsExecute : Obligations.AttentionRowsExecute := by
  unfold Obligations.AttentionRowsExecute
  refine ⟨?_, fun cl scale kexp vexp q ks vs ok r => ⟨fun h => ?_, fwdRow_open cl scale kexp vexp q ks vs r⟩,
    fun la lb oa ob => ⟨mergeRow_absent la oa ob, fun hb => mergeRow_taken hb oa ob, fun ha hb => mergeRow_joined ha hb oa ob⟩⟩
  · intro s s1 p lc e c w root af gf ab gb
    refine ⟨fun hx => State.tileRow_run s s1 p lc .attnFwd (attnSpec false p lc) e c _ none hx rfl,
      fun hx => State.tileRow_run s s1 p lc .attnBwd (attnSpec true p lc) e c _ none hx rfl,
      fun hx => State.tileRow_run s s1 p lc .attnMerge (attnMergeSpec p lc) e c _ none hx rfl, fun hck hx => ?_, ?_, ?_, ?_⟩
    · exact (State.live_on s (fun s => s.tileRow p lc .attnFwd 2 (attnSpec false p lc)) hx.1).trans
        (congrArg _ (State.tileRow_checksum s s1 p lc 2 _ _ e c hx hck (Nat.le_refl 2)))
    · intro q o st hq ho hst hck hscore t leaf k j scaleOf row final empty hstream hopen hx
      exact State.tileRow_run s s1 p lc .attnFwd (attnSpec false p lc) e c _ none hx
        (congrArg plain (attnFwdRun_unscored hq ho hst hck hstream _ hscore hopen))
    · intro ob sb oa sa hob hsb hoa hsa j hfinal hx
      exact State.tileRow_run s s1 p lc .attnMerge (attnMergeSpec p lc) e c _ none hx
        (congrArg plain (attnMergeRun_final hob hsb hoa hsa hfinal))
    · intro q d st hq hd hst hck t leaf sk j n kexp vexp qr dr kr vr ok pr ds along shut buf old dq dk dv hstream hfinal hx
      exact State.tileRow_run s s1 p lc .attnBwd (attnSpec true p lc) e c _ none hx
        (congrArg plain (attnBwdRun_gradients hq hd hst hck hstream hfinal))
  · rw [fwdRow_shut cl scale kexp vexp q ks vs r h]
    exact ⟨rfl, rfl, rfl⟩

end Sys2Proof.Machine
end

section
/-! PROOF. The codec: sessions, pictures that are submitted and started, engine faults, and what the engine's end leaves (O53). -/

namespace Sys2Proof.Machine

/-! ### CODEC descriptors that start (R342, R468) -/

/-- The next descriptor of ring `n` is `d`, a CODEC descriptor of that FUNC, and it starts in a job at work. -/
def State.codecStarts (s : State) (p n func : Nat) (d : ADesc) : Prop :=
  s.starts p n 0x30 d ∧ d.func = func ∧ (s.pt p).splitNew = none ∧ (s.pt p).job = .running ∧ (s.pt p).paused = none

theorem State.live_codecRow {s : State} {p n func : Nat} {d : ADesc} (hpower : s.mgmt.powerGood = true)
    (h : s.codecStarts p n func d) (again k : ADesc → State → State) :
    s.live (fun s => s.codecRow p n func again k) = .next (k d s) := by
  obtain ⟨hstarts, hfunc, hsplit, hjob, hpaused⟩ := h
  rw [State.live_on _ _ hpower, State.codecRow_starts s p n func d again k hstarts hfunc hsplit hjob hpaused]

theorem any_word_zero {d : ADesc} {l : List Nat} (h : ∀ i ∈ l, d.w i = 0) : (l.any fun i => d.w i != 0) = false :=
  List.any_eq_false.mpr fun i hi => by simp [h i hi]

theorem bits_zero (hi lo : Nat) : bits 0 hi lo = 0 := by simp [bits]

section
variable {s : State} {p : Nat} {d : ADesc}

/-! ### OPEN and CLOSE (R467, R469, R470) -/

theorem openSession_otherSession (h : d.w 7 ≠ d.ses) : openSession p d s = s.cdcRefuse p d Code.codecParam :=
  if_pos (.inl h)

section
variable (hses : d.w 7 = d.ses) (haddr : bits (d.w 2) 63 48 = 0) (halign : d.w 2 % 64 = 0)
  (hzero : ∀ i ∈ ([3, 4, 5, 6] : List Nat), d.w i = 0)
include hses haddr halign hzero

theorem openSession_notEmpty (h : (s.cdc p d.ses).state ≠ 0) : openSession p d s = s.cdcRefuse p d Code.sessionState := by
  simp only [openSession, hses, haddr, halign, any_word_zero hzero, ne_eq, not_true_eq_false, Bool.false_eq_true, or_self, if_false, h,
    not_false_eq_true, if_true]

theorem openSession_opens (hempty : (s.cdc p d.ses).state = 0) (hread : s.areaCheck p [(d.w 2, 128)] [] = 0)
    (hresid : s.residAll p (pagesOf [(d.w 2, 128)]) [] = .pin) (hgood : s.dvBadIn p [(d.w 2, 128)] = []) :
    let t := s.passUnits p (unitOfRing d.sq) (pagesOf [(d.w 2, 128)])
    let x : CdcSes := { state := 1, block := t.dvRead p (d.w 2) 128 }
    x.blockOk (2 * t.k) = true → t.areaCheck p [] x.areas = 0 → t.fld rMemSlmSplitPtn 0 p 11 8 = 2 →
    (t.eng p x.engine).failed = false → (t.eng p (x.engine + 1)).failed = false →
    openSession p d s = ((t.started p d).upCdc p d.ses fun _ =>
      { x with buf := Nat.min (x.initDelay * x.bitrate * x.fpsNum) (x.bufSize * 90000 * x.fpsNum) }).cdcFinish p d 0 0 0 := by
  intro t x hblock hareas hunits heven hodd
  simp only [openSession, hses, haddr, halign, any_word_zero hzero, hempty, hread, hresid, hgood, ne_eq, not_true_eq_false,
    Bool.false_eq_true, or_self, if_false, Code.done]
  refine (if_neg (ne_false_of_eq_true hblock)).trans ((if_neg (not_not_intro hareas)).trans (if_neg ?_))
  rintro (hnone | ⟨hone, -⟩ | hfailed | ⟨-, hfailed⟩)
  · exact absurd (hunits.symm.trans hnone) (by decide)
  · exact absurd (hunits.symm.trans hone) (by decide)
  · exact ne_true_of_eq_false heven hfailed
  · exact ne_true_of_eq_false hodd hfailed

end

theorem closeSession_idle (hses : d.w 7 = d.ses) (hzero : ∀ i ∈ ([2, 3, 4, 5, 6] : List Nat), d.w i = 0)
    (hidle : s.run p (s.cdc p d.ses).engine = none) :
    closeSession p d s = ((s.started p d).upCdc p d.ses fun _ => {}).cdcFinish p d 0 0 0 := by
  simp only [closeSession, hses, any_word_zero hzero, hidle, Option.any_none, ne_eq, not_true_eq_false, Bool.false_eq_true, or_self,
    if_false, Code.done]

/-! ### ENCODE (R473, R480) -/

section
variable (hses : d.w 7 = d.ses) (hsrc : bits (d.w 2) 63 48 = 0) (hout : bits (d.w 3) 63 48 = 0) (hlen : bits (d.w 4) 63 32 = 0)
  (hroi : d.w 5 = 0) (hflags : bits (d.w 6) 63 2 = 0)
include hses hsrc hout hlen hroi hflags

/-- An ENCODE without regions of interest that no check of its words refuses goes on to its session. -/
theorem encode_wellFormed : ¬ (d.w 7 ≠ d.ses ∨ bits (d.w 2) 63 48 ≠ 0 ∨ bits (d.w 3) 63 48 ≠ 0 ∨ bits (d.w 4) 63 32 ≠ 0 ∨
    bits (d.w 5) 63 56 ≠ 0 ∨ bits (d.w 5) 47 0 % 8 ≠ 0 ∨ 64 < bits (d.w 5) 55 48 ∨ bits (d.w 6) 63 2 ≠ 0) := by
  simp only [hses, hsrc, hout, hlen, hroi, hflags, bits_zero, ne_eq, not_true_eq_false, Nat.zero_mod, Nat.not_lt_zero, or_self,
    not_false_eq_true]

theorem encode_wrongState (h : (s.cdc p d.ses).state ≠ 1 ∨ (s.cdc p d.ses).dec = true) :
    encode p d s = s.cdcRefuse p d Code.sessionState :=
  (if_neg (encode_wellFormed hses hsrc hout hlen hroi hflags)).trans (if_pos h)

/-- An ENCODE that is accepted submits its picture, and starts the coding of a mini-GOP that it ends. -/
theorem encode_accepted (hstate : (s.cdc p d.ses).state = 1) (hmode : (s.cdc p d.ses).dec = false)
    (hroom : ((s.cdc p d.ses).bFrames + 1) * (s.cdc p d.ses).maxAu ≤ bits (d.w 4) 31 0)
    (hfree : s.engineFree p (s.cdc p d.ses).engine (s.cdc p d.ses).pair = true)
    (harea : s.areaCheck p [(d.w 2, (s.cdc p d.ses).picBytes (s.cdc p d.ses).height)]
      ((d.w 3, bits (d.w 4) 31 0) :: (s.cdc p d.ses).areas) = 0)
    (hresid : s.residAll p [] [] = .pin) (hgood : s.dvBadIn p [] = []) :
    let c := s.cdc p d.ses
    let eos := bits (d.w 6) 1 1 == 1
    let since := c.nextSince (bits (d.w 6) 0 0 == 1)
    let pic : CdcPic := { src := d.w 2, roi := [], key := since == 1 }
    let all := c.queued ++ [pic]
    encode p d s = if c.ends (bits (d.w 6) 0 0 == 1) eos since = false then
        ((s.started p d).upCdc p d.ses fun c => { c with queued := c.queued ++ [pic], since := since }).cdcFinish p d 0 0 0
      else s.whenPinned p d (all.map fun x => (x.src, c.picBytes c.height)) ((d.w 3, bits (d.w 4) 31 0) :: c.areas) fun rd wp u =>
        (((u.started p d).setRun p c.engine
          { sq := d.sq, seq := d.seq, ses := d.ses, start := some u.mgmt.beat, rd := rd, wr := wp }).upEng p c.engine
            fun g => { g with ses := d.ses }).upCdc p d.ses fun c => { c with queued := all, since := if eos then 0 else since } := by
  intro c eos since pic all
  have noEntries : bits (d.w 5) 55 48 = 0 := by rw [hroi, bits_zero]
  have noRoi : roiArea d = [] := if_pos noEntries
  have session : ¬ (c.state ≠ 1 ∨ c.dec = true) := by simp [c, hstate, hmode]
  unfold encode
  rw [if_neg (encode_wellFormed hses hsrc hout hlen hroi hflags)]
  refine (if_neg session).trans ((if_neg (Nat.not_lt.mpr hroom)).trans ((if_neg (ne_false_of_eq_true hfree)).trans ?_))
  have hpages : pagesOf [] = [] := rfl
  simp only [noRoi, harea, hpages, hresid, hgood, noEntries, Code.done, ne_eq, not_true_eq_false, if_false, List.range_zero, List.map_nil,
    List.all_nil, Bool.true_eq_false]
  rfl

end

/-! ### DECODE (R474) -/

section
variable (hses : d.w 7 = d.ses) (hsrc : bits (d.w 2) 63 48 = 0) (hlen : bits (d.w 3) 31 0 ≠ 0) (hmap : bits (d.w 4) 63 48 = 0)
  (hrelease : bits (d.w 5) 63 24 = 0) (hzero : d.w 6 = 0)
include hses hsrc hlen hmap hrelease hzero

theorem decode_wellFormed : ¬ (d.w 7 ≠ d.ses ∨ bits (d.w 2) 63 48 ≠ 0 ∨ bits (d.w 3) 31 0 = 0 ∨ bits (d.w 4) 63 48 ≠ 0 ∨
    bits (d.w 5) 63 24 ≠ 0 ∨ d.w 6 ≠ 0) := by
  simp only [hses, hsrc, hlen, hmap, hrelease, hzero, ne_eq, not_true_eq_false, or_self, not_false_eq_true]

theorem decode_wrongState (h : (s.cdc p d.ses).state ≠ 1 ∨ (s.cdc p d.ses).dec = false) :
    decode p d s = s.cdcRefuse p d Code.sessionState :=
  (if_neg (decode_wellFormed hses hsrc hlen hmap hrelease hzero)).trans (if_pos h)

/-- A DECODE that is accepted frees the slots that RELEASE names, and starts its unit where one is free then. -/
theorem decode_accepted (hstate : (s.cdc p d.ses).state = 1) (hmode : (s.cdc p d.ses).dec = true)
    (hfree : s.engineFree p (s.cdc p d.ses).engine (s.cdc p d.ses).pair = true) :
    let c := s.cdc p d.ses
    let rd := [(d.w 2, bits (d.w 3) 31 0)]
    let wr := (if d.w 4 = 0 then [] else [(d.w 4, c.dmgLen)]) ++ c.areas
    let kept := c.held.filter fun i => bits (d.w 5) i i == 0
    let u := s.upCdc p d.ses fun c => { c with held := kept }
    s.areaCheck p rd wr = 0 →
    decode p d s = if ({ c with held := kept }).freeSlots = [] then u.cdcRefuse p d Code.noFreeSlot else u.startRun p d rd wr c.engine := by
  intro c rd wr kept u harea
  have session : ¬ (c.state ≠ 1 ∨ c.dec = false) := by simp [c, hstate, hmode]
  exact (if_neg (decode_wellFormed hses hsrc hlen hmap hrelease hzero)).trans ((if_neg session).trans
    ((if_neg (ne_false_of_eq_true hfree)).trans (if_neg (not_not_intro harea))))

end

end

/-! ### Blocks that are abandoned, and engine faults (R481, R484, R488) -/

section
variable {s : State} {p e : Nat} {r : CdcRun} (hrun : s.run p e = some r)
include hrun

theorem State.onDecode_working {d : ADesc} (hstart : r.start.isSome = true) (hd : (s.pt p).findDesc r.sq r.seq = some d)
    (hpaused : (s.pt p).paused = none) (hfunc : d.func = 3) (f : ADesc → CdcRun → Option CdcRun) :
    s.onDecode p e f = (f d r).elim s (s.setRun p e) := by
  have hstarted : r.start.isNone = false := Option.isNone_eq_false_iff.mpr hstart
  simp only [State.onDecode, hrun, hd, hfunc, hstarted, hpaused, ne_eq, not_true_eq_false, Option.isSome_none, Bool.false_eq_true,
    or_self, if_false]
  cases f d r <;> rfl

theorem State.leadOf_working : s.leadOf p e = e := by simp [State.leadOf, hrun]

theorem codecPictureRestart_engine (hstart : r.start.isSome = true) {trouble : CodecTrouble}
    (h : trouble = .engineError ∨ trouble = .firmwareCheck) :
    codecPictureRestart p e trouble s =
      let t := s.resetEngine p e
      if r.replayed = true ∨ (t.eng p e).failed = true then t.failPicture p e r
      else (t.unpinRun p r).setRun p e { r with replayed := true, start := none, gone := [], blocks := 0, stopped := false } := by
  have hstarted : r.start.isNone = false := Option.isNone_eq_false_iff.mpr hstart
  rcases h with rfl | rfl <;>
    simp only [codecPictureRestart, State.leadOf_working hrun, hrun, State.troubled, hstart, hstarted, Bool.or_true, Bool.false_eq_true,
      Bool.true_eq_false, false_and, and_true, or_self, if_false]

end

theorem codecPictureRestart_idle {s : State} {p e : Nat} (hrun : s.run p (s.leadOf p e) = none) (hpresent : s.present p = true)
    (he : e < 2 * s.k) {trouble : CodecTrouble} (h : trouble = .engineError ∨ trouble = .firmwareCheck) :
    codecPictureRestart p e trouble s = s.resetEngine p e := by
  rcases h with rfl | rfl <;> simp only [codecPictureRestart, hrun, hpresent, he, ofEngine, and_self, if_true]

/-- A unit that decodes without damage, whose references are whole or which clears damage, has no damage code. -/
theorem CdcSes.codes_whole {c : CdcSes} {r : CdcRun} (hclean : c.unit.clean = true) (hgone : r.gone = [])
    (h : c.unit.key = true ∨ c.whole = true) (damage : Bytes) : (c.codes r damage).all (· == 0) = true := by
  have noOwn : ∀ x : Nat, ¬ ((x = 1 ∨ x = 4) ∧ c.unit.clean = false) := fun x h => ne_true_of_eq_false h.2 hclean
  have noInherited : ∀ x : Nat, ¬ (x = 5 ∧ c.whole = false ∧ c.unit.key = false) := fun x ⟨_, hwhole, hkey⟩ =>
    h.elim (ne_true_of_eq_false hkey) (ne_true_of_eq_false hwhole)
  refine List.all_eq_true.mpr fun x hx => ?_
  obtain ⟨b, -, rfl⟩ := List.mem_map.mp hx
  simp only [hgone, List.find?_nil, noOwn, noInherited, or_self, if_false, beq_self_eq_true]

/-! ### The engine's end (R463, R473, R474, R481 to R485) -/

/-- An engine that ends its work, with no sector and no word that reads uncorrectable, completes its descriptor once the pages that a cut
holds are copied. -/
theorem codecPictureDone_working {s : State} {p e : Nat} {r : CdcRun} {d : ADesc} (o : CodecOut) (hrun : s.run p e = some r)
    (hstart : r.start.isSome = true) (hd : (s.pt p).findDesc r.sq r.seq = some d) (hpaused : (s.pt p).paused = none)
    (hjob : (s.pt p).job = .running) (hread : s.runBad p r = []) (hstore : s.storeBad p e r = [])
    (hframes : s.framesFor p (r.wr.filter fun n => (s.page p n).cow) = true) :
    let u := ((r.wr.filter fun n => (s.page p n).cow).foldl (fun u n => u.touchPage p n true) s).stopWaiting p (unitOfEngine e)
    codecPictureDone p e o s = if d.func = 2 then encodeDone p e r d o u else decodeDone p e r d o u := by
  intro u
  have hstarted : r.start.isNone = false := Option.isNone_eq_false_iff.mpr hstart
  simp only [codecPictureDone, hrun, hstarted, hpaused, hjob, hread, hstore, hd, hframes, Option.isSome_none, Bool.false_eq_true, ne_eq,
    not_true_eq_false, or_self, if_false, Bool.true_eq_false]
  rfl

section
variable {s : State} {p e : Nat} {r : CdcRun} {d : ADesc} {o : CodecOut} {c : CdcSes}
  (hc : c = (s.cdc p r.ses).fed (s.unitOf p d (s.cdc p r.ses)))
include hc

theorem decodeDone_unusable (h : c.unit.usable = false) :
    decodeDone p e r d o s = (((s.raiseP p 0x140 r.ses 0).upCdc p r.ses
      fun _ => { c with damaged := c.damaged + 1 }).endRun p e r 0).cdcFinish p d Code.streamDamaged 0 0 := by
  subst hc
  exact if_pos h

variable (husable : c.unit.usable = true)
include husable

theorem decodeDone_unsupported (h : withinLimits c.unit = false) :
    decodeDone p e r d o s = ((s.upCdc p r.ses fun _ => c).endRun p e r 0).cdcFinish p d Code.codecUnsupported 0 0 := by
  subst hc
  exact (if_neg (ne_false_of_eq_true husable)).trans (if_pos h)

variable (hlimits : withinLimits c.unit = true)
include hlimits

theorem decodeDone_tooLarge (h : c.width < c.unit.width ∨ c.height < c.unit.height) :
    decodeDone p e r d o s = ((s.upCdc p r.ses fun _ => c).endRun p e r 0).cdcFinish p d Code.limitExceeded 0 0 := by
  subst hc
  exact (if_neg (ne_false_of_eq_true husable)).trans ((if_neg (ne_false_of_eq_true hlimits)).trans (if_pos h))

/-- A unit that its session holds is written to its slot, and its damage codes to its map. -/
theorem decodeDone_written (hwidth : c.unit.width ≤ c.width) (hheight : c.unit.height ≤ c.height)
    (hslot : c.freeSlots.contains o.slot = true) :
    let codes := c.codes r o.damage
    let n := (codes.filter fun x => x != 0).length
    let w := s.dvWrite p (s.decodeWrites p c r o ++ if d.w 4 = 0 then [] else bwrites (d.w 4) (codes.map fun x => BitVec.ofNat 8 x))
    let x := c.took o.slot codes
    let v := if n = 0 then w.1.upCdc p r.ses fun _ => x
      else (w.1.raiseP p 0x140 r.ses n).upCdc p r.ses fun _ => { x with damaged := x.damaged + 1 }
    decodeDone p e r d o s = (v.endRun p e r 1).cdcFinish p d
      (codecCode w (if n ≠ 0 then Code.streamDamaged else if r.replayed = true then Code.replayed else Code.done))
      (slotsResult ((c.slotsOf o.slot c.unit.shown).take 8)) 0 := by
  intro codes n w x v
  have hsize : ¬ (c.width < c.unit.width ∨ c.height < c.unit.height) := by omega
  have hfree : ¬ (c.unit.coded = true ∧ c.freeSlots.contains o.slot = false) := fun h => ne_true_of_eq_false h.2 hslot
  rw [ite_not]
  subst hc
  exact (if_neg (ne_false_of_eq_true husable)).trans ((if_neg (ne_false_of_eq_true hlimits)).trans ((if_neg hsize).trans (if_neg hfree)))

end

/-- The pictures of a mini-GOP that qualify go to OUT in decoding order, and the session is left with none submitted. -/
theorem encodeDone_pictures {s : State} {p e : Nat} {r : CdcRun} {d : ADesc} {o : CodecOut} {x : CdcSes} (hcoded : d.coded = none)
    (htake : (s.cdc p r.ses).takePics o.pics = some (x, [])) (hlen : o.pics.length = (s.cdc p r.ses).queued.length)
    (hone : ∀ i < (s.cdc p r.ses).queued.length, (o.pics.filter fun y => y.pic == i).length = 1) :
    let bs := o.pics.map CodedPic.bytes
    let w := s.dvWrite p (clampWrites (s.cdc p r.ses).areas o.writes ++ bwrites (d.w 3) bs.flatten)
    let v := w.1.upCdc p r.ses fun _ => { x with queued := [], pictures := (s.cdc p r.ses).pictures + bs.length }
    let v := (v.endRun p e r bs.length).upPt p fun q => q.upDesc d.sq d.seq fun y => { y with coded := some bs }
    encodeDone p e r d o s = v.cdcFinish p { d with coded := some bs }
      (codecCode w (if r.replayed = true then Code.replayed else Code.done)) bs.flatten.length (bs.length % 256) := by
  intro bs w v v'
  have distinct : ((List.range (s.cdc p r.ses).queued.length).all fun i => (o.pics.filter fun y => y.pic == i).length == 1) = true :=
    List.all_eq_true.mpr fun i hi => beq_iff_eq.mpr (hone i (List.mem_range.mp hi))
  simp only [encodeDone, hcoded, htake, hlen, distinct, withJournaled, Option.isSome_none, Bool.false_eq_true, Bool.true_eq_false, ne_eq,
    not_true_eq_false, or_self, and_false, if_false, if_true, List.foldl_nil]
  rfl

/-- Settles O53: each command by the lemma of its case. -/
theorem codecSessionsAndPictures : Obligations.CodecSessionsAndPictures := by
  unfold Obligations.CodecSessionsAndPictures
  intro s t p n e block rest left d r o trouble hpower c goes refused working
  have opens : goes 1 → exec (.openSession p n) s = .next (openSession p d s) := fun h => State.live_codecRow hpower h _ _
  have encodes : goes 2 → exec (.encode p n) s = .next (encode p d s) := fun h => State.live_codecRow hpower h _ _
  have decodes : goes 3 → exec (.decode p n) s = .next (decode p d s) := fun h => State.live_codecRow hpower h _ _
  have closes : goes 4 → exec (.closeSession p n) s = .next (closeSession p d s) := fun h => State.live_codecRow hpower h _ _
  have restarts : exec (.codecPictureRestart p e trouble) s = .next (codecPictureRestart p e trouble s) := State.live_on s _ hpower
  have ends : exec (.codecPictureDone p e o) s = .next (codecPictureDone p e o s) := State.live_on s _ hpower
  refine ⟨?_, ?_, ?_, ?_, ?_, ?_, ?_, ?_, ?_, ?_, ?_⟩
  · exact fun h hses => (opens h).trans (congrArg _ (openSession_otherSession hses))
  · intro h hses haddr halign hzero
    rw [opens h]
    refine ⟨fun hstate => congrArg _ (openSession_notEmpty hses haddr halign hzero hstate), ?_⟩
    intro hempty hread hresid hgood t x hblock hareas hunits heven hodd
    exact congrArg _ (openSession_opens hses haddr halign hzero hempty hread hresid hgood hblock hareas hunits heven hodd)
  · exact fun h hses hzero hidle => (closes h).trans (congrArg _ (closeSession_idle hses hzero hidle))
  · intro h hses hsrc hout hlen hroi hflags len key eos since pic all wr
    rw [encodes h]
    refine ⟨fun hstate => congrArg _ (encode_wrongState hses hsrc hout hlen hroi hflags hstate), ?_⟩
    intro hstate hmode hroom hfree harea hresid hgood
    have accepted := encode_accepted hses hsrc hout hlen hroi hflags hstate hmode hroom hfree harea hresid hgood
    exact ⟨fun hwaits => congrArg _ (accepted.trans (if_pos hwaits)),
      fun hends => congrArg _ (accepted.trans (if_neg (ne_false_of_eq_true hends)))⟩
  · intro h hses hsrc hlen hmap hrelease hzero rd wr kept u
    rw [decodes h]
    refine ⟨fun hstate => congrArg _ (decode_wrongState hses hsrc hlen hmap hrelease hzero hstate), ?_⟩
    intro hstate hmode hfree harea
    have accepted := decode_accepted hses hsrc hlen hmap hrelease hzero hstate hmode hfree harea
    exact ⟨fun hnone => congrArg _ (accepted.trans (if_pos hnone)), fun hsome => congrArg _ (accepted.trans (if_neg hsome))⟩
  · rintro ⟨hrun, hstart, hd, hpaused⟩ hfunc
    change execBlockAbandoned p e block rest s = _
    rw [execBlockAbandoned, State.live_on _ _ hpower, State.onDecode_working hrun hstart hd hpaused hfunc, Option.elim_some]
  · rintro ⟨hrun, hstart, hd, hpaused⟩ hfunc hlate
    change execPictureBudgetExpired p e left s = _
    rw [execPictureBudgetExpired, State.live_on _ _ hpower, State.onDecode_working hrun hstart hd hpaused hfunc, if_pos hlate,
      Option.elim_some]
  · rintro hrun hstart rfl htrouble
    rw [restarts, codecPictureRestart_engine hrun hstart htrouble]
    refine ⟨fun hfirst hworks => congrArg _ (if_neg ?_), fun hagain => congrArg _ (if_pos (.inl hagain))⟩
    exact not_or.mpr ⟨ne_true_of_eq_false hfirst, ne_true_of_eq_false hworks⟩
  · exact fun hrun hpresent he htrouble => restarts.trans (congrArg _ (codecPictureRestart_idle hrun hpresent he htrouble))
  · exact fun k hclean hgone hwhole => CdcSes.codes_whole hclean hgone hwhole o.damage
  · rintro ⟨hrun, hstart, hd, hpaused⟩ hjob hread hstore hframes u c done stop
    have finishes := ends.trans (congrArg _ (codecPictureDone_working o hrun hstart hd hpaused hjob hread hstore hframes))
    have decoded : d.func = 3 → done = .next (decodeDone p e r d o u) := fun h =>
      finishes.trans (congrArg _ (if_neg (by omega)))
    have encoded : d.func = 2 → done = .next (encodeDone p e r d o u) := fun h => finishes.trans (congrArg _ (if_pos h))
    refine ⟨?_, ?_, ?_, ?_, ?_⟩
    · exact fun h hunusable => (decoded h).trans (congrArg _ (decodeDone_unusable rfl hunusable))
    · exact fun h husable hbeyond => (decoded h).trans (congrArg _ (decodeDone_unsupported rfl husable hbeyond))
    · exact fun h husable hlimits hlarge => (decoded h).trans (congrArg _ (decodeDone_tooLarge rfl husable hlimits hlarge))
    · intro h husable hlimits hwidth hheight hslot codes n w x v st
      exact (decoded h).trans (congrArg _ (decodeDone_written rfl husable hlimits hwidth hheight hslot))
    · intro h hcoded x htake hlen hone bs w v v'
      exact (encoded h).trans (congrArg _ (encodeDone_pictures hcoded htake hlen hone))

end Sys2Proof.Machine
end


section
/-! PROOF. The special-function rows and RMS normalisation: the elements that each makes of its source's rows (O7, O8). -/

namespace Sys2Proof.Machine

/-! ### Rows of elements -/

/-- A row of zeros, by its elements. -/
theorem zeroRow_elements (n : Nat) : List.replicate n Fv.zero = (List.range n).map fun _ => Fv.zero := by
  rw [List.map_const', List.length_range]

/-- One of two rows, by their elements. -/
theorem ite_map_range {α : Type} (c : Prop) [Decidable c] (f g : Nat → α) (n : Nat) :
    (if c then (List.range n).map f else (List.range n).map g) = (List.range n).map fun k => if c then f k else g k := by
  split <;> rfl

/-- An element of a row, or the default beyond its end. -/
theorem getD_map_range_ite {α : Type} (f : Nat → α) (n i : Nat) (d : α) :
    ((List.range n).map f).getD i d = if i < n then f i else d := by
  split
  case isTrue h => exact getD_map_range f h d
  case isFalse h =>
    have beyond : ((List.range n).map f).length ≤ i := by rw [List.length_map, List.length_range]; exact Nat.le_of_not_lt h
    rw [List.getD_eq_getElem?_getD, List.getElem?_eq_none beyond, Option.getD_none]

/-! ### Special functions (R207, R208) -/

section
variable {s s1 : State} {p lc : Nat} {e : QEntry} {c : Machine.Core} {a d : Opnd} {f : SfuFn}

/-- An SFU row whose instruction executes writes the function of each element of its source. -/
theorem sfuRow_executes (hx : TileExecutes s p lc (.sfu f) (sfuSpec f p lc) s1 e c)
    (ha : TDesc.opnd e.desc.toNat lc 0 = some a) (hd : TDesc.opnd e.desc.toNat lc 1 = some d) :
    s.live (fun s => s.sfuRow f p lc) = .next (State.inFlight
      (s1.writeRows p lc e.desc.toNat d (TDesc.result e.desc.toNat fun r k => f.eval (s1.slotVal p lc e.desc.toNat 0 r k)))
      p lc (.sfu f) (sfuSpec f p lc s e.desc.toNat) e c none) := by
  refine State.tileRow_run s s1 p lc (.sfu f) (sfuSpec f p lc) e c _ none hx (congrArg plain ?_)
  simp only [ha, hd, onOpnd, Opnd.row_getD s1 p lc _ 0 _ _ a ha, List.map_map, Function.comp_def, TDesc.result]

end

/-- Settles O7: every function by what an SFU row writes. -/
theorem specialFunctionResults : Obligations.SpecialFunctionResults := by
  unfold Obligations.SpecialFunctionResults
  intro s s1 p lc e c a d x w hrow hx ha hd
  simp only [List.mem_cons, List.not_mem_nil, or_false] at hrow
  rcases hrow with rfl | rfl | rfl | rfl | rfl | rfl | rfl | rfl | rfl | rfl | rfl | rfl | rfl | rfl | rfl <;>
    exact sfuRow_executes hx ha hd

/-! ### RMS normalisation (R213 to R215) -/

section
variable {s : State} {p lc : Nat} {w : TDesc} {a d : Opnd} (ha : w.opnd lc 0 = some a) (hd : w.opnd lc 1 = some d)
include ha hd

/-- RMSNORM takes a row's sum of squares from the row itself. -/
theorem rmsRun_ownSum :
    let row := fun (r : Nat) => (List.range (w.val 1)).map fun k => s.slotVal p lc w 0 r k
    rmsRun false p lc w s = s.writeRows p lc w d ((List.range (w.val 0)).map fun r =>
      if (sumSq (row r)).finite = false ∨ (row r).any (fun v => !v.finite) then (row r).map fun _ => Fv.nan
      else rmsScale (row r) (rmsGain (s.pt p).live w lc) (sumSq (row r)) (w.val 1) (ofW32 (s.rmsBlock p lc w).2.1)) := by
  simp only [rmsRun, ha, hd, onOpnd, Opnd.row_getD s p lc w 0 _ _ a ha, Bool.false_eq_true, if_false, true_and]

/-- RMS_APPLY takes it from the block. -/
theorem rmsRun_blockSum :
    let row := fun (r : Nat) => (List.range (w.val 1)).map fun k => s.slotVal p lc w 0 r k
    let blk := s.rmsBlock p lc w
    let part := fun (r : Nat) => ofW32 (((s.pt p).live.core lc).mem.rdLe (blk.1.getD 0 + 64 + 4 * r) 4)
    rmsRun true p lc w s = s.writeRows p lc w d ((List.range (w.val 0)).map fun r =>
      if (part r).finite = false then (row r).map fun _ => Fv.nan
      else rmsScale (row r) (rmsGain (s.pt p).live w lc) (part r) blk.2.2 (ofW32 blk.2.1)) := by
  simp only [rmsRun, ha, hd, onOpnd, Opnd.row_getD s p lc w 0 _ _ a ha, if_true, reduceCtorEq, false_and, or_false]

/-- RMS_SUMSQ adds each row's sum of squares to S, or starts it. -/
theorem sumsqRun_elements (s0 : State) (e : QEntry) (v : W64) (root : Option Nat) :
    (sumsqSpec p lc s0 w).run e v root s = plain (s.writeAcc p lc w d [(List.range (w.val 0)).map fun r =>
      fadd (if w.func % 2 = 1 then .zero else s.slotVal p lc w 1 0 r)
        (sumSq ((List.range (w.val 1)).map fun k => s.slotVal p lc w 0 r k))]) := by
  simp only [sumsqSpec, ha, hd, onOpnd, beq_iff_eq, Opnd.row_getD s p lc w 0 _ _ a ha, Opnd.row_getD s p lc w 1 _ _ d hd,
    zeroRow_elements, ite_map_range, map_range_zip_range, List.map_map, Function.comp_def]

end

/-- Settles O8: each row by its effect on its source's rows. -/
theorem rmsNormalisationResults : Obligations.RmsNormalisationResults := by
  unfold Obligations.RmsNormalisationResults
  intro s s1 p lc e c a d w row blk gain part ha hd
  refine ⟨fun hx => ?_, fun hx => ?_, fun hx => ?_⟩
  · exact State.tileRow_run s s1 p lc .rmsnorm (rmsSpec false p lc) e c _ none hx (congrArg plain (rmsRun_ownSum ha hd))
  · exact State.tileRow_run s s1 p lc .rmsApply (rmsSpec true p lc) e c _ none hx (congrArg plain (rmsRun_blockSum ha hd))
  · exact State.tileRow_run s s1 p lc .rmsSumsq (sumsqSpec p lc) e c _ none hx (sumsqRun_elements ha hd s e _ _)

end Sys2Proof.Machine
end

section
/-! PROOF. Convolution over a window, and pooling (O10). -/

namespace Sys2Proof.Machine

/-! ### CONV (R200, R201, R204) -/

/-- The product of gathered rows with rows of W, over the rows that it is added to, by output row (R200). -/
theorem gatheredProduct_rows (rows : List Nat) (rowX rowW : Nat → GRow) (old : Nat → List Fv) (n : Nat) :
    (((rows.map rowX).zip (rows.map old)).map fun q => (((List.range n).map rowW).zip q.2).map fun z => growDot q.1 z.1 z.2) =
      rows.map fun r => ((List.range n).zip (old r)).map fun z => growDot (rowX r) (rowW z.1) z.2 := by
  rw [List.zip_map', List.map_map]
  refine List.map_congr_left fun r _ => ?_
  simp only [Function.comp_def, List.zip_map_left, List.map_map, Prod.map, id]

/-- What a tap of an output row reads in a channel: X's element there, or the padding (R196, R201). -/
def State.tapVal (s : State) (p lc : Nat) (w : TDesc) (b : WinBlock) (r t k : Nat) : Fv :=
  match b.pos r t with
  | some q => s.slotVal p lc w 0 q k
  | none => if b.mode = 1 then ofW32 b.pad else .zero

section
variable {s : State} {p lc : Nat} {w : TDesc} {x wt : Opnd} (hx : w.opnd lc 0 = some x) (hw : w.opnd lc 1 = some wt)
include hx hw

section
variable {y : Opnd} (hy : w.opnd lc 2 = some y) (b : WinBlock)
include hy

/-- Dense CONV's effect where all its operands are given: it writes the product of the gathered rows with the rows of W, or nothing where
the checksum is outside its tolerance. -/
theorem convDenseRun_elements :
    let j := (s.pt p).live
    let rowX := convRowX j b x (x.fmt.decode (x.fmt.encode1 true .even (ofW32 b.pad)) 127)
    let rowW := convRowW j b wt
    let old := fun r => convY j w.acc y r b.vcout
    let product := b.rows.map fun r => ((List.range b.vcout).zip (old r)).map fun z => growDot (rowX r) (rowW z.1) z.2
    convDenseRun p lc w b s =
      if w.ck ∧ ckPass (b.rows.map rowX) ((List.range b.vcout).map rowW) (b.rows.map old) product w.tol = false
      then (s, Code.checksumMismatch) else s.writeY p lc w y (b.rows.zip product) := by
  intro j rowX rowW old product
  simp only [convDenseRun, hx, hw, hy, onOpnd]
  rw [gatheredProduct_rows]

/-- Depthwise CONV's effect where all its operands are given. -/
theorem convDepthRun_elements :
    convDepthRun p lc w b s = s.writeY p lc w y (b.rows.map fun r =>
      (r, ((convY (s.pt p).live w.acc y r b.vcin).zip (List.range b.vcin)).map fun z =>
        (List.range b.kt).foldl (fun acc t => ffma (wt.elem (s.pt p).live z.2 t) (s.tapVal p lc w b r t z.2) acc) z.1)) := by
  simp only [convDepthRun, hx, hw, hy, onOpnd]
  refine congrArg (s.writeY p lc w y) (List.map_congr_left fun r _ => congrArg (Prod.mk r) (List.map_congr_left fun z _ => ?_))
  refine congrArg (fun f => (List.range b.kt).foldl f z.1) (funext fun acc => funext fun t => congrArg (ffma _ · acc) ?_)
  cases hpos : b.pos r t with
  | some q => simp only [State.tapVal, State.slotVal, hpos, hx]
  | none => simp only [State.tapVal, hpos]

end

/-! ### POOL_GAVG (R206) -/

/-- A pool adds each channel's rows to what it starts from. -/
theorem poolRun_elements (s0 : State) (e : QEntry) (v : W64) (root : Option Nat) :
    (poolSpec p lc s0 w).run e v root s = plain (s.writeAcc p lc w wt [(List.range (w.val 1)).map fun k =>
      poolChannel (w.func / 2 % 2 == 1) (w.val 0) (if w.func % 2 = 1 then s.slotVal p lc w 1 0 k else .zero)
        ((List.range (w.val 0)).map fun r => s.slotVal p lc w 0 r k)]) := by
  simp only [poolSpec, hx, hw, onOpnd, beq_iff_eq, Opnd.row_getD s p lc w 0 _ _ x hx, Opnd.row_getD s p lc w 1 _ _ wt hw,
    zeroRow_elements, ite_map_range, map_range_zip_range, List.map_map, Function.comp_def]
  refine congrArg (fun row => plain (s.writeAcc p lc w wt [row])) (List.map_congr_left fun k hk => ?_)
  simp only [getD_map_range _ (List.mem_range.mp hk)]

end

/-- Settles O10: each row by its effect on the rows of its operands. -/
theorem convolutionAndPoolingResults : Obligations.ConvolutionAndPoolingResults := by
  unfold Obligations.ConvolutionAndPoolingResults
  intro s s1 p lc e c x wt y w j b pad ar br cin cout hx hw
  refine ⟨fun hy hgo => ?_, fun hy hgo => ?_, fun hgo => ?_⟩
  · exact State.tileRow_run s s1 p lc .convDense (convSpec true p lc) e c _ none hgo
      (congrArg plain (convDenseRun_elements hx hw hy b))
  · exact State.tileRow_run s s1 p lc .convDepthwise (convSpec false p lc) e c _ none hgo
      (congrArg plain (convDepthRun_elements hx hw hy b))
  · refine State.tileRow_run s s1 p lc .poolGavg (poolSpec p lc) e c _ none hgo ((poolRun_elements hx hw s e _ _).trans ?_)
    simp only [poolChannel, beq_iff_eq]
    rfl

end Sys2Proof.Machine
end

section
/-! PROOF. The codebook tables: what a load leaves of them, when a swap takes effect, and what a lookup reads (O12). -/

namespace Sys2Proof.Machine

section
variable {s : State} {p lc : Nat} {w : TDesc} (s0 : State) (e : QEntry) (v : W64) (root : Option Nat)

/-- TABLE_LOAD's effect: the active bank is held, and the other's table takes the source's values, then +0 (R217). -/
theorem tableLoadRun_entries {a : Opnd} (ha : w.opnd lc 0 = some a) :
    (tableLoadSpec p lc s0 w).run e v root s = plain (
      if (s0.core p lc).bank = w.func % 2 then (s, Code.resourceHeld)
      else (s.upCore p lc fun k => { k with tbl := (List.range (w.dim 1)).foldl (fun t i =>
        Tbl.set 0 t (tableKey (w.func % 2) (w.dim 1) i)
          (BitVec.ofNat 32 (if i < w.val 1 then s.slotVal p lc w 0 0 i else .zero).toW32)) k.tbl }, Code.done)) := by
  simp only [tableLoadSpec, ha, onOpnd, beq_iff_eq, Opnd.row_getD s p lc w 0 _ _ a ha, getD_map_range_ite]

/-- TABLE_LOOKUP's effect: each index's entry of the active bank, by its row's scale where slot 2 gives one (R219). -/
theorem tableLookupRun_elements {a d : Opnd} (ha : w.opnd lc 0 = some a) (hd : w.opnd lc 1 = some d) :
    (tableLookupSpec p lc s0 w).run e v root s = plain (s.writeRows p lc w d (w.result fun r k =>
      let v := ofW32 (Tbl.get 0 (s.core p lc).tbl (tableKey (s.core p lc).bank (if a.fmt.code = 0x0F then 16 else 256)
        (a.codeAt (s.pt p).live r k))).toNat
      if (w.opnd lc 2).isNone then v else fmul v (s.slotVal p lc w 2 0 r))) := by
  simp only [tableLookupSpec, ha, hd, onOpnd]
  refine congrArg (fun rows => plain (s.writeRows p lc w d rows))
    (List.map_congr_left fun r hr => List.map_congr_left fun k _ => ?_)
  cases hscale : w.opnd lc 2 with
  | none => rfl
  | some o =>
    simp only [Option.map_some, Option.isNone_some, Bool.false_eq_true, if_false, Opnd.row_getD s p lc w 2 _ _ o hscale,
      getD_map_range _ (List.mem_range.mp hr)]
    rfl

end

/-- A TABLE_SWAP that opened no walk and closes no claim only makes its bank active when it ends (R218). -/
theorem State.flightEnds_tableSwap (s : State) (p lc : Nat) {f : Flight} (hcloses : f.closes = false) (hwalk : f.walk = none)
    (hop : TDesc.tileOp f.q.desc.toNat = some .tableSwap) :
    s.flightEnds p lc f = ((s.unpinTile p f.pages f.writes).upCore p lc fun c =>
      { c with bank := TDesc.func f.q.desc.toNat % 2 }).completeTile p lc f.q f.status f.word := by
  simp only [State.flightEnds, hcloses, hwalk, hop, Bool.false_eq_true, if_false, if_true]

/-- Settles O12: a load and a lookup by their effects, and a swap by what its end does. -/
theorem codebookTableRows : Obligations.CodebookTableRows := by
  unfold Obligations.CodebookTableRows
  intro s s1 p lc e c w
  refine ⟨fun a ha hx => ?_, fun hx => ?_, fun f hpower hf hlive hcloses hwalk hop => ?_, fun a d ha hd hx => ?_⟩
  · exact State.tileRow_run s s1 p lc .tableLoad (tableLoadSpec p lc) e c _ none hx (tableLoadRun_entries s e _ _ ha)
  · exact State.tileRow_run s s1 p lc .tableSwap (tableSwapSpec p lc) e c _ none hx rfl
  · have completes : exec (.tileComplete p lc false) s = .next (tileComplete p lc false s) := State.live_on s _ hpower
    rw [completes, tileComplete_comp hlive hf, State.flightEnds_tableSwap _ p lc hcloses hwalk hop]
  · exact State.tileRow_run s s1 p lc .tableLookup (tableLookupSpec p lc) e c _ none hx (tableLookupRun_elements s e _ _ ha hd)

end Sys2Proof.Machine
end

section
/-! PROOF. The course of a cut: its save, its record, its durability, and a member's group cut (O27). -/

namespace Sys2Proof.Machine

/-- With power good a command ends in the state that its function makes. -/
theorem State.live_next {s t : State} {f : State → State} (hpower : s.mgmt.powerGood = true) (h : f s = t) : s.live f = .next t :=
  (State.live_on s f hpower).trans (congrArg _ h)

section
variable {s : State} {p : Nat}

/-- Nothing holds back the save of a cut two beats after issue stopped, once the partition is drained and its engines stand (R252, R253). -/
theorem cutSave_due {m : Nat × Nat × Tbl Nat} (hphase : (s.pt p).cutPhase = .saving) (hbeat : m.1 + 2 ≤ s.mgmt.beat)
    (hpaused : (s.pt p).paused.isSome = true) (hdrained : (s.pt p).drained = true) (hengines : (s.pt p).enginesStopped = true) :
    ¬ ((s.pt p).cutPhase ≠ .saving ∨ s.mgmt.beat < m.1 + 2 ∨ (s.pt p).paused = none ∨ (s.pt p).drained = false ∨
      (s.pt p).enginesStopped = false) := by
  simp [hphase, hbeat, Option.isSome_iff_ne_none.mp hpaused, hdrained, hengines]

/-- A cut is not durable while its record waits in the journal or the store takes no writes (R258). -/
theorem cutDurable_waits (h : s.store.records.contains (.cut p) = true ∨ s.storeWritable = false) : cutDurable p s = s := by
  rw [cutDurable]
  cases (s.pt p).pend with
  | none => rfl
  | some img => exact if_pos (Or.inr (Or.inr h))

/-- A flushed cut whose record is acknowledged waits for nothing more (R258, R303). -/
theorem cutRecord_acknowledged (hphase : (s.pt p).cutPhase = .flushing) (hsent : (s.pt p).cutSent = true)
    (hrecord : s.store.records.contains (.cut p) = false) (hwritable : s.storeWritable = true) :
    ¬ ((s.pt p).cutPhase ≠ .flushing ∨ (s.pt p).cutSent = false ∨ s.store.records.contains (.cut p) = true ∨
      s.storeWritable = false) := by
  rw [hphase, hsent, hrecord, hwritable]
  decide

/-- The partition stands at the STEP boundary of its group's cut, and has not judged it in this beat (R448). -/
theorem groupCut_atBoundary {n : Nat} (hjudged : (s.pt p).col.judged ≠ s.mgmt.beat) (hjob : (s.pt p).job = .running)
    (hpaused : (s.pt p).paused = none) (hfunc : (s.pt p).func = .ready) (hstep : (s.pt p).step = none) (hn : n ≤ (s.pt p).stepNo) :
    ¬ ((s.pt p).col.judged = s.mgmt.beat ∨ (s.pt p).job ≠ .running ∨ (s.pt p).paused.isSome = true ∨ (s.pt p).func ≠ .ready ∨
      (s.pt p).step.isSome = true ∨ (s.pt p).stepNo < n) := by
  simp [hjudged, hjob, hpaused, hfunc, hstep, hn]

/-- No open cut, no newer durable cut than the group's G, and no communication queue that is not drained defers it (R448). -/
theorem groupCut_undeferred (hopen : s.cutOpen p = false) (hcut : (s.pt p).newestCut ≤ (s.pt p).groupG) (hqueues : s.queuesDrained p = true) :
    ¬ (s.cutOpen p = true ∨ (s.pt p).groupG < (s.pt p).newestCut ∨ s.queuesDrained p = false) := by
  simp [hopen, hcut, hqueues]

end

/-- Settles O27: a cut's save, its durability and a group cut are each made where nothing holds them back. -/
theorem cutCourse : Obligations.CutCourse := by
  unfold Obligations.CutCourse
  refine ⟨fun s p m hpower hmark hphase hbeat hpaused hdrained hengines => State.live_next hpower ?_,
    fun s p hphase hsent hover hwritable => if_pos ⟨hphase, hsent, hover, hwritable⟩,
    fun s p hpower h => State.live_next hpower (cutDurable_waits h),
    fun s p img hpower hpend hphase hsent hrecord hwritable => State.live_next hpower ?_,
    fun s p n hpower hafter hjudged hjob hpaused hfunc hstep hn hopen hcut hqueues => State.live_next hpower ?_⟩
  · simp only [cutSaveDone, hmark]
    exact if_neg (cutSave_due hphase hbeat hpaused hdrained hengines)
  · simp only [cutDurable, hpend]
    exact if_neg (cutRecord_acknowledged hphase hsent hrecord hwritable)
  · simp only [groupCut, hafter]
    exact (if_neg (groupCut_atBoundary hjudged hjob hpaused hfunc hstep hn)).trans (if_neg (groupCut_undeferred hopen hcut hqueues))

end Sys2Proof.Machine
end

section
/-! PROOF. A store write for a partition that mirrors to a buddy sends the image to the buddy as well (R452), which a new write as O23 has
it does not (O23). -/

namespace Sys2Proof.Machine

section
variable {s : State} {p n : Nat}

/-- A write of a page that has none pending joins the store's writes, and the buddy is told of the image. -/
theorem State.storeWrite_new (cls : Nat) (h : (s.store.writes.any fun w => w.p == p && w.n == n && !w.snap) = false) :
    s.storeWrite p n cls =
      ({ s with store := { s.store with writes := s.store.writes ++ [{ p := p, n := n, cls := cls }] } } : State).tellBuddy p
        "BUDDY_IMAGE" [n] :=
  if_neg (Bool.not_eq_true _ ▸ h)

/-- If the partition mirrors, the buddy is sent a message of it. -/
theorem State.out_storeWrite_mirroring (cls : Nat) (h : (s.store.writes.any fun w => w.p == p && w.n == n && !w.snap) = false)
    (hmirroring : s.mirroring p = true) :
    (s.storeWrite p n cls).out = .message "BUDDY_IMAGE" (s.fld rMemBuddyPtn 0 p 47 36)
      [p, s.fld rMemBuddyPtn 0 p 35 34, s.fld rMemBuddyPtn 0 p 33 31, n] :: s.out := by
  rw [State.storeWrite_new cls h]
  exact congrArg State.out (if_pos hmirroring)

end

/-- A module with power good, its store mounted and nothing to write, whose partition 0 runs a job with a page in HBM and mirrors to a
buddy. -/
def mirroringToBuddy : State :=
  ({ mgmt := { powerGood := true }, store := { mounted := true },
     ptn := [(0, { func := .ready, job := .running, live := { pages := [(0, { state := 1 })] } })] } : State).setFld rMemBuddyPtn 0 0 2 1 1

theorem mirroringToBuddy_mirroring : mirroringToBuddy.mirroring 0 = true := by
  decide +kernel

/-- Refutes O23: its last clause has a new store write add itself to the store's writes and change nothing else, also in a partition that
mirrors, where a demotion or a cap journal write goes to the buddy too (R452); `State.storeWrite_new` says what such a write does. Its
clause for a beat's 64 taken entries fails as well, where a word of the queue reads uncorrectable: that word is met all the same (R281). -/
theorem not_tierRequestsAndPages : ¬ Obligations.TierRequestsAndPages := by
  unfold Obligations.TierRequestsAndPages
  rintro ⟨-, hpages⟩
  obtain ⟨-, -, -, -, -, hwrite⟩ := hpages mirroringToBuddy 0 0 rfl
  have same := congrArg State.out (hwrite rfl)
  rw [State.out_storeWrite_mirroring 3 rfl mirroringToBuddy_mirroring] at same
  exact List.cons_ne_self _ _ same

end Sys2Proof.Machine
end

section
/-! PROOF. A STEP from its start to its entry point: its descriptor, its opening, its reservations and its entry (O25). -/

namespace Sys2Proof.Machine

section
variable {s : State} {p : Nat}

/-! ### The descriptor starts (R346) -/

/-- The start of a descriptor leaves the scratchpad its size. -/
theorem State.scratchSize_started (s : State) (p : Nat) (d : ADesc) : (s.started p d).scratchSize p = s.scratchSize p := rfl

/-- The next descriptor of a ring is a STEP, and it may start. -/
theorem exec_step_starts {n : Nat} {d : ADesc} (hpower : s.mgmt.powerGood = true) (h : s.starts p n 2 d) (m : Option (List W64)) :
    exec (.step p n m) s = .next (stepStart p d m s) :=
  have row : execStep p n m s = .next (stepStart p d m s) :=
    State.live_next hpower (s.startRow_starts p n 2 d _ (fun d s => stepStart p d m s) h rfl)
  row

/-- A STEP whose turn it is in a running job, with an entry point and room for its manifest, starts with the manifest that was read
(R346, R347). -/
theorem stepStart_starts {d : ADesc} {m : Option (List W64)} {ws : List W64} (hjob : (s.pt p).job = .running)
    (hstep : (s.pt p).step = none) (hready : d.ready ≠ 0)
    (hfirst : ∀ x ∈ (s.pt p).descs, x.done = true ∨ x.ready = 0 ∨ x.start.isSome = true ∨ d.ready ≤ x.ready)
    (hentry : bits (d.w 2) 15 0 < (s.pt p).info.entries.length)
    (hroom : bits (d.w 5) 63 32 + 16 * bits (d.w 5) 12 0 ≤ s.scratchSize p)
    (hread : (if bits (d.w 5) 12 0 = 0 then some [] else m) = some ws) (hlength : ws.length = 2 * bits (d.w 5) 12 0) :
    stepStart p d m s = (s.started p d).upPt p fun q => { q with step := some {
      sq := d.sq, seq := d.seq, start := s.mgmt.beat, entry := bits (d.w 2) 15 0, arg := BitVec.ofNat 64 (d.w 3),
      manAddr := d.w 4, manSpad := bits (d.w 5) 63 32, count := bits (d.w 5) 12 0, manifest := ws } } := by
  have first : ((s.pt p).descs.all fun e => e.done || e.ready == 0 || e.start.isSome || decide (d.ready ≤ e.ready)) = true := by
    simpa [or_assoc] using hfirst
  have turn : ¬ ((s.pt p).job = .running ∧ ((s.pt p).step.isSome = true ∨
      ((s.pt p).descs.all fun e => e.done || e.ready == 0 || e.start.isSome || decide (d.ready ≤ e.ready)) = false ∨ d.ready = 0)) := by
    simp [hstep, first, hready]
  have valid : ¬ ((s.pt p).info.entries.length ≤ bits (d.w 2) 15 0 ∨
      (s.started p d).scratchSize p < bits (d.w 5) 63 32 + 16 * bits (d.w 5) 12 0) := by
    rw [State.scratchSize_started]
    omega
  rw [stepStart, if_neg turn, State.withJob_running _ _ _ _ hjob]
  simp only [if_neg valid, hread]
  exact if_neg (not_not.mpr hlength)

/-! ### The step opens (R247) -/

/-- Beat O of a running job's STEP is the first after its start, unless a pause or a group cut delays it. -/
theorem stepOpen_due {t : StepSt} (hopened : t.opened = none) (hbeat : t.start < s.mgmt.beat) (hjob : (s.pt p).job = .running)
    (hpaused : (s.pt p).paused = none) (hcut : ∀ c, (s.pt p).col.cutAfter = some c → (s.pt p).stepNo < c) :
    ¬ (t.opened.isSome = true ∨ s.mgmt.beat ≤ t.start ∨ (s.pt p).job ≠ .running ∨ (s.pt p).paused.isSome = true ∨
      (s.pt p).col.cutAfter.any (· ≤ (s.pt p).stepNo) = true) := by
  have uncut : (s.pt p).col.cutAfter.any (· ≤ (s.pt p).stepNo) = false := by
    simpa [Option.any_eq_false] using hcut
  simp [hopened, hbeat, hjob, hpaused, uncut]

/-! ### The reservations are made (R247, R248, R341) -/

/-- The pages of an entry's reservation list. -/
def Ptn.resvPages (q : Ptn) (e : W64 × W64) : List Nat := (q.resvWords e).map fun w => bits w 47 18

/-- A list of pages can be granted whole: its charge, and its frames out of `room`. -/
def State.Fits (s : State) (p room : Nat) (pages : List Nat) : Prop :=
  s.canCharge p pages.length = true ∧ pages.length ≤ room ∧ pages.length ≤ s.freeFrames p

section
variable (room i : Nat) (e : W64 × W64) (rest : List ((W64 × W64) × Nat))

/-- An entry that got its status at the opening keeps it. -/
theorem State.reserve_judged (old : Option (List Nat)) {st : Nat} (h : st ≠ 0xffff) :
    s.reserve p room old i ((e, st) :: rest) = (s.reserve p room old (i + 1) rest).map fun r => (r.1, st :: r.2) := by
  rw [State.reserve, if_pos h]

/-- At a first opening a list that fits is granted whole. -/
theorem State.reserve_granted (h : s.Fits p room ((s.pt p).resvPages e)) :
    s.reserve p room none i ((e, 0xffff) :: rest) =
      ((((s.pt p).resvPages e).foldl (fun s n => s.grantPage p n) (s.charge p ((s.pt p).resvPages e).length)).reserve p
        (room - ((s.pt p).resvPages e).length) none (i + 1) rest).map fun r => (r.1, 0 :: r.2) := by
  rw [State.reserve, if_neg (not_not.mpr rfl)]
  exact if_pos h

/-- At a first opening a list that does not fit is refused whole. -/
theorem State.reserve_refused (h : ¬ s.Fits p room ((s.pt p).resvPages e)) :
    s.reserve p room none i ((e, 0xffff) :: rest) = (s.reserve p room none (i + 1) rest).map fun r => (r.1, 1 :: r.2) := by
  rw [State.reserve, if_neg (not_not.mpr rfl)]
  exact if_neg h

end

/-- At a first opening none waits: every entry gets a status. -/
theorem State.reserve_first (s : State) (p room i : Nat) (es : List ((W64 × W64) × Nat)) :
    ∃ t sts, s.reserve p room none i es = some (t, sts) ∧ sts.length = es.length := by
  induction es generalizing s room i with
  | nil => exact ⟨s, [], rfl, rfl⟩
  | cons x rest ih =>
    obtain ⟨e, st⟩ := x
    by_cases hst : st = 0xffff
    · subst hst
      by_cases hfits : s.Fits p room ((s.pt p).resvPages e)
      · obtain ⟨t, sts, hrest, hlength⟩ := ih _ _ _
        exact ⟨t, 0 :: sts, by rw [State.reserve_granted room i e rest hfits, hrest]; rfl, by simp [hlength]⟩
      · obtain ⟨t, sts, hrest, hlength⟩ := ih _ _ _
        exact ⟨t, 1 :: sts, by rw [State.reserve_refused room i e rest hfits, hrest]; rfl, by simp [hlength]⟩
    · obtain ⟨t, sts, hrest, hlength⟩ := ih _ _ _
      exact ⟨t, st :: sts, by rw [State.reserve_judged room i e rest none hst, hrest]; rfl, by simp [hlength]⟩

section
variable {t : StepSt} {o : Nat} (hstep : (s.pt p).step = some t) (hopened : t.opened = some o)
include hstep hopened

/-- Without a reservation list the entry point starts as soon as nothing pauses the opened step (R247). -/
theorem State.enterDue_enters (hresv : t.resv = false) (hentered : t.entered = false) (hpaused : (s.pt p).paused = none)
    (hjob : (s.pt p).job = .running) : s.enterDue p = s.enterStep p := by
  have due : ¬ (t.opened.isNone = true ∨ t.resv = true ∨ t.entered = true ∨ (s.pt p).paused.isSome = true ∨
      (s.pt p).job ≠ .running) := by simp [hopened, hresv, hentered, hpaused, hjob]
  simp only [State.enterDue, hstep, if_neg due]

/-- Before O + 5 no reservation is made. -/
theorem reservation_early (h : s.since o < 5) : reservation p s = s := by
  simp only [reservation, hstep, hopened]
  exact if_pos (Or.inr (Or.inr (Or.inl h)))

/-- From O + 5 on, the step waits where an entry does, and otherwise enters with the statuses that its reservations gave. -/
theorem reservation_due (hresv : t.resv = true) (hentered : t.entered = false) (hpaused : (s.pt p).paused = none)
    (hjob : (s.pt p).job = .running) (h : 5 ≤ s.since o) :
    reservation p s = match s.reserve p (t.frames.getD (s.freeFrames p)) (((s.pt p).findDesc t.sq t.seq).bind fun d => d.outcomes) 0
        ((manEntries t.manifest).zip t.statuses) with
      | none => s
      | some (s1, sts) => ((s1.upPt p fun q => { q with need := 0, step := some { t with statuses := sts } }).copyManifest p
          { t with statuses := sts }).enterStep p := by
  have due : ¬ (t.resv = false ∨ t.entered = true ∨ s.since o < 5 ∨ (s.pt p).paused.isSome = true ∨ (s.pt p).job ≠ .running) := by
    simp [hresv, hentered, hpaused, hjob, h]
  simp only [reservation, hstep, hopened]
  exact if_neg due

end

end

/-- Settles O25: the start by the checks that let it, the opening by its beat, the reservations one entry after the other. -/
theorem stepOpensAndEnters : Obligations.StepOpensAndEnters := by
  unfold Obligations.StepOpensAndEnters
  refine ⟨fun s p n d m ws hpower hstarts hjob hstep hready hfirst hentry hroom hread => ?_,
    fun s p t hpower hstep hopened hbeat hjob hpaused hcut => ?_,
    fun s p o t hstep hopened hresv hentered hpaused hjob => State.enterDue_enters hstep hopened hresv hentered hpaused hjob,
    fun s p o t hpower hstep hopened hresv hentered hpaused hjob => ?_, fun s p room i st e rest => ?_⟩
  · have read : (if bits (d.w 5) 12 0 = 0 then some [] else m) = some ws ∧ ws.length = 2 * bits (d.w 5) 12 0 := by
      obtain ⟨hm, hlength, hws⟩ | ⟨hcount, hws⟩ := hread
      · have hcount : bits (d.w 5) 12 0 ≠ 0 := fun h => hws (List.length_eq_zero_iff.mp (by omega))
        exact ⟨(if_neg hcount).trans hm, hlength⟩
      · subst hws
        exact ⟨if_pos hcount, by simp [hcount]⟩
    exact (exec_step_starts hpower hstarts m).trans
      (congrArg _ (stepStart_starts hjob hstep hready hfirst hentry hroom read.1 read.2))
  · refine State.live_next hpower ?_
    simp only [stepOpen, hstep]
    exact if_neg (stepOpen_due hopened hbeat hjob hpaused hcut)
  · intro room es old granted
    have due := reservation_due hstep hopened hresv hentered hpaused hjob
    refine ⟨fun h => State.live_next hpower (reservation_early hstep hopened h), fun h hold => ?_,
      fun h s1 sts hmade => State.live_next hpower ?_, fun h hwaits => State.live_next hpower ?_⟩
    · obtain ⟨s1, sts, hmade, hlength⟩ := s.reserve_first p room 0 es
      have made : s.reserve p room old 0 es = some (s1, sts) := by rw [hold, hmade]
      exact ⟨s1, sts, hmade, hlength, State.live_next hpower (by rw [due h, made])⟩
    · rw [due h, hmade]
    · rw [due h, hwaits]
  · refine ⟨fun hst => State.reserve_judged room i e rest none hst, fun hst hfits => ?_, fun hst hfits => ?_⟩
    · subst hst
      exact State.reserve_granted room i e rest hfits
    · subst hst
      exact State.reserve_refused room i e rest hfits

end Sys2Proof.Machine
end

section
/-! PROOF. The end of a store write, the padding of a stripe, and the acknowledgement of a journal record (O28). -/

namespace Sys2Proof.Machine

section
variable {s : State} {p n : Nat}

/-! ### Writes (R243, R245, R252, R255, R258, R289) -/

/-- The image of a snapshot is not the page's home; any other is. -/
theorem State.newHome_snapshot (s : State) (p n i : Nat) (snap cut : Bool) :
    s.newHome p n i (!snap) cut = (if snap then s else s.upPage p n fun g => { g with img := i }).newHome p n i false cut := by
  cases snap <;> rfl

section
variable {w : SWrite} (hdone : (s.store.writes.find? fun x => x.p == p && x.n == n && s.writeDone x) = some w)
  (hwritable : s.storeWritable = true)
include hdone hwritable

/-- A flush to the buddy whose page the forager cannot read meets the sector, and is not made (R267). -/
theorem storeWriteAck_unreadable {u : Nat} {us : List Nat} (h : s.mirrorBad w = u :: us) : storeWriteAck p n s = s.meetBad p u := by
  simp only [storeWriteAck, hdone, hwritable, Bool.true_eq_false, if_false, h]

end

/-! ### Stripes (R289) -/

/-- A stripe that is open longer than two beats after its first unit is filled with padding and closed. -/
theorem stripeClose_late {k : Nat} {t : Stripe} (hopen : s.store.nand.openStripe = some (k, t)) (hlate : 2 < s.since s.store.stripeBeat) :
    stripeClose s = s.upNand fun x => { x with stripes := Tbl.put x.stripes k { t with
      units := t.units ++ List.replicate (t.width - t.units.length) none, closed := true } } := by
  have due : s.store.nand.openStripe.isSome = true ∧ 2 < s.since s.store.stripeBeat := ⟨Option.isSome_of_eq_some hopen, hlate⟩
  rw [stripeClose, if_pos due]
  simp only [State.upNand, Nand.padStripe, hopen]

/-! ### Journal records (R303, R333, R452) -/

/-- The journal buffer has received `rest` after its oldest record, and has acknowledged that one. -/
def State.recordTaken (s : State) (rest : List JRec) : State :=
  { s with store := { s.store with records := rest, buffered := s.store.buffered + recordBytes } }

/-- A record that the buddy does not have yet waits. -/
theorem journalRecordAck_unmirrored {r : JRec} {rest : List JRec} (hrecords : s.store.records = r :: rest) (h : s.buddyHas r = false) :
    journalRecordAck s = s := by
  simp only [journalRecordAck, hrecords, h, if_true]

/-- The acknowledgement of an acceptance record accepts its descriptor. -/
theorem journalRecordAck_accept {q m : Nat} {rest : List JRec} (hrecords : s.store.records = .accept q m :: rest)
    (h : s.buddyHas (.accept q m) = true) : journalRecordAck s = s.accept q m := by
  simp only [journalRecordAck, hrecords, h, Bool.true_eq_false, if_false]

/-- After the acknowledgement of a completion record, the descriptors that it held back may be ready. -/
theorem journalRecordAck_completion {q : Nat} {rest : List JRec} (hrecords : s.store.records = .completion q :: rest)
    (h : s.buddyHas (.completion q) = true) : journalRecordAck s = (s.recordTaken rest).refreshReady q := by
  simp only [journalRecordAck, hrecords, h, Bool.true_eq_false, if_false, State.recordTaken]

/-- The acknowledgement of any other record has no more effect. -/
theorem journalRecordAck_plain {r : JRec} {rest : List JRec} (hrecords : s.store.records = r :: rest) (h : s.buddyHas r = true)
    (haccept : ∀ q m, r ≠ .accept q m) (hcompletion : ∀ q, r ≠ .completion q) : journalRecordAck s = s.recordTaken rest := by
  simp only [journalRecordAck, hrecords, h, Bool.true_eq_false, if_false]
  cases r with
  | accept q m => exact absurd rfl (haccept q m)
  | completion q => exact absurd rfl (hcompletion q)
  | _ => rfl

/-- A journal that logs acknowledges its oldest record while its buffer has room. -/
theorem exec_journalRecordAck_open (hpower : s.mgmt.powerGood = true) (hlog : s.canLog = true)
    (hroom : s.store.buffered + 64 ≤ 134217728) : exec .journalRecordAck s = .next (journalRecordAck s) :=
  State.live_next hpower (if_pos ⟨hlog, decide_eq_true hroom⟩)

end

/-- Settles O28: a write by its reading and its image, a stripe by its age, a record by its kind. -/
theorem storeWriteRows : Obligations.StoreWriteRows := by
  unfold Obligations.StoreWriteRows
  intro s p n w r rest hpower flush s1 s2 s3 s4 s5 s6
  refine ⟨fun hdone hwritable => ⟨fun u us hbad => State.live_next hpower (storeWriteAck_unreadable hdone hwritable hbad),
      fun hbad => State.live_next hpower ?_⟩,
    fun k t hopen hlate => State.live_next hpower (stripeClose_late hopen hlate), fun hlog hrecords hroom => ?_⟩
  · simp only [storeWriteAck, hdone, hwritable, Bool.true_eq_false, if_false, hbad, State.newHome_snapshot, Bool.and_eq_true]
    rfl
  · rw [exec_journalRecordAck_open hpower hlog hroom]
    refine ⟨fun h => congrArg _ (journalRecordAck_unmirrored hrecords h), fun h => ⟨?_, ?_, fun haccept hcompletion =>
      congrArg _ (journalRecordAck_plain hrecords h haccept hcompletion)⟩⟩
    · rintro q m rfl
      exact congrArg _ (journalRecordAck_accept hrecords h)
    · rintro q rfl
      exact congrArg _ (journalRecordAck_completion hrecords h)

end Sys2Proof.Machine
end

section
/-! PROOF. MOVE and COMMIT: what they copy, convert and add (O13). -/

namespace Sys2Proof.Machine

section
variable {s : State} {p lc : Nat} {w : TDesc} {a d : Opnd} (ha : w.opnd lc 0 = some a) (hd : w.opnd lc 1 = some d)
include ha hd

/-- MOVE copies the valid elements' codes, and allocates the cache lines of what it reads in the device virtual range (R132, R280). -/
theorem moveRun_copies : moveRun p lc w s =
    (if a.space = 3 then s.allocate p (a.ranges (w.val 0) (w.val 1)) else s).writeCodes p d
      (w.result fun r k => a.codeAt (s.pt p).live r k) := by
  simp only [moveRun, ha, hd, onOpnd, TDesc.result]

/-- A writing COMMIT writes its source's elements, which the write converts (R133). -/
theorem commitRun_writes : commitRun false p lc w s = s.writeRows p lc w d (w.result fun r k => a.elem (s.pt p).live r k) := by
  simp only [commitRun, ha, hd, onOpnd, Bool.false_eq_true, if_false, TDesc.result]

/-- An adding COMMIT that does not round stochastically draws nothing from the core's generator, and adds each converted element at the
bank (R133, R285). -/
theorem commitRun_adds (hround : w.rndMode ≠ .stochastic) : commitRun true p lc w s =
    s.writeCodes p d (((convRows d.fmt w.sat w.rndMode (w.result fun r k => a.elem (s.pt p).live r k)
      { state := ((s.pt p).live.core lc).rng }).1.zip (List.range (w.val 0))).map fun x =>
        (x.1.1.zip (List.range (w.val 1))).map fun y => bankAdd d.fmt (d.codeAt (s.pt p).live x.2 y.2) y.1) := by
  simp only [commitRun, ha, hd, onOpnd, if_true, if_neg hround, TDesc.result]

end

/-- Settles O13: each instruction by its effect on its operands. -/
theorem moveAndCommitResults : Obligations.MoveAndCommitResults := by
  unfold Obligations.MoveAndCommitResults
  intro s s1 p lc e c a d w j cv ha hd
  refine ⟨fun hx => ?_, fun hx => ?_, fun hround hx => ?_⟩
  · exact State.tileRow_run s s1 p lc .move (moveSpec p lc) e c _ none hx (congrArg plain (moveRun_copies ha hd))
  · exact State.tileRow_run s s1 p lc (.commit false) (commitSpec false p lc) e c _ none hx (congrArg plain (commitRun_writes ha hd))
  · exact State.tileRow_run s s1 p lc (.commit true) (commitSpec true p lc) e c _ none hx
      (congrArg plain (commitRun_adds ha hd hround))

end Sys2Proof.Machine
end

section
/-! PROOF. The harts' atomic operations on the scratchpad window (O21). -/

namespace Sys2Proof.Machine

/-! ### Where an access goes (R101, R102, R283) -/

section
variable {s : State} {d off w : Nat} {k : MemUse}

/-- An access within the scratchpad window that the protection allows goes to the scratchpad. -/
theorem State.hartWhere_scratchpad (hsize : off + w ≤ s.scratchSize (s.dispPos d).1)
    (hmay : (s.disp d).pmpAllows (slmWindow + off) w k = true) : s.hartWhere d (slmWindow + off) w k = some (.slm off) := by
  have above : ¬ slmWindow + off + w ≤ 0x40000 := by simp only [slmWindow]; omega
  have within : slmWindow ≤ slmWindow + off ∧ slmWindow + off + w ≤ slmWindow + s.scratchSize (s.dispPos d).1 := by omega
  simp only [State.hartWhere, State.hartMap, hmay, if_neg above, if_pos within, Bool.true_eq_false, if_false, Nat.add_sub_cancel_left]

variable (hw : w = 4 ∨ w = 8)
include hw

/-- The window begins at a multiple of a word, so that an address in it is aligned as its offset is. -/
theorem slmWindow_add_mod : (slmWindow + off) % w = off % w := by
  simp only [slmWindow]
  obtain rfl | rfl := hw <;> omega

/-- An aligned word of the window that reads correctly is accessed at the SLM bank. -/
theorem State.slmAccess_word (hsize : off + w ≤ s.scratchSize (s.dispPos d).1) (halign : off % w = 0)
    (hread : off / 8 ∉ (s.pt (s.dispPos d).1).live.slmBad) (hmay : (s.disp d).pmpAllows (slmWindow + off) w k = true) :
    s.slmAccess d (slmWindow + off) w k = .slm off := by
  have aligned : ¬ (slmWindow + off) % w ≠ 0 := not_not.mpr ((slmWindow_add_mod hw).trans halign)
  rw [State.slmAccess, if_neg aligned, State.hartWhere_scratchpad hsize hmay]
  exact if_neg fun h => hread (List.contains_iff_mem.mp h)

/-- A misaligned access is stopped before the map and the protection are looked at. -/
theorem State.slmAccess_misaligned (s : State) (d : Nat) (k : MemUse) (halign : off % w ≠ 0) :
    s.slmAccess d (slmWindow + off) w k =
      .stop (if k = .load then Cause.loadMisaligned else Cause.storeMisaligned) Code.invalidOperand :=
  if_pos (by rwa [slmWindow_add_mod hw])

end

/-! ### The operations, by where they go (R282, R284) -/

section
variable {s : State} {d a w : Nat} (rd : Nat)

theorem slmAmo_scratchpad {off : Nat} (op : AmoOp) (v : Nat) (h : s.slmAccess d a w .store = .slm off) :
    slmAmo d rd op w a v s =
      let old := (s.pt (s.dispPos d).1).live.slm.rdLe off w
      ((s.slmStore (s.dispPos d).1 (bwrites off (leBytes w (AmoOp.apply op (8 * w) old (v % 2 ^ (8 * w)))))
        (some (s.dispPos d).2)).1).retire d rd (loadWord w old) := by
  simp only [slmAmo, h]

theorem hartLr_scratchpad {off : Nat} (h : s.slmAccess d a w .load = .slm off) :
    hartLr d rd w a s = (s.upDisp d fun x => { x with resv := some (a, w) }).retire d rd
      (loadWord w ((s.pt (s.dispPos d).1).live.slm.rdLe off w)) := by
  simp only [hartLr, h]

theorem hartSc_scratchpad {off : Nat} (v : Nat) (h : s.slmAccess d a w .store = .slm off) :
    hartSc d rd w a v s =
      let held := (s.disp d).holds a
      let t := if held then (s.slmStore (s.dispPos d).1 (bwrites off (leBytes w v)) (some (s.dispPos d).2)).1
        else s.slmOperate (s.dispPos d).1 off (some (s.dispPos d).2)
      (t.upDisp d fun x => { x with resv := none }).retire d rd (if held then 0 else 1) := by
  simp only [hartSc, h]

section
variable {cause status : Nat}

theorem slmAmo_stopped (op : AmoOp) (v : Nat) (h : s.slmAccess d a w .store = .stop cause status) :
    slmAmo d rd op w a v s = s.hartTrap d cause a status := by
  simp only [slmAmo, h]

theorem hartLr_stopped (h : s.slmAccess d a w .load = .stop cause status) : hartLr d rd w a s = s.hartTrap d cause a status := by
  simp only [hartLr, h]

theorem hartSc_stopped (v : Nat) (h : s.slmAccess d a w .store = .stop cause status) :
    hartSc d rd w a v s = s.hartTrap d cause a status := by
  simp only [hartSc, h]

end

end

/-- Settles O21: an aligned access goes to the SLM bank, and a misaligned one is stopped. -/
theorem scratchpadAtomics : Obligations.ScratchpadAtomics := by
  unfold Obligations.ScratchpadAtomics
  intro s d rd off dbl op v hruns p i w a old held may
  have hw : w = 4 ∨ w = 8 := by cases dbl <;> simp [w]
  have amo : exec (.slmAmo d rd op dbl a v) s = .next (slmAmo d rd op w a v.toNat s) := State.onHart_runs s d _ hruns
  have lr : exec (.lr d rd dbl a) s = .next (hartLr d rd w a s) := State.onHart_runs s d _ hruns
  have sc : exec (.sc d rd dbl a v) s = .next (hartSc d rd w a v.toNat s) := State.onHart_runs s d _ hruns
  rw [amo, lr, sc]
  refine ⟨fun hsize halign hread => ?_, fun halign => ?_⟩
  · have goes : ∀ {k}, may k → s.slmAccess d a w k = .slm off := State.slmAccess_word hw hsize halign hread
    exact ⟨fun h => congrArg _ (slmAmo_scratchpad rd op v.toNat (goes h)), fun h => congrArg _ (hartLr_scratchpad rd (goes h)),
      fun h => congrArg _ (hartSc_scratchpad rd v.toNat (goes h))⟩
  · have stops := fun k => State.slmAccess_misaligned hw s d k halign
    exact ⟨congrArg _ (slmAmo_stopped rd op v.toNat (stops .store)), congrArg _ (hartLr_stopped rd (stops .load)),
      congrArg _ (hartSc_stopped rd v.toNat (stops .store))⟩

end Sys2Proof.Machine
end

section
/-! PROOF. The headgate, the acceptance of a descriptor, NOP, and the completion ring (O40). -/

namespace Sys2Proof.Machine

section
variable {s : State} {p n : Nat}

/-! ### The headgate (R328, R333) -/

/-- The number of the descriptor that the headgate expects next in ring `n`. -/
def State.expected (s : State) (p n : Nat) : Nat := (s.accepted p n + ((s.pt p).sq n).awaiting.length) % 2 ^ 64

/-- The headgate reads ring `n`: its function is READY and reachable, the ring is enabled and RUNNING, nothing holds it, there is room for
one more record to await its acknowledgement, and the doorbell is ahead of the descriptor it expects (R333). -/
structure HeadgateReads (s : State) (p n : Nat) : Prop where
  ready : s.funcState p = .ready
  enabled : s.sqOn p n = true
  tdi : s.tdiOpen (p + 1) = true
  running : s.fld rPtnSqStatus (p + 1) n 2 0 = 1
  unheld : s.holdBits p n = 0
  ringRoom : ((s.pt p).sq n).awaiting.length < 256
  room : (s.pt p).awaitingAll < 1024
  ahead : 0 < sdiff ((s.pt p).sq n).target.toNat (s.expected p n)

/-- The headgate has asked the host for the slot of the descriptor it expects. -/
def State.slotRead (s : State) (p n : Nat) : State := s.emit (.hostRead (p + 1) (s.slotAddr p n (s.expected p n)) 64)

namespace HeadgateReads

variable (h : HeadgateReads s p n)
include h

/-- None of the conditions that keep the headgate from reading holds. -/
theorem not_stopped : ¬ (s.funcState p ≠ .ready ∨ s.sqOn p n = false ∨ s.tdiOpen (p + 1) = false ∨
    s.fld rPtnSqStatus (p + 1) n 2 0 ≠ 1 ∨ s.holdBits p n ≠ 0 ∨ 256 ≤ ((s.pt p).sq n).awaiting.length ∨ 1024 ≤ (s.pt p).awaitingAll ∨
    sdiff ((s.pt p).sq n).target.toNat (s.expected p n) ≤ 0) := by
  simp only [h.ready, h.enabled, h.tdi, h.running, h.unheld, Nat.not_le.mpr h.ringRoom, Nat.not_le.mpr h.room, Int.not_le.mpr h.ahead,
    ne_eq, not_true_eq_false, Bool.true_eq_false, or_self, not_false_eq_true]

/-- A read that the host does not answer stalls the ring. -/
theorem unanswered : headgateFetch p n none s = (s.slotRead p n).stallSq p n 3 := if_neg h.not_stopped

variable {ws : List W64} (hlength : ws.length = 8)
include hlength

/-- A slot that holds another descriptor stalls the ring. -/
theorem otherDescriptor (hseq : (ws.getD 0 0).toNat ≠ s.expected p n) :
    headgateFetch p n (some ws) s = (s.slotRead p n).stallSq p n 1 :=
  (if_neg h.not_stopped).trans ((if_neg (not_not.mpr hlength)).trans (if_pos hseq))

/-- The expected descriptor awaits the acknowledgement of its acceptance record, which is sent. -/
theorem expectedDescriptor (hseq : (ws.getD 0 0).toNat = s.expected p n) :
    headgateFetch p n (some ws) s =
      ((s.slotRead p n).upSq p n fun y => { y with awaiting := y.awaiting ++ [ws] }).sendRecord (.accept p n) (ws.map (·.toNat)) :=
  (if_neg h.not_stopped).trans ((if_neg (not_not.mpr hlength)).trans (if_neg (not_not.mpr hseq)))

end HeadgateReads

/-! ### Acceptance (R303, R333, R452) -/

/-- The oldest descriptor that awaits its acknowledgement in ring `n`, `ws`, is accepted: A advances, and the journal buffer has its
record. -/
def State.oldestAccepted (s : State) (p n : Nat) (ws : List W64) (rest : List (List W64)) : State :=
  let t := (s.upSq p n fun y => { y with awaiting := rest }).give rPtnSqNext (p + 1) n ((s.accepted p n + 1) % 2 ^ 64)
  let t := t.upPt p fun q => { q with
    descs := q.descs ++ [({ sq := n, seq := s.accepted p n, words := ws, ord := q.accOrd } : ADesc)], accOrd := q.accOrd + 1 }
  { t with store := { t.store with records := dropRec (.accept p n) t.store.records, buffered := t.store.buffered + recordBytes } }

theorem State.accept_oldest {ws : List W64} {rest : List (List W64)} (h : ((s.pt p).sq n).awaiting = ws :: rest) :
    s.accept p n = (s.oldestAccepted p n ws rest).refreshReady p := by
  simp only [State.accept, h, State.oldestAccepted]

theorem exec_descriptorAccepted (hpower : s.mgmt.powerGood = true) (hroom : s.store.buffered + recordBytes ≤ 134217728) :
    exec (.descriptorAccepted p n) s = .next (if s.buddyHas (.accept p n) then s.accept p n else s) := by
  have room : s.journalRoom = true := decide_eq_true hroom
  have acknowledges : execDescriptorAccepted p n s = .next (if s.buddyHas (.accept p n) then s.accept p n else s) :=
    State.live_next hpower (by simp only [room, true_and])
  exact acknowledges

/-! ### NOP (R342) -/

/-- The next descriptor of a ring is a NOP, and it may start: it completes DONE. -/
theorem exec_nop_starts {d : ADesc} (hpower : s.mgmt.powerGood = true) (h : s.starts p n 8 d) :
    exec (.nop p n) s = .next ((s.started p d).finish p d Code.done 0 0 0) :=
  have row : execNop p n s = .next ((s.started p d).finish p d Code.done 0 0 0) :=
    State.live_next hpower (s.startRow_starts p n 8 d _ (fun d s => (s.started p d).finish p d Code.done 0 0 0) h rfl)
  row

/-! ### The completion ring (R330, R338, R369) -/

/-- Completion ring `n` takes the host's head word `h`: the entries that it has passed are freed. -/
def State.headTaken (s : State) (p n h : Nat) : State :=
  (s.upCq p n fun c => { c with head := h }).upPt p fun q => { q with journal := freeJournal n h q.journal }

/-- The slot that entry `e` is written into: its own, or the next one of ring `n` (R338). -/
def State.slotOf (s : State) (p n : Nat) (e : JEntry) : Nat := e.slot.getD ((s.pt p).cq n).given

/-- Entry `e` is written into its slot, and the completion event is raised (R330, R338, R369). -/
def State.writesEntry (s : State) (p n : Nat) (e : JEntry) : State :=
  let log2 := s.fld rPtnCqCfg (p + 1) n 4 0
  let slot := s.slotOf p n e
  let t := s.emit (.hostWrite (p + 1) (s.rd rPtnCqBase (p + 1) n + 32 * (slot % 2 ^ log2)) (complBytes e.words slot log2))
  let t := (t.noteWritten p n slot e).setFld rPtnCqStatus (p + 1) n 2 0 1
  (t.raiseLocal (p + 1) 0x100).record (p + 1) (t.fld rPtnCqCfg (p + 1) n 23 16)
    { ev := 0x100, beat := t.mgmt.beat, d0 := n, d1 := ((t.pt p).cq n).written }

section
variable {head : Option W64} {h : Nat} {e : JEntry} (hon : s.cqOn p n = true) (hmaster : s.busMaster (p + 1) = true)
  (hready : (s.pt p).func = .ready) (hhead : (head.map (·.toNat)).getD ((s.pt p).cq n).head = h)
  (hnext : (s.headTaken p n h).nextRecord p n = some e)
include hon hmaster hready hhead hnext

/-- A ring that may be written writes its next record where the host has room for it, and is FULL otherwise. -/
theorem completionWrite_next : completionWrite p n head s =
    if ((s.headTaken p n h).slotOf p n e + 2 ^ 64 - h) % 2 ^ 64 < 2 ^ s.fld rPtnCqCfg (p + 1) n 4 0 then
      (s.headTaken p n h).writesEntry p n e
    else (s.headTaken p n h).setFld rPtnCqStatus (p + 1) n 2 0 2 := by
  subst hhead
  have open_ : ¬ (s.cqOn p n = false ∨ s.busMaster (p + 1) = false ∨ (s.pt p).func ≠ .ready) := by simp [hon, hmaster, hready]
  rw [completionWrite, if_neg open_]
  simp only [State.headTaken] at hnext
  simp only [hnext]
  rfl

end

end

/-- Settles O40: the headgate by the slot it reads, an acceptance by its buddy's acknowledgement, NOP by its row, and a completion by
the room that the host has. -/
theorem acceptanceAndCompletion : Obligations.AcceptanceAndCompletion := by
  unfold Obligations.AcceptanceAndCompletion
  intro s p n ws rest d head e hpower f x expect h s1 log2 slot
  refine ⟨?_, ?_, ?_, ?_, ?_⟩
  · intro hready henabled htdi hrunning hunheld hringRoom hroom hahead r
    have reads : HeadgateReads s p n := ⟨hready, henabled, htdi, hrunning, hunheld, hringRoom, hroom, hahead⟩
    exact ⟨State.live_next hpower reads.unanswered, fun hl hseq => State.live_next hpower (reads.otherDescriptor hl hseq),
      fun hl hseq => State.live_next hpower (reads.expectedDescriptor hl hseq)⟩
  · intro _ hroom hbuddy
    rw [exec_descriptorAccepted hpower hroom, hbuddy]
    rfl
  · intro hawaiting hroom hbuddy t
    rw [exec_descriptorAccepted hpower hroom, hbuddy, if_pos rfl, State.accept_oldest hawaiting]
    rfl
  · exact exec_nop_starts hpower
  · intro hon hmaster hready hnext
    have writes : exec (.completionWrite p n head) s = .next (completionWrite p n head s) := State.live_on s _ hpower
    have next := completionWrite_next hon hmaster hready (rfl : _ = h) hnext
    rw [writes, next]
    exact ⟨fun hfull => congrArg _ (if_neg (Nat.not_lt.mpr hfull)), fun hfits => congrArg _ (if_pos hfits)⟩

end Sys2Proof.Machine
end

section
/-! PROOF. The store's ladder and its rebuilds: units that were lost before a rebuild could give them stay unreadable, which O29 and O30
leave out (R291, R294). -/

namespace Sys2Proof.Machine

/-! ### What an event and a change of the store's health leave (R359) -/

/-- Two states have the same partitions and the same store carrier. -/
def SameStore (s t : State) : Prop := s.ptn = t.ptn ∧ s.store = t.store

theorem SameStore.trans {s t u : State} (h : SameStore s t) (k : SameStore t u) : SameStore s u :=
  ⟨h.1.trans k.1, h.2.trans k.2⟩

theorem SameStore.ite {s t u : State} {c : Prop} [Decidable c] (h : SameStore s u) (k : SameStore t u) :
    SameStore (if c then s else t) u := by
  split <;> assumption

theorem State.sameStore_setFld (s : State) (r : RegSpec) (fn i hi lo v : Nat) : SameStore (s.setFld r fn i hi lo v) s :=
  ⟨s.setFld_ptn .., s.setFld_store ..⟩

theorem State.sameStore_record (s : State) (fn q : Nat) (r : EvRec) : SameStore (s.record fn q r) s := by
  unfold State.record
  dsimp only
  split
  · exact ⟨rfl, rfl⟩
  · split
    · exact ⟨rfl, rfl⟩
    · split
      · exact ⟨rfl, rfl⟩
      · unfold State.setEvStatus
        split <;> exact ⟨rfl, rfl⟩

theorem State.sameStore_raiseLocal (s : State) (fn e : Nat) : SameStore (s.raiseLocal fn e) s := by
  unfold State.raiseLocal
  generalize List.range 10 = qs
  induction qs generalizing s with
  | nil => exact ⟨rfl, rfl⟩
  | cons q qs ih =>
    rw [List.foldl_cons]
    refine (ih _).trans ?_
    split <;> exact ⟨rfl, rfl⟩

/-- A module event leaves the partitions and the store as they are. -/
theorem State.sameStore_raiseAt (s : State) (e d0 d1 st beat : Nat) : SameStore (s.raiseAt 0 e d0 d1 st beat) s := by
  rw [State.raiseAt, if_pos rfl]
  dsimp only
  split
  · exact (State.sameStore_record _ _ _ _).trans (s.sameStore_raiseLocal 0 e)
  · exact s.sameStore_raiseLocal 0 e

/-- So does STORE_STATE, which a change of the store's health raises. -/
theorem State.sameStore_setStoreState {s : State} {f : State → State} (h : SameStore (f s) s) : SameStore (s.setStoreState f) s := by
  unfold State.setStoreState
  dsimp only
  split
  · exact (State.sameStore_raiseAt _ _ _ _ _ _).trans h
  · exact h

theorem State.sameStore_checkReadOnly (s : State) : SameStore s.checkReadOnly s := by
  unfold State.checkReadOnly
  split
  · exact State.sameStore_setStoreState (State.sameStore_setFld ..)
  · exact ⟨rfl, rfl⟩

theorem SameStore.page_eq {s t : State} (h : SameStore s t) (p n : Nat) : s.page p n = t.page p n := by
  simp only [State.page, State.pt, h.1]

/-! ### A unit that was lost for good (R291, R294, R442) -/

/-- Step 4 rebuilds no unit that was lost together with another of its stripe: such a read is UNRECOVERED, whatever the other units read. -/
theorem State.readUnit_dead {s : State} {u : Nat × Nat} {t : Stripe} {r : LadderIn}
    (hstripe : Tbl.find s.store.nand.stripes u.1 = some t) (hpresent : s.lostPkgs.contains (t.pkgOf u.1 u.2) = false)
    (hstep : (stepOf r.unit (s.store.nand.unitId t u.2) (s.store.nand.block (t.pkgOf u.1 u.2) t.blk).thresholds).1 = 0)
    (hdead : t.dead.contains (t.pkgOf u.1 u.2) = true) :
    ∃ counted, SameStore counted s ∧ s.readUnit u r = (counted, 5) := by
  simp only [State.readUnit, hstripe, hpresent, hstep, hdead, Bool.false_eq_true, if_false, or_true, if_true, Nat.reduceEqDiff]
  exact ⟨_, ((State.sameStore_setFld ..).trans (State.sameStore_setFld ..)).trans (State.sameStore_setFld ..), rfl⟩

/-- A live page whose image cannot be read loses it. -/
theorem State.lost_imageLost {s : State} {i : Nat} {g : SImg} (himg : Tbl.find s.store.nand.imgs i = some g)
    (hhome : (s.page g.p g.n).img = i) : ((s.imageLost i).page g.p g.n).lost = true := by
  have home : (((s.raiseAt 0 0x023 g.n g.p Code.uncorrectable s.stamp).page g.p g.n).img) = i := by
    rw [(s.sameStore_raiseAt _ _ _ _ _).page_eq, hhome]
  simp only [State.imageLost, himg]
  generalize s.raiseAt 0 0x023 g.n g.p Code.uncorrectable s.stamp = t at home ⊢
  rw [if_pos home, State.page_upPage_self]

/-- A page that has a unit lost for good loses its image when that unit is read. -/
theorem lost_storeUnitRead_dead {s : State} {unit : Nat} {u : Nat × Nat} {g : SImg} {t : Stripe} {r : LadderIn}
    (himg : Tbl.find s.store.nand.imgs (s.page g.p g.n).img = some g)
    (hunit : (Tbl.get {} s.store.nand.imgs (s.page g.p g.n).img).units[unit]? = some u)
    (hstripe : Tbl.find s.store.nand.stripes u.1 = some t) (hpresent : s.lostPkgs.contains (t.pkgOf u.1 u.2) = false)
    (hstep : (stepOf r.unit (s.store.nand.unitId t u.2) (s.store.nand.block (t.pkgOf u.1 u.2) t.blk).thresholds).1 = 0)
    (hdead : t.dead.contains (t.pkgOf u.1 u.2) = true) : ((storeUnitRead g.p g.n unit r s).page g.p g.n).lost = true := by
  obtain ⟨counted, hsame, hread⟩ := State.readUnit_dead hstripe hpresent hstep hdead
  simp only [storeUnitRead, hunit, hread, if_true]
  rw [(State.sameStore_checkReadOnly _).page_eq]
  exact State.lost_imageLost (hsame.2 ▸ himg) (congrArg Page.img (hsame.page_eq g.p g.n))

/-- A module with power-good and its store mounted, whose page 0 of partition 0 has an image with a unit in stripe 0, which was lost before a
rebuild could give it. Only package 0 is left of that stripe: whether a unit of another package decodes rests on parity bytes, which are a
free value (R290). -/
def unitLostForGood : State :=
  { mgmt := { powerGood := true }
    store := { mounted := true, nand := {
      imgs := [(1, { units := [(0, 0)] })]
      stripes := [(0, { out := [1, 2, 3, 4, 5, 6, 7, 8, 9, 10, 11, 12, 13, 14, 15], units := [some (1, 0)], closed := true, dead := [0] })] } }
    ptn := [(0, { live := { pages := [(0, { img := 1 })] } })] }

/-- Refutes O29: its clause for step 4 has the unit rebuilt wherever every other unit of its stripe decodes, and leaves out the units of
packages that were lost together, which the stripe gives no more (R294). The read of such a unit loses the page's image
(`lost_storeUnitRead_dead`). -/
theorem not_storeReadLadder : ¬ Obligations.StoreReadLadder := by
  unfold Obligations.StoreReadLadder
  rintro ⟨-, -, hrows⟩
  obtain ⟨-, -, -, hrebuilt, -⟩ := hrows unitLostForGood 0 0 0 (0, 0) _ {} rfl (by decide) (by decide +kernel) rfl rfl rfl
    (by decide +kernel)
  have reads : exec (.storeUnitRead 0 0 0 {}) unitLostForGood = .next (storeUnitRead 0 0 0 {} unitLostForGood) :=
    State.live_next rfl (if_pos (by decide +kernel))
  have rebuilt := hrebuilt (by decide +kernel) (by decide +kernel)
  rw [reads, Host.Outcome.next.injEq] at rebuilt
  have lost : ((storeUnitRead 0 0 0 {} unitLostForGood).page 0 0).lost = true :=
    lost_storeUnitRead_dead (g := { units := [(0, 0)] }) rfl rfl rfl (by decide +kernel) (by decide +kernel) (by decide +kernel)
  rw [rebuilt, (State.sameStore_checkReadOnly _).page_eq] at lost
  exact absurd lost (by decide +kernel)

/-! ### A rebuild that is done (R294) -/

/-- STO_HEALTH after a rebuild: the rebuild is complete, and a store that was rebuilding is degraded. -/
def State.rebuiltHealth (s : State) : State :=
  let x := s.setFld rStoHealth 0 0 39 32 100
  if x.fld rStoHealth 0 0 3 0 = 2 then x.setFld rStoHealth 0 0 3 0 3 else x

theorem State.sameStore_rebuiltHealth (s : State) : SameStore s.rebuiltHealth s :=
  SameStore.ite ((State.sameStore_setFld ..).trans (State.sameStore_setFld ..)) (State.sameStore_setFld ..)

/-- A rebuild that is done buries, in every stripe, the units of packages that were lost together, and forgets the packages. -/
theorem rebuildDone_finished {s : State} (hrebuild : s.store.rebuild ≠ []) (hworks : s.fld rStoHealth 0 0 3 0 ≠ 5)
    (hwork : s.rebuildWork = []) (hreloc : s.store.nand.reloc = []) :
    rebuildDone s =
      let t := s.setStoreState State.rebuiltHealth
      let t := t.upNand fun x => { x with stripes := x.stripes.map fun e => (e.1, e.2.bury t.store.rebuild) }
      { t with store := { t.store with rebuild := [], rebuilt := t.store.rebuilt + 1 } } := by
  have done : ¬ (s.store.rebuild = [] ∨ s.fld rStoHealth 0 0 3 0 = 5 ∨ s.rebuildWork ≠ [] ∨ s.store.nand.reloc ≠ []) := by
    simp [hrebuild, hworks, hwork, hreloc]
  exact if_neg done

/-- A module with power-good and its store mounted, which has lost packages 0 and 1 and has rebuilt what it could: of stripe 0, which lies
over all 16 packages, nothing is to be rebuilt. -/
def twoPackagesLost : State :=
  ({ mgmt := { powerGood := true }
     store := { mounted := true, rebuild := [0, 1], nand := { stripes := [(0, { closed := true })] } } } : State).wr rStoHealth 0 0 (3 * 2 ^ 40 + 2)

/-- Refutes O30: its clause for a rebuild that is done changes nothing of the stripes, also where two packages were lost before the rebuild
was done, whose units stay unreadable (R294); `rebuildDone_finished` says what such an end leaves. -/
theorem not_storeHealthRows : ¬ Obligations.StoreHealthRows := by
  unfold Obligations.StoreHealthRows
  intro h
  obtain ⟨-, hdone, -⟩ := h twoPackagesLost 0 0 rfl rfl
  have hworks : twoPackagesLost.fld rStoHealth 0 0 3 0 ≠ 5 := by decide +kernel
  have ends := hdone (List.cons_ne_nil _ _) hworks rfl rfl
  have finishes : exec .rebuildDone twoPackagesLost = .next (rebuildDone twoPackagesLost) := State.live_on _ _ rfl
  rw [finishes, Host.Outcome.next.injEq, rebuildDone_finished (List.cons_ne_nil _ _) hworks rfl rfl] at ends
  have stripes := congrArg (fun t : State => t.store.nand.stripes) ends
  have same : (twoPackagesLost.setStoreState State.rebuiltHealth).store = twoPackagesLost.store :=
    (State.sameStore_setStoreState (State.sameStore_rebuiltHealth _)).2
  have unchanged : (twoPackagesLost.store.nand.stripes.map fun e => (e.1, e.2.bury twoPackagesLost.store.rebuild)) =
      twoPackagesLost.store.nand.stripes := by
    rw [← same]
    exact stripes
  exact absurd unchanged (by decide +kernel)

end Sys2Proof.Machine
end

section
/-! PROOF. The resets: what each clears, what a discard leaves, and what the end of a reset leaves (O37). -/

namespace Sys2Proof.Machine

section
variable {s : State} {p b : Nat}

theorem exec_flrPartitionFunction (hpower : s.mgmt.powerGood = true) (hp : p < 4) :
    exec (.flrPartitionFunction p) s = .next (flrPartitionFunction p s) :=
  have resets : execFlrPartitionFunction p s = .next (flrPartitionFunction p s) :=
    State.live_next hpower (by simp only [Nat.not_le.mpr hp, if_false])
  resets

/-- A discard that is called for takes effect at the first boundary after its beat (R322). -/
theorem functionDiscard_due (hflr : (s.pt p).flr = some b) (hfunc : (s.pt p).func = .discarding) (hb : s.since b ≠ 0) :
    functionDiscard p s =
      let t := (s.upPt p fun q => { q with journal := q.journal.filterMap JEntry.atDiscard }).disableRings p
      let t := ((t.discardAll p 2 fun _ => false).releaseJob p).setJob p .noJob
      (t.upPt p fun q => { q with
        descs := [], flr := none, abort := none, rollReq := none, endCause := none, rolling := some t.lastBeat }).disableRings p := by
  have due : ¬ ((s.pt p).func ≠ .discarding ∨ s.since b = 0) := by simp [hfunc, hb]
  simp only [functionDiscard, hflr]
  exact if_neg due

/-- A reset that nothing holds back, and behind which no function-level reset waits, ends: the partition is READY and RESET_DONE is raised
(R321, R324). -/
theorem resetDone_ready (hrolling : (s.pt p).rolling = some b) (hpresent : s.present p = true) (hshape : s.shapeBusy = false)
    (hreq : (s.pt p).rollReq = none) (hb : 2 ≤ s.since b) (hdrained : (s.pt p).drained = true) (hboot : s.bootReady = true)
    (hflr : (s.pt p).flr = none) :
    resetDone p s =
      let t := s.upPt p fun q => { rewriteAfterReset q with
        rolling := none, func := .ready,
        sqs := q.sqs.map fun (e : Nat × Sq) => (e.1, { e.2 with target := BitVec.ofNat 64 (s.accepted p e.1) }) }
      let t := { t with mgmt := { t.mgmt with everReady := true } }
      let t := if (t.pt p).job = .suspended then t else t.unpause p
      (((t.raiseAt (p + 1) 0x102 (s.pt p).resetKind 0 0 t.lastBeat).upPt p fun q =>
        { q with resetKind := 3 }).resetServed p).refreshReady p := by
  have ends : ¬ (s.present p = false ∨ s.shapeBusy ∨ (s.pt p).rollReq.isSome ∨ s.since b < 2 ∨ (s.pt p).drained = false ∨
      s.bootReady = false) := by simp [hpresent, hshape, hreq, Nat.not_lt.mpr hb, hdrained, hboot]
  have free : ¬ ((s.pt p).func = .resetting ∧ (s.pt p).flr.isSome) := by simp [hflr]
  simp only [resetDone, hrolling]
  exact (if_neg ends).trans (if_neg free)

end

/-- Settles O37: the resets by their definitions, the discard by its beat, and the end of a reset by what holds it back. -/
theorem resetRows : Obligations.ResetRows := by
  unfold Obligations.ResetRows
  refine ⟨fun s pin hpower => ?_, fun s hpower => ?_, fun s p hpower hp => ?_, fun s p b hpower hflr hfunc hb => ?_,
    fun s p b hpower hrolling hpresent hshape hreq hb hdrained hboot hflr => ?_⟩
  · have resets : exec (.conventionalReset pin) s = .next (conventionalReset pin s) := State.live_on s _ hpower
    exact resets
  · have resets : exec .flrPf0 s = .next (flrPf0 s) := State.live_on s _ hpower
    exact resets
  · exact exec_flrPartitionFunction hpower hp
  · exact State.live_next hpower (functionDiscard_due hflr hfunc hb)
  · exact State.live_next hpower (resetDone_ready hrolling hpresent hshape hreq hb hdrained hboot hflr)

end Sys2Proof.Machine
end

section
/-! PROOF. The rings: when an enable and a disable take effect, and where a doorbell moves the target (O39). -/

namespace Sys2Proof.Machine

section
variable {s : State} {p n : Nat}

/-- A register and the ring's own record are kept apart. -/
theorem State.setFld_upSq (f : Sq → Sq) (r : RegSpec) (fn i hi lo v : Nat) :
    (s.upSq p n f).setFld r fn i hi lo v = (s.setFld r fn i hi lo v).upSq p n f := rfl

/-- A ring of a READY partition may be enabled, unless the shape changes (R25, R327). -/
theorem State.ringHeld_ready (hready : s.funcState p = .ready) (hshape : s.shapeBusy = false) : s.ringHeld p = false := by
  rw [State.ringHeld, hready, hshape]
  rfl

/-- The configuration register of ring `n` takes a write: the ring exists, and its function is there and reachable (R326). -/
theorem ring_reachable (hn : n < 64) (hready : s.funcState p = .ready) (htdi : s.tdiOpen (p + 1) = true) :
    ¬ (64 ≤ n ∨ s.funcState p = .absent ∨ s.tdiOpen (p + 1) = false) := by
  simp [hn, hready, htdi]

section
variable {v : Nat} (hn : n < 64) (hready : s.funcState p = .ready) (htdi : s.tdiOpen (p + 1) = true)
include hn hready htdi

/-- A submission ring is enabled: it has a size that is allowed, an enabled completion ring and a base of its own (R326, R327, R334). -/
theorem ptnSqCfgWrite_enables (hshape : s.shapeBusy = false) (hv : bits v 31 31 = 1) (hoff : s.sqOn p n = false)
    (hmin : 6 ≤ bits v 4 0) (hmax : bits v 4 0 ≤ 16) (hcq : s.cqOn p (bits v 21 16) = true)
    (hbase : ∀ m < 64, m ≠ n → s.sqOn p m = true →
      bits (s.rd rPtnSqBase (p + 1) m) 63 12 ≠ bits (s.rd rPtnSqBase (p + 1) n) 63 12) :
    ptnSqCfgWrite p n v s =
      let t := s.wr rPtnSqCfg (p + 1) n (bits v 31 30 * 2 ^ 30 + bits v 21 16 * 65536 + bits v 4 0)
      let t := (t.setFld rPtnSqStatus (p + 1) n 2 0 1).setFld rPtnSqStatus (p + 1) n 7 4 0
      (t.setFld rPtnSqStatus (p + 1) n 31 16 Code.done).upSq p n fun x =>
        { x with target := BitVec.ofNat 64 (t.accepted p n), shadow := [], shadowed := true } := by
  have own : ((List.range 64).any fun m => m != n && s.sqOn p m &&
      bits (s.rd rPtnSqBase (p + 1) m) 63 12 == bits (s.rd rPtnSqBase (p + 1) n) 63 12) = false := by
    simpa [and_imp] using hbase
  rw [ptnSqCfgWrite, if_neg (ring_reachable hn hready htdi)]
  simp only [hv, hoff, hcq, own, Nat.not_lt.mpr hmin, Nat.not_lt.mpr hmax, State.ringHeld_ready hready hshape, if_true, if_false,
    Bool.false_eq_true, Bool.true_eq_false, or_self]
  exact State.setFld_upSq ..

/-- What stands against the disable of submission ring `n`: an accepted descriptor without its completion, or a completion that is not
written (R327). -/
def Ptn.ringOpen (q : Ptn) (n : Nat) : Bool :=
  q.descs.any (fun d => d.sq == n && !d.done && d.mode != 2) || q.journal.any (fun e => e.sq == n && !e.written && !e.rewrite)

omit hn hready htdi in
theorem Ptn.ringOpen_iff (q : Ptn) : q.ringOpen n = true ↔
    (∃ e ∈ q.descs, e.sq = n ∧ e.done = false ∧ e.mode ≠ 2) ∨
      ∃ e ∈ q.journal, e.sq = n ∧ e.written = false ∧ e.rewrite = false := by
  simp [Ptn.ringOpen, and_assoc]

/-- A ring with work left is not disabled (R327). -/
theorem ptnSqCfgWrite_held (hv : bits v 31 31 = 0) (hopen : (s.pt p).ringOpen n = true) :
    ptnSqCfgWrite p n v s = s.setFld rPtnSqStatus (p + 1) n 31 16 Code.resourceHeld := by
  rw [ptnSqCfgWrite, if_neg (ring_reachable hn hready htdi), hv]
  exact (if_neg Nat.zero_ne_one).trans (if_pos hopen)

/-- A ring without work left is disabled (R327). -/
theorem ptnSqCfgWrite_disables (hv : bits v 31 31 = 0) (hon : s.sqOn p n = true) (hidle : (s.pt p).ringOpen n = false) :
    ptnSqCfgWrite p n v s = ((s.setFld rPtnSqCfg (p + 1) n 31 31 0).setFld rPtnSqStatus (p + 1) n 2 0 0).setFld
      rPtnSqStatus (p + 1) n 31 16 Code.done := by
  have idle : ¬ (s.pt p).ringOpen n = true := by simp [hidle]
  rw [ptnSqCfgWrite, if_neg (ring_reachable hn hready htdi), hv]
  exact (if_neg Nat.zero_ne_one).trans ((if_neg idle).trans (if_pos hon))

/-- A completion ring is enabled empty (R326, R327). -/
theorem ptnCqCfgWrite_enables (hshape : s.shapeBusy = false) (hv : bits v 31 31 = 1) (hoff : s.cqOn p n = false)
    (hmin : 6 ≤ bits v 4 0) (hmax : bits v 4 0 ≤ 16) :
    ptnCqCfgWrite p n v s =
      (((s.wr rPtnCqCfg (p + 1) n (2 ^ 31 + bits v 23 16 * 65536 + bits v 4 0)).upCq p n fun c =>
        { c with written := 0, given := 0, head := 0 }).setFld rPtnCqStatus (p + 1) n 2 0 1).setFld
          rPtnCqStatus (p + 1) n 31 16 Code.done := by
  rw [ptnCqCfgWrite, if_neg (ring_reachable hn hready htdi)]
  simp only [hv, hoff, Nat.not_lt.mpr hmin, Nat.not_lt.mpr hmax, State.ringHeld_ready hready hshape, if_true, if_false,
    Bool.false_eq_true, or_self]

end

/-- A doorbell of eight bytes to an enabled ring of a READY partition acts by how far it lies beyond the accepted count (R313, R332). -/
theorem doorbell_rings (tail : W64) (hn : n < 64) (hready : s.funcState p = .ready) (hshape : s.shapeBusy = false)
    (htdi : s.tdiOpen (p + 1) = true) (hon : s.sqOn p n = true) :
    doorbell p n tail.toNat 8 s =
      let d := sdiff tail.toNat (s.accepted p n)
      if d ≤ 0 then s
      else if ((2 ^ s.fld rPtnSqCfg (p + 1) n 4 0 : Nat) : Int) < d then s.stallSq p n 2
      else
        let t := s.upSq p n fun x => { x with target := tail }
        if t.fld rPtnSqStatus (p + 1) n 2 0 = 2 then
          (t.setFld rPtnSqStatus (p + 1) n 2 0 1).setFld rPtnSqStatus (p + 1) n 7 4 0
        else t := by
  have reached : ¬ (8 ≠ 8 ∨ 64 ≤ n ∨ s.shapeBusy ∨ s.funcState p ≠ .ready ∨ s.sqOn p n = false ∨ s.tdiOpen (p + 1) = false) := by
    simp [hn, hready, hshape, htdi, hon]
  rw [doorbell, if_neg reached, BitVec.ofNat_toNat, BitVec.setWidth_eq]

end

/-- Settles O39: an enable by the checks that let it, a disable by the work left in the ring, a doorbell by how far it reaches. -/
theorem ringConfigurationAndDoorbell : Obligations.RingConfigurationAndDoorbell := by
  unfold Obligations.RingConfigurationAndDoorbell
  intro s p n w tail hpower hn hready hshape htdi v f cq base d
  refine ⟨fun hv hoff hmin hmax hcq hbase => ?_, fun hv hwork => ?_, fun hv hon hdescs hjournal => ?_, fun hv hoff hmin hmax => ?_,
    fun hon => ?_⟩
  · exact State.live_next hpower (ptnSqCfgWrite_enables hn hready htdi hshape hv hoff hmin hmax hcq hbase)
  · exact State.live_next hpower (ptnSqCfgWrite_held hn hready htdi hv ((Ptn.ringOpen_iff _).mpr hwork))
  · have idle : (s.pt p).ringOpen n = false := by
      rw [Bool.eq_false_iff, ne_eq, Ptn.ringOpen_iff]
      rintro (⟨e, he, hsq, hdone, hmode⟩ | ⟨e, he, hsq, hwritten, hrewrite⟩)
      · simpa [hdone, hmode] using hdescs e he hsq
      · simpa [hwritten, hrewrite] using hjournal e he hsq
    exact State.live_next hpower (ptnSqCfgWrite_disables hn hready htdi hv hon idle)
  · exact State.live_next hpower (ptnCqCfgWrite_enables hn hready htdi hshape hv hoff hmin hmax)
  · have rings : exec (.doorbell p n tail 8) s = .next (doorbell p n tail.toNat 8 s) := State.live_on s _ hpower
    rw [rings, doorbell_rings tail hn hready hshape htdi hon]
    refine ⟨fun hpast => congrArg _ (if_pos hpast), fun hbeyond => ?_, fun hahead hwithin => ?_⟩
    · have ahead : ¬ d ≤ 0 := Int.not_le.mpr ((Int.natCast_nonneg _).trans_lt hbeyond)
      exact congrArg _ ((if_neg ahead).trans (if_pos hbeyond))
    · exact congrArg _ ((if_neg (Int.not_le.mpr hahead)).trans (if_neg (Int.not_lt.mpr hwithin)))

end Sys2Proof.Machine
end

section
/-! PROOF. The event queues and the local interfaces: when a record is written, when the message goes out, and what a claim takes (O41). -/

namespace Sys2Proof.Machine

section
variable {s : State} {fn q : Nat}

/-! ### A queue and its registers -/

@[simp] theorem State.evQ_upEvQ_self (s : State) (fn q : Nat) (f : EvQ → EvQ) : (s.upEvQ fn q f).evQ fn q = f (s.evQ fn q) :=
  Tbl.get_put_self ..

/-- A function acts towards the host when it is PF0 or its partition is present (R309). -/
theorem State.hasHost_iff : s.hasHost fn = true ↔ fn = 0 ∨ s.present (fn - 1) = true := by
  simp [State.hasHost]

/-- The room of a queue whose written count is `w` and whose head word is `h` (R365). -/
theorem State.evRoom_upEvQ {f : EvQ → EvQ} {w h : Nat} (hw : (f (s.evQ fn q)).written = w) (hh : (f (s.evQ fn q)).head = h) :
    (s.upEvQ fn q f).evRoom fn q = decide ((w + 2 ^ 64 - h) % 2 ^ 64 < 2 ^ bits (s.evCfg fn q) 36 32) := by
  rw [State.evRoom, State.evQ_upEvQ_self, hw, hh]
  rfl

/-- The address of slot 0 of queue `q` (R362). -/
def State.evBase (s : State) (fn q : Nat) : Nat := if fn = 0 then s.rd rEvtPf0QBase 0 (q - 1) else s.rd rEvtQBase fn q

/-! ### Records (R364 to R367) -/

/-- Record `r`, the oldest of queue `q`, is written into its next slot; the timer starts with the first record after a message (R365, R367). -/
def State.evWrites (s : State) (fn q h : Nat) (r : EvRec) (rest : List EvRec) : State :=
  let x := s.evQ fn q
  let log2 := bits (s.evCfg fn q) 36 32
  let t := s.emit (.hostWrite fn (s.evBase fn q + 32 * (x.written % 2 ^ log2)) (r.bytes x.written log2 x.lostNext))
  t.upEvQ fn q fun y =>
    { y with waiting := rest, written := (y.written + 1) % 2 ^ 64, head := h, u := x.u + 1, lostNext := false,
             due := if x.u + 1 = 1 then some ((t.mgmt.beat + y.time) % 2 ^ 64) else y.due }

/-- Queue `q` takes the host's head word `h`. -/
def State.evHeadTaken (s : State) (fn q h : Nat) : State := s.upEvQ fn q fun y => { y with head := h }

section
variable {head : Option W64} {h : Nat} (hon : s.evOn fn q = true) (hmaster : s.busMaster fn = true)
  (hhost : fn = 0 ∨ s.present (fn - 1) = true) (hhead : (head.map (·.toNat)).getD (s.evQ fn q).head = h)
include hon hmaster hhost hhead

/-- The oldest waiting record is written where the queue has room; the queue is FULL once no slot is free, and the message goes out after COUNT
records. -/
theorem eventRecordWrite_waiting {r : EvRec} {rest : List EvRec} (hwaiting : (s.evQ fn q).waiting = r :: rest) :
    eventRecordWrite fn q head s =
      let x := s.evQ fn q
      let log2 := bits (s.evCfg fn q) 36 32
      if (x.written + 2 ^ 64 - h) % 2 ^ 64 < 2 ^ log2 then
        let t := (s.evWrites fn q h r rest).setEvStatus fn q 1 0
          (if ((x.written + 1) % 2 ^ 64 + 2 ^ 64 - h) % 2 ^ 64 < 2 ^ log2 then 1 else 2)
        if x.count ≤ x.u + 1 then t.evSignal fn q else t
      else (s.evHeadTaken fn q h).setEvStatus fn q 1 0 2 := by
  have room : (s.evWrites fn q h r rest).evRoom fn q =
      decide ((((s.evQ fn q).written + 1) % 2 ^ 64 + 2 ^ 64 - h) % 2 ^ 64 < 2 ^ bits (s.evCfg fn q) 36 32) :=
    State.evRoom_upEvQ rfl rfl
  simp only [eventRecordWrite, hon, hmaster, State.hasHost_iff.mpr hhost, hwaiting, hhead, Bool.and_self]
  simp only [State.evWrites, State.evBase] at room ⊢
  simp only [room, decide_eq_true_eq]
  rfl

/-- A FULL queue without a waiting record is RUNNING again when its head has moved. -/
theorem eventRecordWrite_full (hwaiting : (s.evQ fn q).waiting = []) (hfull : s.evStatus fn q 1 0 = 2) :
    eventRecordWrite fn q head s = (s.evHeadTaken fn q h).setEvStatus fn q 1 0
      (if ((s.evQ fn q).written + 2 ^ 64 - h) % 2 ^ 64 < 2 ^ bits (s.evCfg fn q) 36 32 then 1 else 2) := by
  have room : (s.evHeadTaken fn q h).evRoom fn q =
      decide (((s.evQ fn q).written + 2 ^ 64 - h) % 2 ^ 64 < 2 ^ bits (s.evCfg fn q) 36 32) := State.evRoom_upEvQ rfl rfl
  simp only [eventRecordWrite, hon, hmaster, State.hasHost_iff.mpr hhost, hwaiting, hhead, hfull, Bool.and_self, if_true]
  rw [State.evHeadTaken] at room ⊢
  simp only [room, decide_eq_true_eq]

end

/-- A timer whose beat has ended sends the message (R367). -/
theorem exec_coalescingTimer_fires {b : Nat} (hpower : s.mgmt.powerGood = true) (hdue : (s.evQ fn q).due = some b)
    (hpast : s.past b = true) (hhost : fn = 0 ∨ s.present (fn - 1) = true) :
    exec (.coalescingTimer fn q) s = .next (s.evSignal fn q) := by
  have fires : execCoalescingTimer fn q s = .next (s.evSignal fn q) :=
    State.live_next hpower (by simp only [hdue, hpast, State.hasHost_iff.mpr hhost, and_self, if_true])
  exact fires

/-! ### The enable of a queue (R362) -/

/-- A queue that exists and is reachable is enabled empty, with COUNT and TIME in force. -/
theorem evtQCfgWrite_enables {v : Nat} (hq : evqExists fn q = true) (hfn : fn ≤ 4) (hready : fn ≠ 0 → s.funcState (fn - 1) = .ready)
    (htdi : s.tdiOpen fn = true) (hoff : s.evOn fn q = false) (hv : bits v 63 63 = 1) (hmin : 6 ≤ bits v 36 32)
    (hmax : bits v 36 32 ≤ 16) (hcount : bits v 23 16 ≠ 0) :
    evtQCfgWrite fn q v s =
      (((s.setEvCfg fn q (bits v 23 0 + bits v 36 32 * 2 ^ 32 + 2 ^ 63)).upEvQ fn q fun y => { y with
        written := 0, head := 0, u := 0, due := none, waiting := [], count := bits v 23 16, time := bits v 15 0 }).setEvStatus
          fn q 31 16 Code.done).setEvStatus fn q 1 0 1 := by
  have present : ¬ (fn ≠ 0 ∧ s.funcState (fn - 1) = .absent) := fun ⟨h0, h⟩ => by simp [hready h0] at h
  have unreset : ¬ (fn ≠ 0 ∧ s.funcState (fn - 1) = .resetting) := fun ⟨h0, h⟩ => by simp [hready h0] at h
  have reachable : ¬ (evqExists fn q = false ∨ 4 < fn ∨ (fn ≠ 0 ∧ s.funcState (fn - 1) = .absent) ∨ s.tdiOpen fn = false) := by
    simp only [hq, Nat.not_lt.mpr hfn, present, htdi, Bool.true_eq_false, or_self, not_false_eq_true]
  rw [evtQCfgWrite, if_neg reachable]
  simp only [hv, hoff, Nat.not_lt.mpr hmin, Nat.not_lt.mpr hmax, hcount, unreset, or_self, and_false, if_true, if_false,
    Bool.false_eq_true]

/-- A write of the configuration register drops a half that waits (R11). -/
def State.evUnstage (s : State) (fn q : Nat) : State := if fn = 0 then s.unstage rEvtPf0QCfg 0 (q - 1) else s.unstage rEvtQCfg fn q

theorem State.funcState_evUnstage (p : Nat) : (s.evUnstage fn q).funcState p = s.funcState p := by
  unfold State.evUnstage
  split <;> rfl

theorem State.tdiOpen_evUnstage : (s.evUnstage fn q).tdiOpen fn = s.tdiOpen fn := by
  unfold State.evUnstage
  split <;> rfl

theorem State.evOn_evUnstage : (s.evUnstage fn q).evOn fn q = s.evOn fn q := by
  unfold State.evUnstage
  split <;> rfl

/-! ### The local interfaces (R368 to R370) -/

/-- A claim with nothing pending reads 4,095 (R369). -/
theorem evtLclClaim_idle (hq : q < 10) (hpend : (s.lclOf q).pend = []) :
    evtLclClaim q s = (s.wr rEvtLclClaim (16 + q) 0 4095).emit (.readData (16 + q) 8 4 4095) := by
  have idle : s.mostUrgent q (s.lclOf q).pend = 4095 := by rw [hpend, State.mostUrgent]
  rw [evtLclClaim, if_neg (Nat.not_le.mpr hq)]
  simp only [idle, if_true, Nat.zero_mul, Nat.zero_add]
  rfl

/-- A claim takes the most urgent pending event, which becomes active (R369). -/
theorem evtLclClaim_takes {e : Nat} (hq : q < 10) (hurgent : s.mostUrgent q (s.lclOf q).pend = e) (he : e ≠ 4095) :
    evtLclClaim q s =
      let l := s.lclOf q
      let t := (s.wr rEvtLclClaim (16 + q) 0 (s.pri q e * 65536 + e)).emit
        (.readData (16 + q) 8 4 (BitVec.ofNat 64 (s.pri q e * 65536 + e)))
      { t with lcl := Tbl.put t.lcl q { pend := l.pend.filter (· ≠ e), raised := l.raised.filter (·.1 ≠ e),
                                        active := e :: l.active.filter (· ≠ e) } } := by
  rw [evtLclClaim, if_neg (Nat.not_le.mpr hq)]
  simp only [hurgent, he, if_false]

theorem levelSource_iff (e : Nat) : levelSource e = true ↔ e = 0x021 ∨ e = 0x040 ∨ e = 0x042 ∨ e = 0x113 := by
  simp [levelSource, or_assoc]

/-- A pending request of a level source is withdrawn once its condition has ended (R370). -/
theorem exec_levelWithdraw_ended {e : Nat} (hpower : s.mgmt.powerGood = true) (hended : s.levelOn e = false)
    (hpend : e ∈ (s.lclOf q).pend) (hlevel : e = 0x021 ∨ e = 0x040 ∨ e = 0x042 ∨ e = 0x113) :
    exec (.levelWithdraw q e) s = .next { s with lcl := Tbl.put s.lcl q { s.lclOf q with
      pend := (s.lclOf q).pend.filter (· ≠ e), raised := (s.lclOf q).raised.filter (·.1 ≠ e) } } :=
  have withdrawn : levelSource e ∧ e ∈ (s.lclOf q).pend := ⟨(levelSource_iff e).mpr hlevel, hpend⟩
  have row : execLevelWithdraw q e s = .next { s with lcl := Tbl.put s.lcl q { s.lclOf q with
      pend := (s.lclOf q).pend.filter (· ≠ e), raised := (s.lclOf q).raised.filter (·.1 ≠ e) } } :=
    State.live_next hpower (by simp only [hended, Bool.false_eq_true, if_false]; exact if_pos withdrawn)
  row

/-- A request whose condition stands is kept (R370). -/
theorem exec_levelWithdraw_stands {e : Nat} (hpower : s.mgmt.powerGood = true) (hstands : s.levelOn e = true) :
    exec (.levelWithdraw q e) s = .next s :=
  have row : execLevelWithdraw q e s = .next s := State.live_next hpower (by simp only [hstands, if_true])
  row

/-- An active event that is completed is idle again (R369). -/
theorem exec_evtLclComplete_active {e : Nat} (hpower : s.mgmt.powerGood = true) (hactive : e ∈ (s.lclOf q).active) :
    exec (.evtLclComplete q e) s = .next (evtLclComplete q e s) :=
  have row : execEvtLclComplete q e s = .next (evtLclComplete q e s) :=
    State.live_next hpower (by simp only [hactive, if_true])
  row

end

/-- Settles O41: a record by the room of its queue, a timer by its beat, an enable by its checks, a claim by what is pending, and a withdrawal
by whether the condition stands. -/
theorem eventRows : Obligations.EventRows := by
  unfold Obligations.EventRows
  intro s fn q e head r rest v hpower x h log2 base signal l n
  have writes : exec (.eventRecordWrite fn q head) s = .next (eventRecordWrite fn q head s) := State.live_on s _ hpower
  have claims : exec (.evtLclClaim q) s = .next (evtLclClaim q s) := State.live_on s _ hpower
  refine ⟨fun hon hmaster hhost hwaiting => ?_, fun hon hmaster hhost hwaiting hfull => ?_, fun b hdue hpast hhost => ?_,
    fun hq hfn hready htdi hoff hv hmin hmax hcount => ?_, fun hq hpend => ?_, fun hq hurgent he => ?_, fun hactive => ?_,
    fun hpend hlevel hended => ?_, fun _ hstands => ?_⟩
  · have next := eventRecordWrite_waiting hon hmaster hhost (rfl : _ = h) hwaiting
    rw [writes, next]
    exact ⟨fun hfull => congrArg _ (if_neg (Nat.not_lt.mpr hfull)), fun hroom => congrArg _ (if_pos hroom)⟩
  · rw [writes, eventRecordWrite_full hon hmaster hhost (rfl : _ = h) hwaiting hfull]
    rfl
  · exact exec_coalescingTimer_fires hpower hdue hpast hhost
  · have enables := evtQCfgWrite_enables (s := s.evUnstage fn q) hq hfn (by rwa [State.funcState_evUnstage])
      (by rwa [State.tdiOpen_evUnstage]) (by rwa [State.evOn_evUnstage]) hv hmin hmax hcount
    have row : execEvtQCfgWrite fn q v s = .next (evtQCfgWrite fn q n (s.evUnstage fn q)) := State.live_on s _ hpower
    exact row.trans (congrArg _ enables)
  · rw [claims, evtLclClaim_idle hq hpend]
  · rw [claims, evtLclClaim_takes hq hurgent he]
  · exact exec_evtLclComplete_active hpower hactive
  · exact exec_levelWithdraw_ended hpower hended hpend hlevel
  · exact exec_levelWithdraw_stands hpower hstands

end Sys2Proof.Machine
end

section
/-! PROOF. Telemetry records, stand-by, and the training of the PCIe link (O59). -/

namespace Sys2Proof.Machine

section
variable {s : State}

/-! ### Telemetry (R567) -/

/-- The record that is due leaves its place, and the head word is taken as `h`. -/
def State.telTaken (s : State) (h : Nat) : State := { s with tel := { s.tel with due := none, head := h } }

/-- The record `bs` of epoch `e` is written into the next slot, and reported (R567). -/
def State.telWrites (s : State) (e : Nat) (bs : Bytes) : State :=
  let w := s.tel.written
  let l := s.fld rMgtTelCfg 0 0 4 0
  let status := (w / 2 ^ l + 1) % 2 * 2 ^ 63 + if s.tel.lostNext then 2 ^ 62 else 0
  let t := s.emit (.hostWrite 0 (s.rd rMgtTelBase 0 0 + 128 * (w % 2 ^ l)) (bs ++ leBytes 8 status))
  ({ t with tel := { t.tel with written := (w + 1) % 2 ^ 64, lostNext := false } }).raiseM 0x070 e ((w + 1) % 2 ^ 64)

/-- A record is counted as lost, and the next one will say so (R567). -/
def State.telLoses (s : State) : State :=
  { s.setFld rMgtTelCfg 0 0 15 8 (satAdd 255 (s.fld rMgtTelCfg 0 0 15 8) 1) with tel := { s.tel with lostNext := true } }

/-- A record that is due is written where the enabled ring has room for it, and is lost otherwise. -/
theorem telemetryRecord_due {e h : Nat} {bs : Bytes} {head : Option W64} (hdue : s.tel.due = some (e, bs))
    (hon : s.fld rMgtTelCfg 0 0 31 31 = 1) (hmaster : s.busMaster 0 = true) (hhead : (head.map (·.toNat)).getD s.tel.head = h) :
    telemetryRecord head s =
      if (s.tel.written + 2 ^ 64 - h) % 2 ^ 64 < 2 ^ s.fld rMgtTelCfg 0 0 4 0 then (s.telTaken h).telWrites e bs
      else (s.telTaken h).telLoses := by
  subst hhead
  have open_ : ¬ (s.fld rMgtTelCfg 0 0 31 31 = 0 ∨ s.busMaster 0 = false) := by simp [hon, hmaster]
  simp only [telemetryRecord, hdue]
  exact if_neg open_

/-! ### Stand-by (R533, R544) -/

/-- The module leaves stand-by. -/
theorem State.leaveL4_leaves {cool : Bool} (hstandby : s.mgmt.standby = true) (hcool : s.mgmt.tripped = false ∨ cool = true) :
    s.leaveL4 cool = { s with mgmt := { s.mgmt with standby := false, tripped := false } } :=
  if_pos ⟨hstandby, hcool⟩

/-- After a thermal trip it stays there while a sensor is hot. -/
theorem State.leaveL4_hot (htripped : s.mgmt.tripped = true) : s.leaveL4 false = s :=
  if_neg fun h => by simp [htripped] at h

/-- A module that is not in stand-by has none to leave. -/
theorem State.leaveL4_running (cool : Bool) (hstandby : s.mgmt.standby = false) : s.leaveL4 cool = s :=
  if_neg fun h => by simp [hstandby] at h

/-! ### The training of the link (R306, R307, R573) -/

theorem ratedPoint_iff (speed width : Nat) :
    ratedPoint speed width = true ↔ (speed = 4 ∨ speed = 5 ∨ speed = 6) ∧ (width = 8 ∨ width = 16) := by
  simp [ratedPoint, or_assoc]

/-- A training is recorded: its operating point, and a retraining is counted (R307). -/
def State.linkTrained (s : State) (speed width : Nat) (flit : Bool) : State :=
  let n := s.fld rMgtPcieLink 0 0 31 24
  s.wr rMgtPcieLink 0 0 ((if s.fld rMgtPcieLink 0 0 12 8 = 0 then n else satAdd 255 n 1) * 2 ^ 24 +
    (if flit then 65536 else 0) + width * 256 + speed * 2 + 1)

/-- The link trains once PERST# is released and phase 2 of bring-up is over; a point outside the table is reported (R306, R307). -/
theorem pcieLinkTrained_trains {speed width : Nat} (flit : Bool) (hperst : s.mgmt.perst = false) (hphase : s.phaseOver 2 = true)
    (hmin : 1 ≤ speed) (hmax : speed ≤ 6) (hwidth : width ∈ ([1, 2, 4, 8, 16] : List Nat)) :
    pcieLinkTrained speed width flit s =
      let t := s.linkTrained speed width flit
      if (speed = 4 ∨ speed = 5 ∨ speed = 6) ∧ (width = 8 ∨ width = 16) then t else t.raiseM 0x004 (t.rd rMgtPcieLink 0 0) 0 := by
  have trains : ¬ (s.mgmt.perst ∨ s.phaseOver 2 = false ∨ speed = 0 ∨ 6 < speed ∨ [1, 2, 4, 8, 16].contains width = false) := by
    have hspeed : speed ≠ 0 := by omega
    simp only [hperst, hphase, hspeed, Nat.not_lt.mpr hmax, List.contains_iff_mem.mpr hwidth, Bool.false_eq_true, Bool.true_eq_false,
      or_self, not_false_eq_true]
  rw [pcieLinkTrained, if_neg trains]
  simp only [ratedPoint_iff]
  rfl

end

/-- Settles O59: a record by the room in its ring, WAKE and PERST# by what stand-by allows, a training by its operating point; the answers on
the bus are what the commands say. -/
theorem telemetryAndManagementBus : Obligations.TelemetryAndManagementBus := by
  unfold Obligations.TelemetryAndManagementBus
  intro s head e bs addr speed width cool flit
  refine ⟨fun hpower hdue hon hmaster => ?_, ⟨fun hstandby hcool => ⟨?_, ?_⟩, fun hstandby htripped hcool => ?_, fun hstandby => ⟨?_, ?_⟩⟩,
    rfl, rfl, rfl, fun hpower hperst hphase hmin hmax hwidth => ?_⟩
  · have records : exec (.telemetryRecord head) s = .next (telemetryRecord head s) := State.live_on s _ hpower
    rw [records, telemetryRecord_due hdue hon hmaster rfl]
    exact ⟨fun hroom => congrArg _ (if_pos hroom), fun hfull => congrArg _ (if_neg (Nat.not_lt.mpr hfull))⟩
  · exact congrArg _ (State.leaveL4_leaves hstandby hcool)
  · exact congrArg _ (State.leaveL4_leaves (s := { s with mgmt := { s.mgmt with perst := false } }) hstandby hcool)
  · subst hcool
    exact congrArg _ (State.leaveL4_hot htripped)
  · exact congrArg _ (State.leaveL4_running cool hstandby)
  · exact congrArg _ (State.leaveL4_running (s := { s with mgmt := { s.mgmt with perst := false } }) cool hstandby)
  · exact State.live_next hpower (pcieLinkTrained_trains flit hperst hphase hmin hmax hwidth)

end Sys2Proof.Machine
end

section
/-! PROOF. The DOE mailbox takes no object over 16 KiB, and an oversized KEY_EXCHANGE gets no SPDM answer (O32). -/

namespace Sys2Proof.Machine

/-- A KEY_EXCHANGE over 16 KiB is discarded with DOE Error, at every stage of the connection (R318). -/
theorem exec_keyExchange_oversized {s : State} {share : Bytes} (req : Nat) (hpower : s.mgmt.powerGood = true)
    (hsize : 16384 < share.length) : exec (.keyExchange req share) s = .next s.doeError :=
  have discards : execKeyExchange req share s = .next s.doeError := State.live_next hpower (by simp only [hsize, if_true])
  discards

/-- The discarded object leaves DOE Error set. -/
theorem State.error_doeError (s : State) : s.doeError.sec.spdm.error = true := rfl

theorem State.sec_msix (s : State) (fn vec : Nat) : (s.msix fn vec).sec = s.sec := by
  unfold State.msix
  dsimp only
  split
  · split <;> rfl
  · rfl

/-- An answer leaves DOE Error as it is. -/
theorem State.error_answer (s : State) (kind : String) (ws : List Nat) :
    (s.answer kind ws).sec.spdm.error = s.sec.spdm.error := by
  unfold State.answer
  dsimp only
  split
  · rw [State.sec_msix]
    rfl
  · rfl

/-- A module with power-good, whose SPDM connection has not begun. -/
def unconnected : State := { mgmt := { powerGood := true } }

/-- The exchange value of a KEY_EXCHANGE that is one byte too long for the mailbox. -/
def oversizedShare : Bytes := List.replicate 16385 0#8

theorem length_oversizedShare : oversizedShare.length = 16385 := List.length_replicate

/-- Refutes O32: its clause for a request before the algorithms are agreed has every KEY_EXCHANGE get ERROR, also one over 16 KiB, which the
mailbox discards with DOE Error before the responder sees it (R318). -/
theorem not_spdmResponses : ¬ Obligations.SpdmResponses := by
  unfold Obligations.SpdmResponses
  intro h
  obtain ⟨-, -, -, -, -, hearly, -⟩ := h unconnected 0 0 0 0 0 0 0 0 oversizedShare [] 0 rfl
  have discards : exec (.keyExchange 0 oversizedShare) unconnected = .next unconnected.doeError :=
    exec_keyExchange_oversized 0 rfl (by rw [length_oversizedShare]; decide)
  have answers : exec (.keyExchange 0 oversizedShare) unconnected = .next (unconnected.answer "ERROR" [4]) :=
    hearly (by decide) _ (by simp)
  rw [discards, Host.Outcome.next.injEq] at answers
  have error := congrArg (fun t : State => t.sec.spdm.error) answers
  rw [State.error_doeError, State.error_answer] at error
  exact absurd error (by decide)

end Sys2Proof.Machine
end

section
/-! PROOF. Every command answers a next state (O2), and a module without power-good keeps its state (O3). -/

namespace Sys2Proof.Machine

/-- The commands that act on a module without power-good: the supply's own, and those of the management bus, PERST# and WAKE (R528, R533, R574, R576). -/
inductive ActsUnpowered : Instr → Prop
  | powerGood (slot : Nat) : ActsUnpowered (.powerGood slot)
  | powerLoss (aux : Bool) : ActsUnpowered (.powerLoss aux)
  | i3cWake (cool : Bool) : ActsUnpowered (.i3cWake cool)
  | i3cBringup : ActsUnpowered .i3cBringup
  | i3cPowerState : ActsUnpowered .i3cPowerState
  | dynamicAddressAssignment (addr : Nat) : ActsUnpowered (.dynamicAddressAssignment addr)
  | perstDeassert (cool : Bool) : ActsUnpowered (.perstDeassert cool)

/-- Every other command runs only with power-good. -/
theorem exec_live_or_actsUnpowered (c : Instr) (s : State) : (∃ f, exec c s = s.live f) ∨ ActsUnpowered c := by
  cases c with
  | powerGood slot => exact .inr (.powerGood slot)
  | powerLoss aux => exact .inr (.powerLoss aux)
  | i3cWake cool => exact .inr (.i3cWake cool)
  | i3cBringup => exact .inr .i3cBringup
  | i3cPowerState => exact .inr .i3cPowerState
  | dynamicAddressAssignment addr => exact .inr (.dynamicAddressAssignment addr)
  | perstDeassert cool => exact .inr (.perstDeassert cool)
  | _ => exact .inl (by dsimp only [exec]; exact ⟨_, rfl⟩)

/-- Settles O2: a command that needs power-good answers what `State.live` answers, and each of the others a state of its own. -/
theorem everyCommandAnswersNext : Obligations.EveryCommandAnswersNext := by
  unfold Obligations.EveryCommandAnswersNext
  intro c s
  rcases exec_live_or_actsUnpowered c s with ⟨f, hf⟩ | hc
  · exact ⟨_, hf⟩
  · cases hc <;> exact ⟨_, rfl⟩

/-! ### A module without power-good (R528, R529, R533, R574, R576) -/

/-- `t` is `s` but for the standby flag, the thermal-trip flag, the PERST# pin, the bus's dynamic address and answers on the bus. -/
def StandbyChange (s t : State) : Prop :=
  ∃ (sb tr pe : Bool) (da : Nat) (o : List Output),
    t = { s with mgmt := { s.mgmt with standby := sb, tripped := tr, perst := pe, dynAddr := da }, out := o ++ s.out }

theorem StandbyChange.refl (s : State) : StandbyChange s s := ⟨_, _, _, _, [], rfl⟩

/-- Leaving stand-by clears at most the two flags. -/
theorem standbyChange_leaveL4 (s : State) (cool : Bool) : StandbyChange s (s.leaveL4 cool) := by
  unfold State.leaveL4
  split
  · exact ⟨_, _, _, _, [], rfl⟩
  · exact StandbyChange.refl s

/-- PERST# released beforehand is one of the changes. -/
theorem StandbyChange.of_perst {s t : State} {pe : Bool} (h : StandbyChange { s with mgmt := { s.mgmt with perst := pe } } t) :
    StandbyChange s t := by
  obtain ⟨sb, tr, pe', da, o, rfl⟩ := h
  exact ⟨sb, tr, pe', da, o, rfl⟩

/-- Without power-good every command but POWER_GOOD leaves the rest of the module as it is. -/
theorem standbyChange_exec {c : Instr} {s t : State} (hpower : s.mgmt.powerGood = false) (hc : ∀ slot, c ≠ .powerGood slot)
    (hexec : exec c s = .next t) : StandbyChange s t := by
  rcases exec_live_or_actsUnpowered c s with ⟨f, hf⟩ | hacts
  · rw [hf, State.live_off s f hpower, Host.Outcome.next.injEq] at hexec
    exact hexec ▸ StandbyChange.refl s
  · cases hacts with
    | powerGood slot => exact absurd rfl (hc slot)
    | powerLoss aux =>
      have falls : t = { s with mgmt := { s.mgmt with
          standby := aux && s.mgmt.standby, tripped := aux && s.mgmt.tripped, dynAddr := if aux then s.mgmt.dynAddr else 0 } } :=
        (Host.Outcome.next.inj hexec).symm.trans (if_neg (by simp [hpower]))
      exact ⟨_, _, _, _, [], falls⟩
    | i3cWake cool => exact Host.Outcome.next.inj hexec ▸ standbyChange_leaveL4 s cool
    | i3cBringup => exact ⟨_, _, _, _, [_], (Host.Outcome.next.inj hexec).symm⟩
    | i3cPowerState => exact ⟨_, _, _, _, [_], (Host.Outcome.next.inj hexec).symm⟩
    | dynamicAddressAssignment addr => exact ⟨_, _, _, _, [], (Host.Outcome.next.inj hexec).symm⟩
    | perstDeassert cool => exact Host.Outcome.next.inj hexec ▸ (standbyChange_leaveL4 _ cool).of_perst

theorem State.idle_off {s : State} (hpower : s.mgmt.powerGood = false) : s.idle = s := if_neg (by simp [hpower])

/-- Settles O3: an idle step changes nothing, and a command at the front of the queue makes a stand-by change of the rest. -/
theorem poweredDownModuleKeepsItsState : Obligations.PoweredDownModuleKeepsItsState := by
  unfold Obligations.PoweredDownModuleKeepsItsState
  intro s t hpower hfront hstep
  cases hpending : s.pending with
  | nil =>
    have idles : t = s := by
      simpa only [step, hpending, State.idle_off hpower, Host.Outcome.next.injEq, eq_comm] using hstep
    have empty : s = { s with pending := [] } := by rw [← hpending]
    exact ⟨s.mgmt.standby, s.mgmt.tripped, s.mgmt.perst, s.mgmt.dynAddr, [], idles.trans empty⟩
  | cons c rest =>
    have runs : exec c { s with pending := rest } = .next t := by simpa only [step, hpending] using hstep
    have hc : ∀ slot, c ≠ .powerGood slot := fun slot hslot => hfront slot (by rw [hpending, hslot]; rfl)
    obtain ⟨sb, tr, pe, da, o, rfl⟩ := standbyChange_exec (s := { s with pending := rest }) hpower hc runs
    exact ⟨sb, tr, pe, da, o, rfl⟩

end Sys2Proof.Machine
end

section
/-! PROOF. Suspension and resumption: what JOB_SUSPEND and JOB_RESUME find, and what the end of a save and of a restore leaves (O42). -/

namespace Sys2Proof.Machine

/-! ### What an event and a completion leave of the partitions (R338, R359) -/

/-- An event leaves the partitions as they are. -/
@[simp] theorem State.ptn_raiseAt (s : State) (fn e d0 d1 st beat : Nat) : (s.raiseAt fn e d0 d1 st beat).ptn = s.ptn := by
  unfold State.raiseAt
  dsimp only
  have heard := fun fn => (s.sameStore_raiseLocal fn e).1
  have kept := fun fn q r => ((State.sameStore_record (s.raiseLocal fn e) fn q r).1).trans (heard fn)
  split
  · split
    · exact kept 0 _ _
    · exact heard 0
  · split
    · rfl
    · split
      · exact kept fn _ _
      · exact heard fn

/-- Setting the job's state changes nothing else of the partition. -/
theorem State.pt_setJob (s : State) (p : Nat) (j : JobState) : (s.setJob p j).pt p = { s.pt p with job := j } := by
  unfold State.setJob
  dsimp only
  split
  next h => rw [← h]
  next => simp only [State.pt, State.raiseP, State.ptn_raiseAt]; exact State.pt_upPt_self s p _

/-- `t` has the partition `p` of `s` but for its descriptors, its journal, its completion rings and the order of its ready STEPs. -/
def SameButRings (p : Nat) (s t : State) : Prop :=
  ∃ ds js cs r, t.pt p = { s.pt p with descs := ds, journal := js, cqs := cs, readyOrd := r }

theorem SameButRings.refl (p : Nat) (s : State) : SameButRings p s s := ⟨_, _, _, _, rfl⟩

theorem SameButRings.trans {p : Nat} {s t u : State} (h : SameButRings p s t) (k : SameButRings p t u) : SameButRings p s u := by
  obtain ⟨ds, js, cs, r, h⟩ := h
  obtain ⟨ds', js', cs', r', k⟩ := k
  exact ⟨ds', js', cs', r', by rw [k, h]⟩

theorem SameButRings.of_ptn {p : Nat} {s t u : State} (h : SameButRings p s t) (k : u.ptn = t.ptn) : SameButRings p s u := by
  obtain ⟨ds, js, cs, r, h⟩ := h
  exact ⟨ds, js, cs, r, by rw [← h, State.pt, State.pt, k]⟩

theorem State.sameButRings_upPt (s : State) (p : Nat) {f : Ptn → Ptn}
    (h : ∃ ds js cs r, f (s.pt p) = { s.pt p with descs := ds, journal := js, cqs := cs, readyOrd := r }) :
    SameButRings p s (s.upPt p f) := by
  rw [SameButRings, State.pt_upPt_self]
  exact h

@[simp] theorem State.ptn_sendRecord (s : State) (r : JRec) (ws : List Nat) : (s.sendRecord r ws).ptn = s.ptn := by
  unfold State.sendRecord State.tellBuddy
  dsimp only
  split
  · split
    · split <;> rfl
    · rfl
  · rfl

theorem State.sameButRings_journalCompl (s : State) (p sq : Nat) (ws : List W64) : SameButRings p s (s.journalCompl p sq ws) := by
  have sent := (SameButRings.refl p s).of_ptn (s.ptn_sendRecord (.completion p) (ws.map (·.toNat)))
  unfold State.journalCompl
  dsimp only
  split
  · exact (sent.trans (State.sameButRings_upPt _ p ⟨_, _, _, _, rfl⟩)).trans (State.sameButRings_upPt _ p ⟨_, _, _, _, rfl⟩)
  · exact sent.trans (State.sameButRings_upPt _ p ⟨_, _, _, _, rfl⟩)

theorem State.sameButRings_complete (s : State) (p : Nat) (d : ADesc) (status cause result detail : Nat) :
    SameButRings p s (s.complete p d status cause result detail) := by
  have marked := s.sameButRings_upPt p (f := fun q => q.upDesc d.sq d.seq fun x => { x with done := true }) ⟨_, _, _, _, rfl⟩
  unfold State.complete
  dsimp only
  split
  · exact marked
  · exact marked.trans (State.sameButRings_journalCompl _ _ _ _)

theorem State.sameButRings_refreshReady (s : State) (p : Nat) : SameButRings p s (s.refreshReady p) := by
  unfold State.refreshReady
  dsimp only
  split
  · exact .refl p s
  · refine List.foldlRecOn _ _ (.refl p s) fun t ht n _ => ht.trans ?_
    split
    · split
      · exact t.sameButRings_upPt p ⟨_, _, _, _, rfl⟩
      · exact .refl p t
    · exact .refl p t

/-- Completing a descriptor concerns the rings alone. -/
theorem State.sameButRings_finish (s : State) (p : Nat) (d : ADesc) (status cause result detail : Nat) :
    SameButRings p s (s.finish p d status cause result detail) :=
  (s.sameButRings_complete p d status cause result detail).trans (State.sameButRings_refreshReady _ p)

/-! ### Suspension and resumption (R352 to R355) -/

section
variable {s : State} {p sq seq b : Nat} {d e : ADesc}

/-- JOB_SUSPEND and JOB_RESUME start whatever the job's state, and act at the boundary after. -/
theorem exec_jobSuspend_starts {n : Nat} (hpower : s.mgmt.powerGood = true) (h : s.starts p n 5 d) :
    exec (.jobSuspend p n) s = .next (s.started p d) :=
  have row : execJobSuspend p n s = .next (s.startRow p n 5 (fun _ => true) fun d s => s.started p d) := State.live_on s _ hpower
  row.trans (congrArg _ (State.startRow_starts s p n 5 d _ _ h rfl))

theorem exec_jobResume_starts {n : Nat} (hpower : s.mgmt.powerGood = true) (h : s.starts p n 6 d) :
    exec (.jobResume p n) s = .next (s.started p d) :=
  have row : execJobResume p n s = .next (s.startRow p n 6 (fun _ => true) fun d s => s.started p d) := State.live_on s _ hpower
  row.trans (congrArg _ (State.startRow_starts s p n 6 d _ _ h rfl))

/-- The saved partition: its state is in the save copy, and no suspension is under way. -/
def State.suspended (s : State) (p b : Nat) : State :=
  (s.upPt p fun q => { q with
    susp := none, saved := some (s.image p (b, (s.pt p).startOrd, (s.pt p).ringProgress (s.accepted p))) }).setJob p .suspended

/-- The save is over two beats after the pause, once nothing is in flight and the engines stand. -/
theorem suspendSaveDone_saved (hsusp : (s.pt p).susp = some (sq, seq, b)) (hbeat : b + 2 ≤ s.mgmt.beat) (hdrained : (s.pt p).drained = true)
    (hengines : (s.pt p).enginesStopped = true) (hfind : (s.pt p).findDesc sq seq = some e) :
    suspendSaveDone p s = (s.suspended p b).finish p e Code.done 0 0 0 := by
  have ready : ¬ (s.mgmt.beat < b + 2 ∨ (s.pt p).drained = false ∨ (s.pt p).enginesStopped = false) := by
    simp [Nat.not_lt.mpr hbeat, hdrained, hengines]
  simp only [Ptn.findDesc] at hfind
  simp only [suspendSaveDone, hsusp, if_neg ready, State.pt_setJob, State.pt_upPt_self, Ptn.findDesc, hfind]
  rfl

theorem suspendSaveDone_waits (hsusp : (s.pt p).susp = some (sq, seq, b)) (hbeat : s.mgmt.beat < b + 2) : suspendSaveDone p s = s := by
  simp only [suspendSaveDone, hsusp]
  exact if_pos (Or.inl hbeat)

/-- A resumption completes; then the save copy is restored and the job runs, unless a rollback waits for it. -/
theorem resumeRestoreDone_restores (hresume : (s.pt p).resume = some (sq, seq, b)) (hbeat : b + 1 < s.mgmt.beat)
    (hfind : (s.pt p).findDesc sq seq = some e) (hroll : (s.pt p).resumeRoll = none) :
    resumeRestoreDone p s =
      let u := s.finish p e 0 0 0 0
      let u := match (s.pt p).saved with
        | some img => u.restoreSaved p img
        | none => u
      let t := (u.upPt p fun q => { q with resume := none, resumeRoll := none, saved := none }).setJob p .running
      (t.unpause p).refreshReady p := by
  obtain ⟨ds, js, cs, r, hpt⟩ := s.sameButRings_finish p e Code.done 0 0 0
  simp only [resumeRestoreDone, hresume, if_neg (Nat.not_le.mpr hbeat), hfind, hpt, hroll]
  cases (s.pt p).saved <;> rfl

end

/-- Settles O42: each command by the job's state that it finds; the job's state alone changes at a save's end, and a completion leaves the
save copy as it is. -/
theorem suspensionAndResumption : Obligations.SuspensionAndResumption := by
  unfold Obligations.SuspensionAndResumption
  intro s p n sq seq b d e hpower
  refine ⟨exec_jobSuspend_starts hpower, exec_jobResume_starts hpower,
    fun hcontrol hrolling hsusp => ?_, fun hsusp hbeat hdrained hengines hfind =>
      State.live_next hpower (suspendSaveDone_saved hsusp hbeat hdrained hengines hfind),
    fun hsusp hbeat => State.live_next hpower (suspendSaveDone_waits hsusp hbeat),
    fun hcontrol hrolling hresume => ?_,
    fun hresume hbeat hfind hroll => State.live_next hpower (resumeRestoreDone_restores hresume hbeat hfind hroll)⟩
  · have free : ¬ ((s.pt p).rolling.isSome ∨ (s.pt p).susp.isSome) := by simp [hrolling, hsusp]
    refine ⟨fun hjob => ?_, fun hjob => ?_, fun hjob => ?_⟩ <;>
      exact State.live_next hpower (by simp only [suspensionEffect, hcontrol, if_neg free, hjob, Code.done, Code.aborted])
  · have free : ¬ ((s.pt p).rolling.isSome ∨ (s.pt p).resume.isSome) := by simp [hrolling, hresume]
    refine ⟨fun hjob => ?_, fun hjob => ?_, fun hjob => ?_⟩ <;>
      exact State.live_next hpower (by simp only [resumptionEffect, hcontrol, if_neg free, hjob, Code.done, Code.aborted])

end Sys2Proof.Machine
end

section
/-! PROOF. JOB_OPEN, JOB_CLOSE and JOB_ABORT: an open by what its checks answer, a close by the job's state, an abort by its beat (O43). -/

namespace Sys2Proof.Machine

section
variable {s : State} {p n : Nat} {d : ADesc}

/-- A JOB_OPEN that starts goes to the open's own work. -/
theorem exec_jobOpen_starts (prog wpkg : Option Bytes) (psig wsig : SigVerdict) (hpower : s.mgmt.powerGood = true) (h : s.starts p n 1 d) :
    exec (.jobOpen p n prog wpkg psig wsig) s = .next (jobOpen p d prog wpkg psig wsig s) :=
  have row : execJobOpen p n prog wpkg psig wsig s =
      .next (s.startRow p n 1 (fun _ => true) fun d s => jobOpen p d prog wpkg psig wsig s) := State.live_on s _ hpower
  row.trans (congrArg _ (State.startRow_starts s p n 1 d _ _ h rfl))

/-- While there is a job an open is refused (R343). -/
theorem jobOpen_refused (prog wpkg : Option Bytes) (psig wsig : SigVerdict) (hjob : (s.pt p).job ≠ .noJob) :
    jobOpen p d prog wpkg psig wsig s = (s.started p d).finish p d Code.resourceHeld 0 0 0 :=
  if_pos hjob

section
variable {prog wpkg : Option Bytes} {psig wsig : SigVerdict} (hjob : (s.pt p).job = .noJob) (hsplit : (s.pt p).splitNew = none)
include hjob hsplit

/-- An open whose package fails a check leaves no job (R344). -/
theorem jobOpen_fails {code cause : Nat}
    (hcheck : ((s.started p d).setJob p .opening).checkOpen p d prog wpkg psig.sigOk wsig.sigOk = .error (code, cause)) :
    jobOpen p d prog wpkg psig wsig s = (((s.started p d).setJob p .opening).setJob p .noJob).finish p d code cause 0 0 := by
  simp only [jobOpen, hjob, ne_eq, not_true_eq_false, hsplit, Option.isSome_none, Bool.false_eq_true, if_false, hcheck]

/-- One whose package keeps every check sets the job up (R345). -/
theorem jobOpen_setsUp {f : OpenFound}
    (hcheck : ((s.started p d).setJob p .opening).checkOpen p d prog wpkg psig.sigOk wsig.sigOk = .ok f) :
    jobOpen p d prog wpkg psig wsig s = ((s.started p d).setJob p .opening).setUpJob p d f := by
  simp only [jobOpen, hjob, ne_eq, not_true_eq_false, hsplit, Option.isSome_none, Bool.false_eq_true, if_false, hcheck]

end

/-- A JOB_CLOSE without ABORT that starts goes by the job's state. -/
theorem exec_jobClose_starts (hpower : s.mgmt.powerGood = true) (h : s.starts p n 7 d) (hfunc : d.func = 0) :
    exec (.jobClose p n) s = .next (jobClose p d s) :=
  have row : execJobClose p n s = .next (s.startRow p n 7 (fun d => d.func == 0) fun d s => jobClose p d s) := State.live_on s _ hpower
  row.trans (congrArg _ (State.startRow_starts s p n 7 d _ _ h (by rw [hfunc]; rfl)))

/-- An abort on a control ring starts whatever precedes it there (R336, R357). -/
theorem jobCloseAbort_starts (hctrl : s.ctrlRing p n = true) (hopen : s.startsOpen p = true) (habort : (s.pt p).abort = none)
    (hfind : ((s.pt p).descs.find? fun x => x.sq == n && !x.done && x.start.isNone && x.opcode == 7 && x.wellFormed true) = some d) :
    jobCloseAbort p n s = (s.started p d).upPt p fun q => { q with abort := some (d.sq, d.seq, s.mgmt.beat) } := by
  simp only [jobCloseAbort, hctrl, hopen, habort, hfind, Bool.true_eq_false, Option.isSome_none, Bool.false_eq_true, or_self, if_false]

/-- An abort takes effect at the boundary after its beat (R357). -/
theorem abortEffect_waits {sq seq b : Nat} (habort : (s.pt p).abort = some (sq, seq, b)) (hb : s.since b = 0) : abortEffect p s = s := by
  simp only [abortEffect, habort]
  exact if_pos hb

end

/-- Settles O43: an open by what its checks answer, a close by the job's state, an abort by its beat. -/
theorem jobOpenCloseAndAbort : Obligations.JobOpenCloseAndAbort := by
  unfold Obligations.JobOpenCloseAndAbort
  intro s p n sq seq b d prog wpkg psig wsig f code cause hpower
  have opens := fun h => exec_jobOpen_starts (p := p) (n := n) (d := d) prog wpkg psig wsig hpower h
  refine ⟨fun h hjob => (opens h).trans (congrArg _ (jobOpen_refused prog wpkg psig wsig hjob)),
    fun h hjob hsplit hcheck => (opens h).trans (congrArg _ (jobOpen_fails hjob hsplit hcheck)),
    fun h hjob hsplit hcheck => (opens h).trans (congrArg _ (jobOpen_setsUp hjob hsplit hcheck)),
    fun h hfunc hjob => (exec_jobClose_starts hpower h hfunc).trans ?_,
    fun h hfunc hjob => (exec_jobClose_starts hpower h hfunc).trans ?_,
    fun hctrl hopen habort hfind => State.live_next hpower (jobCloseAbort_starts hctrl hopen habort hfind),
    fun habort hb => State.live_next hpower (abortEffect_waits habort hb),
    fun habort hb => State.live_next hpower ?_⟩
  · simp only [jobClose, hjob, Code.done]
  · simp only [jobClose, hjob, Code.done]
  · simp only [abortEffect, habort, if_neg hb]
    rfl

end Sys2Proof.Machine
end

section
/-! PROOF. EGRESS and INGRESS: a copy that starts goes by its check, one in progress goes on (O44). -/

namespace Sys2Proof.Machine

section
variable {s : State} {p n op : Nat} {d : ADesc}

/-- A copy that starts in a job at work goes to its row (R350). -/
theorem State.copyRow_starts (f : ADesc → State → State) (h : s.starts p n op d) (hjob : (s.pt p).job = .running) :
    s.copyRow p n op f = f d (s.started p d) := by
  obtain ⟨hhead, hstart, -⟩ := id h
  have fresh : ¬ (d.start.isSome = true ∧ d.opcode = op) := by simp [hstart]
  simp only [State.copyRow, hhead, if_neg fresh, State.startRow_starts s p n op d _ _ h, State.withJob_running s p d _ hjob]

/-- A copy in progress goes on while nothing pauses the partition (R351). -/
theorem State.copyRow_continues (f : ADesc → State → State) (hhead : (s.pt p).ringHead n = some d) (hstart : d.start.isSome = true)
    (hop : d.opcode = op) (hjob : (s.pt p).job = .running) (hpaused : (s.pt p).paused = none) (hopen : s.startsOpen p = true) :
    s.copyRow p n op f = f d s := by
  simp only [State.copyRow, hhead, hstart, hop, and_self, if_true, hjob, hpaused, hopen]

/-- What EGRESS does with a descriptor: it checks one that starts, and copies once the function may write host memory. -/
def egressGo (p : Nat) (d : ADesc) (s : State) : State :=
  let c := if d.start.isSome then Code.done else s.copyCheck p (d.w 2) (bits (d.w 4) 31 0) true
  if c = Code.done then (if s.busMaster (p + 1) then s.copyGo p d (d.w 2) (d.w 3) none (bits (d.w 4) 31 0) else s)
  else s.finish p d c 0 (bits (d.w 4) 31 0) 0

/-- What INGRESS does with a descriptor, where the host's memory gives `src`. -/
def ingressGo (p : Nat) (src : Option Bytes) (d : ADesc) (s : State) : State :=
  let len := bits (d.w 4) 31 0
  let c := if d.start.isSome then Code.done else s.copyCheck p (d.w 3) len false
  if c ≠ Code.done then s.finish p d c 0 len 0
  else match src with
    | none => s.finish p d Code.aborted 5 len 0
    | some bs => if bs.length = len then s.copyGo p d (d.w 3) 0 (some bs) len else s

theorem exec_egress (hpower : s.mgmt.powerGood = true) : exec (.egress p n) s = .next (s.copyRow p n 3 (egressGo p)) :=
  have row : execEgress p n s = .next (s.copyRow p n 3 (egressGo p)) := State.live_on s _ hpower
  row

theorem exec_ingress (src : Option Bytes) (hpower : s.mgmt.powerGood = true) :
    exec (.ingress p n src) s = .next (s.copyRow p n 4 (ingressGo p src)) :=
  have row : execIngress p n src s = .next (s.copyRow p n 4 (ingressGo p src)) := State.live_on s _ hpower
  row

end

section
variable {t : State} {p : Nat} {d : ADesc} {bs : Bytes}

/-! A copy that starts, by its check. -/

theorem egressGo_refused (hstart : d.start = none) (hcheck : t.copyCheck p (d.w 2) (bits (d.w 4) 31 0) true ≠ 0) :
    egressGo p d t = t.finish p d (t.copyCheck p (d.w 2) (bits (d.w 4) 31 0) true) 0 (bits (d.w 4) 31 0) 0 := by
  simp only [egressGo, hstart, Option.isSome_none, Bool.false_eq_true, if_false, Code.done, if_neg hcheck]

theorem egressGo_copies (hcheck : d.start.isSome = true ∨ t.copyCheck p (d.w 2) (bits (d.w 4) 31 0) true = 0)
    (hmaster : t.busMaster (p + 1) = true) :
    egressGo p d t = t.copyGo p d (d.w 2) (d.w 3) none (bits (d.w 4) 31 0) := by
  rcases hcheck with h | h <;>
    simp only [egressGo, h, if_true, Code.done, ite_self, hmaster]

theorem ingressGo_refused (src : Option Bytes) (hstart : d.start = none)
    (hcheck : t.copyCheck p (d.w 3) (bits (d.w 4) 31 0) false ≠ 0) :
    ingressGo p src d t = t.finish p d (t.copyCheck p (d.w 3) (bits (d.w 4) 31 0) false) 0 (bits (d.w 4) 31 0) 0 := by
  simp only [ingressGo, hstart, Option.isSome_none, Bool.false_eq_true, if_false, Code.done, if_pos hcheck]

theorem ingressGo_copies (hcheck : d.start.isSome = true ∨ t.copyCheck p (d.w 3) (bits (d.w 4) 31 0) false = 0)
    (hlen : bs.length = bits (d.w 4) 31 0) :
    ingressGo p (some bs) d t = t.copyGo p d (d.w 3) 0 (some bs) (bits (d.w 4) 31 0) := by
  rcases hcheck with h | h <;>
    simp only [ingressGo, h, if_true, Code.done, ite_self, ne_eq, not_true_eq_false, if_false, hlen]

/-- A host read that fails ends the copy. -/
theorem ingressGo_unread (hcheck : t.copyCheck p (d.w 3) (bits (d.w 4) 31 0) false = 0) :
    ingressGo p none d t = t.finish p d Code.aborted 5 (bits (d.w 4) 31 0) 0 := by
  simp only [ingressGo, hcheck, Code.done, ite_self, ne_eq, not_true_eq_false, if_false]

end

/-- Settles O44: a copy that starts goes by its check, and one in progress goes on without. -/
theorem copiesBetweenHostAndMemory : Obligations.CopiesBetweenHostAndMemory := by
  unfold Obligations.CopiesBetweenHostAndMemory
  intro s p n d bs hpower hjob
  have egress := exec_egress (p := p) (n := n) hpower
  have ingress := fun src => exec_ingress (p := p) (n := n) src hpower
  refine ⟨fun h hcheck => ?_, fun h hcheck hmaster => ?_, fun h hcheck => ?_, fun h hcheck hlen => ?_, fun h hcheck => ?_,
    fun hhead hstart hpaused hopen => ⟨fun hop hmaster => ?_, fun hop hlen => ?_⟩⟩
  · rw [egress, State.copyRow_starts _ h hjob, egressGo_refused h.2.1 hcheck]
  · rw [egress, State.copyRow_starts _ h hjob, egressGo_copies (.inr hcheck) hmaster]
  · rw [ingress, State.copyRow_starts _ h hjob, ingressGo_refused _ h.2.1 hcheck]
  · rw [ingress, State.copyRow_starts _ h hjob, ingressGo_copies (.inr hcheck) hlen]
  · rw [ingress, State.copyRow_starts _ h hjob, ingressGo_unread hcheck, Code.aborted]
  · rw [egress, State.copyRow_continues _ hhead hstart hop hjob hpaused hopen, egressGo_copies (.inl hstart) hmaster]
  · rw [ingress, State.copyRow_continues _ hhead hstart hop hjob hpaused hopen, ingressGo_copies (.inl hstart) hlen]

end Sys2Proof.Machine
end

section
/-! PROOF. ROLLBACK: at the boundary after the one that called for it, by the job's state (O46). -/

namespace Sys2Proof.Machine

section
variable {s : State} {p cause b : Nat}

/-- A rollback waits for the end of the beat that called for it (R444). -/
theorem rollback_waits (hreq : (s.pt p).rollReq = some (cause, b)) (hb : s.since b = 0) : rollback p s = s := by
  simp only [rollback, hreq]
  exact if_pos (Or.inl hb)

/-- One called for while another is in progress restarts it, with its own cause (R446). -/
theorem rollback_due (hreq : (s.pt p).rollReq = some (cause, b)) (hb : s.since b ≠ 0) (hpresent : s.present p = true)
    (hshape : s.shapeBusy = false) :
    rollback p s = s.rollNow p (if (s.pt p).rolling.isSome then 0x0d else cause) s.lastBeat := by
  have due : ¬ (s.since b = 0 ∨ s.present p = false ∨ s.shapeBusy) := by simp [hb, hpresent, hshape]
  simp only [rollback, hreq]
  exact if_neg due

/-- The rollback is counted with its cause, and the function resets from beat `b` (R444, R461). -/
def State.rollCounted (s : State) (p cause b : Nat) : State :=
  (s.countRollback p cause).upPt p fun q =>
    { q with rollReq := none, rolling := some b, func := .resetting, resetKind := if cause = 0x0b then 0 else 3 }

/-- A function without a job resets alone. -/
theorem State.rollNow_noJob (hjob : (s.pt p).job = .noJob) : s.rollNow p cause b = s.rollCounted p cause b := by
  simp only [State.rollNow, hjob, reduceCtorEq, if_false, if_true]
  rfl

/-- A job that opens completes its open so (R450). -/
theorem State.rollNow_opening (hjob : (s.pt p).job = .opening) :
    s.rollNow p cause b = ((s.rollCounted p cause b).pause p b).undoOpen p Code.aborted 6 := by
  simp only [State.rollNow, hjob, reduceCtorEq, if_false, if_true]
  rfl

/-- A job at work returns to the target of the rollback (R450). -/
theorem State.rollNow_running {img : CutImg} (hjob : (s.pt p).job = .running)
    (htarget : ((s.rollCounted p cause b).pause p b).rollTarget p = some img) :
    s.rollNow p cause b = ((((s.rollCounted p cause b).pause p b).restoreImage p img).upPt p fun q =>
      { q with resume := none, saved := none }).setJob p .running := by
  rw [State.rollCounted] at *
  simp only [State.rollNow, hjob, reduceCtorEq, if_false, htarget]

/-- Without a target it ends. -/
theorem State.rollNow_lost (hjob : (s.pt p).job = .running)
    (htarget : ((s.rollCounted p cause b).pause p b).rollTarget p = none) :
    s.rollNow p cause b = ((s.rollCounted p cause b).pause p b).endJob p 6 := by
  rw [State.rollCounted] at *
  simp only [State.rollNow, hjob, reduceCtorEq, if_false, htarget]

end

/-- Settles O46: a rollback that is due goes by the job's state and, for a job at work, by its target. -/
theorem rollbackTakesEffect : Obligations.RollbackTakesEffect := by
  unfold Obligations.RollbackTakesEffect
  intro s p cause b img hpower hpresent hshape hreq
  have due := fun hb => rollback_due hreq hb hpresent hshape
  exact ⟨fun hb => State.live_next hpower (rollback_waits hreq hb),
    fun hb hjob => State.live_next hpower ((due hb).trans (State.rollNow_noJob hjob)),
    fun hb hjob => State.live_next hpower ((due hb).trans (State.rollNow_opening hjob)),
    fun hb hjob htarget => State.live_next hpower ((due hb).trans (State.rollNow_lost hjob htarget)),
    fun hb hjob htarget => State.live_next hpower ((due hb).trans (State.rollNow_running hjob htarget))⟩

end Sys2Proof.Machine
end

section
/-! PROOF. Page restores and lost images by the page's state; failed dies, regulator phases and a buddy by what depends on them (O45). -/

namespace Sys2Proof.Machine

section
variable {s : State} {p n : Nat}

/-! ### Page restores (R439 to R441) -/

section
variable (hdrop : (s.page p n).drop = true) (hacted : (s.page p n).acted = false) (hbeat : (s.page p n).dropAt < s.mgmt.beat)
include hdrop hacted hbeat

/-- A frame that has read uncorrectable is acted on at the boundary after. -/
theorem pageRestore_acts : ¬ ((s.page p n).drop = false ∨ (s.page p n).acted = true ∨ s.mgmt.beat ≤ (s.page p n).dropAt) := by
  simp [hdrop, hacted, Nat.not_le.mpr hbeat]

/-- A clean page with an image waits for its pins. -/
theorem pageRestore_clean (hstate : (s.page p n).state = 3) : pageRestore p n s = s.upPage p n fun g => { g with acted := true } := by
  simp only [pageRestore, if_neg (pageRestore_acts hdrop hacted hbeat), hstate, if_true]

/-- A clean page without an image takes a new frame. -/
theorem pageRestore_imageless {i : Nat} (hstate : (s.page p n).state = 4) (hplace : s.place p n = some i) :
    pageRestore p n s = (s.takeFrame p n i fun g => { g with bad := [], drop := false, acted := false }).countRestore p := by
  simp only [pageRestore, if_neg (pageRestore_acts hdrop hacted hbeat), hstate, hplace, Nat.reduceEqDiff, if_false,
    if_true]

/-- A dirty page rolls the partition back. -/
theorem pageRestore_dirty (hstate : (s.page p n).state = 1 ∨ (s.page p n).state = 5) :
    pageRestore p n s = (s.upPage p n fun g => { g with acted := true }).wantRollback p 1 := by
  have held : (s.page p n).state ≠ 3 ∧ (s.page p n).state ≠ 4 := by omega
  simp only [pageRestore, if_neg (pageRestore_acts hdrop hacted hbeat), if_neg held.1, if_neg held.2, if_pos hstate]

end

/-- The frame goes once nothing pins the page. -/
theorem frameDrop_unpinned (hacted : (s.page p n).acted = true) (hstate : (s.page p n).state = 3) (hpins : (s.page p n).pins = 0)
    (hopins : (s.page p n).opins = 0) : frameDrop p n s = (s.upPage p n fun g => g.unframe 2).countRestore p :=
  if_pos ⟨hacted, hstate, by rw [hpins, hopins]⟩

theorem frameDrop_pinned (hpins : (s.page p n).pins ≠ 0) : frameDrop p n s = s :=
  if_neg fun h => hpins (Nat.eq_zero_of_add_eq_zero_right h.2.2)

/-! ### Lost images (R442) -/

/-- A page in HBM writes its image again. -/
theorem storeImageLost_rewrites (hlost : (s.page p n).lost = true) (hstate : (s.page p n).state = 3) (hdrop : (s.page p n).drop = false) :
    storeImageLost p n s = (s.upPage p n fun g => { g with lost := false }).upPage p n fun g =>
      { g with state := 1, dirty := true, touched := true } := by
  have rewrites : (s.page p n).state = 3 ∧ (s.page p n).drop = false := ⟨hstate, hdrop⟩
  simp only [storeImageLost, hlost, Bool.true_eq_false, if_false, if_pos rewrites]

section
variable {c : CutImg} (hlost : (s.page p n).lost = true) (hstate : (s.page p n).state ≠ 3)
  (hmirroring : (s.upPage p n fun g => { g with lost := false }).mirroring p = false) (hdurable : (s.pt p).durable = some c)
include hlost hstate hmirroring hdurable

/-- Without a buddy, the image of a page that the durable cut holds costs the cut, where the page has changed since and is in HBM. -/
theorem storeImageLost_costsCut (htouched : (s.page p n).touched = true) (hframed : (s.page p n).framed = true)
    (hkept : (c.data.page n).state ≠ 0) :
    storeImageLost p n s = (s.upPage p n fun g => { g with lost := false }).upPt p fun q => { q with targetLost := true, cutEarly := true } := by
  have costs : (s.page p n).touched = true ∧ (s.page p n).framed = true ∧ (c.data.page n).state ≠ 0 := ⟨htouched, hframed, hkept⟩
  simp only [storeImageLost, hlost, hstate, hmirroring, hdurable, Bool.true_eq_false, false_and, Bool.false_eq_true, if_false,
    if_pos costs]

/-- One that is nowhere else ends the job. -/
theorem storeImageLost_endsJob (hgone : (s.page p n).touched = false ∨ (s.page p n).framed = false) :
    storeImageLost p n s = (s.upPage p n fun g => { g with lost := false }).wantEnd p 6 := by
  have gone : ¬ ((s.page p n).touched = true ∧ (s.page p n).framed = true ∧ (c.data.page n).state ≠ 0) := by
    rcases hgone with h | h <;> simp [h]
  simp only [storeImageLost, hlost, hstate, hmirroring, hdurable, Bool.true_eq_false, false_and, Bool.false_eq_true, if_false,
    if_neg gone]

end

end

/-! ### Dies, regulator phases and the buddy (R434, R453, R456) -/

section
variable {s : State} {die ph p : Nat}

/-- The die is among the dead ones. -/
def State.dieDead (s : State) (die : Nat) : State := { s with mgmt := { s.mgmt with deadDies := die :: s.mgmt.deadDies } }

/-- A die that fails first pauses its partition where a job is in it, and ends the job unless a buddy has its images. -/
theorem dieFailed_fails (hdie : die < 4) (hlives : s.mgmt.deadDies.contains die = false) :
    dieFailed die s =
      if (s.pt (die / s.k)).job = .noJob then s.dieDead die
      else if s.mirroring (die / s.k) then (s.dieDead die).pause (die / s.k) s.mgmt.beat
      else ((s.dieDead die).pause (die / s.k) s.mgmt.beat).wantEnd (die / s.k) 6 := by
  have lives : ¬ (4 ≤ die ∨ s.mgmt.deadDies.contains die = true) := by simp only [hlives, Nat.not_le.mpr hdie, Bool.false_eq_true, or_self,
    not_false_eq_true]
  exact if_neg lives

/-- A phase that fails goes offline, and the 25th of a die fails the die. -/
theorem regulatorPhaseFailed_fails (hdie : die < 4) (hph : ph < 64) (hon : s.mgmt.phases.contains (die * 64 + ph) = false) :
    regulatorPhaseFailed die ph s =
      let off := { s with mgmt := { s.mgmt with phases := (die * 64 + ph) :: s.mgmt.phases } }
      if 25 ≤ off.failedPhases die then dieFailed die off else off := by
  have on : ¬ (4 ≤ die ∨ 64 ≤ ph ∨ s.mgmt.phases.contains (die * 64 + ph) = true) := by
    simp only [hon, Nat.not_le.mpr hdie, Nat.not_le.mpr hph, Bool.false_eq_true, or_self, not_false_eq_true]
  exact if_neg on

/-- A buddy that refuses, or has been without a route for 256 beats, is lost. -/
theorem buddyLost_lost {refused : Bool} (hp : p < 4) (hmirroring : s.mirroring p = true) (h : refused = true ∨ 256 ≤ (s.pt p).buddyGone) :
    buddyLost p refused s = { s with store := { s.store with
      mirrorWait := s.store.mirrorWait.filter fun r => r.mirrored != some p } }.setFld rMemBuddyPtn 0 p 2 1 2 :=
  if_pos ⟨hp, hmirroring, h⟩

theorem buddyLost_waits {refused : Bool} (hrefused : refused = false) (hgone : (s.pt p).buddyGone < 256) : buddyLost p refused s = s :=
  if_neg fun h => by simp [hrefused, Nat.not_le.mpr hgone] at h

end

/-- Settles O45: each command by the state of its page, of its die's job and of its buddy. -/
theorem faultsOfPagesDiesAndPhases : Obligations.FaultsOfPagesDiesAndPhases := by
  unfold Obligations.FaultsOfPagesDiesAndPhases
  refine ⟨fun s p n i hpower => ⟨fun hdrop hacted hbeat => ⟨fun hstate => ?_, fun hstate hplace => ?_, fun hstate => ?_⟩,
      fun hacted hstate hpins hopins => ?_, fun hpins => ?_, fun hlost hstate hdrop => ?_,
      fun hlost hstate hmirroring c hdurable => ⟨fun htouched hframed hkept => ?_, fun hgone => ?_⟩⟩,
    fun s die ph p refused hpower hdie => ⟨fun hlives => ?_, fun hph hon => ?_, fun hp hmirroring => ⟨fun h => ?_, fun hrefused hgone => ?_⟩⟩⟩
  · exact State.live_next hpower (pageRestore_clean hdrop hacted hbeat hstate)
  · exact State.live_next hpower (pageRestore_imageless hdrop hacted hbeat hstate hplace)
  · exact State.live_next hpower (pageRestore_dirty hdrop hacted hbeat hstate)
  · exact State.live_next hpower (frameDrop_unpinned hacted hstate hpins hopins)
  · exact State.live_next hpower (frameDrop_pinned hpins)
  · exact State.live_next hpower (storeImageLost_rewrites hlost hstate hdrop)
  · exact State.live_next hpower (storeImageLost_costsCut hlost hstate hmirroring hdurable htouched hframed hkept)
  · exact State.live_next hpower (storeImageLost_endsJob hlost hstate hmirroring hdurable hgone)
  · have fails := dieFailed_fails hdie hlives
    exact ⟨fun hjob => State.live_next hpower (fails.trans (if_pos hjob)),
      fun hjob hmirroring => State.live_next hpower (fails.trans ((if_neg hjob).trans (if_pos hmirroring))),
      fun hjob hmirroring => State.live_next hpower (fails.trans ((if_neg hjob).trans (if_neg (by simp [hmirroring]))))⟩
  · have fails := regulatorPhaseFailed_fails hdie hph hon
    refine ⟨fun hfew => State.live_next hpower (fails.trans (if_neg (Nat.not_le.mpr hfew))), fun hmany => ?_⟩
    have dies : execDieFailed die { s with mgmt := { s.mgmt with phases := (die * 64 + ph) :: s.mgmt.phases } } = .next _ :=
      State.live_on _ _ hpower
    exact (State.live_next hpower (fails.trans (if_pos hmany))).trans dies.symm
  · exact State.live_next hpower (buddyLost_lost hp hmirroring h)
  · exact State.live_next hpower (buddyLost_waits hrefused hgone)

end Sys2Proof.Machine
end

section
/-! PROOF. MEM_RESTORE: a GO by what it names and finds, and by the copy at the buddy (O47). -/

namespace Sys2Proof.Machine

section
variable {s : State} {p v : Nat} {held : Option BuddyCopy} {prog wpkg : Option Bytes} {psig wsig : SigVerdict}
variable (hpresent : s.present p = true) (hgo : bits v 0 0 = 1)
include hpresent hgo

/-- A GO that names no other module of the hive is refused (R454). -/
theorem restoreGo_notMember (hmember : s.otherMember (bits v 47 36) = false) :
    restoreGo p v held prog wpkg psig wsig s = s.setFld rMemRestorePtn 0 p 63 48 Code.invalidOperand := by
  simp only [restoreGo, hpresent, hgo, hmember, Bool.true_eq_false, one_ne_zero, if_false, if_true]

/-- So is one that finds a job or an enabled ring. -/
theorem restoreGo_occupied (hmember : s.otherMember (bits v 47 36) = true) (hvacant : s.vacant p = false) :
    restoreGo p v held prog wpkg psig wsig s = s.setFld rMemRestorePtn 0 p 63 48 Code.resourceHeld := by
  simp only [restoreGo, hpresent, hgo, hmember, hvacant, Bool.true_eq_false, one_ne_zero, if_false, if_true]

section
variable (hmember : s.otherMember (bits v 47 36) = true) (hvacant : s.vacant p = true) (hlog : s.canLog = true)
include hmember hvacant hlog

/-- Without a copy at the buddy an accepted GO ends ABORTED (R455). -/
theorem restoreGo_noCopy :
    restoreGo p v none prog wpkg psig wsig s =
      ((((s.logChange (0x501100 + 8 * p) 0 (s.rd rMemRestorePtn 0 p) (bits v 47 32 * 2 ^ 32 + 1)).setFld rMemRestorePtn 0 p 47 32
        (bits v 47 32)).setFld rMemRestorePtn 0 p 63 48 Code.aborted).setFld rMemRestorePtn 0 p 2 1 3).noteSetting (0x501100 + 8 * p) := by
  simp only [restoreGo, hpresent, hgo, hmember, hvacant, State.logged, hlog, Bool.true_eq_false, one_ne_zero, if_false, if_true]

/-- A copy whose packages keep the checks of an open is taken over, if its store key leaves escrow (R455, R510). -/
theorem restoreGo_copy {h : BuddyCopy} {d : ADesc} {f : OpenFound} {t : State}
    (ht : t = (s.logChange (0x501100 + 8 * p) 0 (s.rd rMemRestorePtn 0 p) (bits v 47 32 * 2 ^ 32 + 1)).setFld rMemRestorePtn 0 p 47 32
      (bits v 47 32))
    (hfind : (h.descs.find? fun d => d.opcode == 1) = some d)
    (hcheck : t.checkOpen p d prog wpkg psig.sigOk wsig.sigOk = .ok f) :
    restoreGo p v (some h) prog wpkg psig wsig s =
      let res := fun (c st : Nat) (u : State) =>
        ((u.setFld rMemRestorePtn 0 p 63 48 c).setFld rMemRestorePtn 0 p 2 1 st).noteSetting (0x501100 + 8 * p)
      let u := (t.takeOver p d f h).raiseP p 0x103 2 0
      if Config.unwrapEscrow (escrowKey (Tbl.get {} t.sec.jobKeys (bits (d.w 7) 31 0)).key h.serial (bits v 33 32)) = false then
        res Code.authFailed 3 t
      else res Code.done 2 (if bits (d.w 7) 31 0 = 0 then u else u.installKeys p (u.pt p).info.keyId) := by
  subst ht
  simp only [restoreGo, hpresent, hgo, hmember, hvacant, State.logged, hlog, Bool.true_eq_false, one_ne_zero, if_false, if_true, hfind, hcheck]
  split <;> rfl

end

end

/-- Settles O47: a GO is refused by what it names and what it finds, and an accepted one goes by the copy at the buddy. -/
theorem restoreFromBuddy : Obligations.RestoreFromBuddy := by
  unfold Obligations.RestoreFromBuddy
  intro r p v prog wpkg psig wsig h d f hpower hp hpresent hgo
  have row : ∀ held, exec (.restoreGo p v held prog wpkg psig wsig) r =
      .next (restoreGo p v.toNat held prog wpkg psig wsig (r.unstage rMemRestorePtn 0 p)) := fun held =>
    have goes : execRestoreGo p v held prog wpkg psig wsig r = _ := State.live_next hpower (if_neg (Nat.not_le.mpr hp))
    goes
  have hpresent' : (r.unstage rMemRestorePtn 0 p).present p = true := hpresent
  refine ⟨fun hmember => (row _).trans (congrArg _ (restoreGo_notMember hpresent' hgo hmember)),
    fun hmember hvacant => (row _).trans (congrArg _ (restoreGo_occupied hpresent' hgo hmember hvacant)),
    fun hmember hvacant hmounted hworks => ?_⟩
  have hlog : (r.unstage rMemRestorePtn 0 p).canLog = true := (State.canLog_iff _).mpr ⟨hmounted, hworks⟩
  exact ⟨(row _).trans (congrArg _ (restoreGo_noCopy hpresent' hgo hmember hvacant hlog)),
    fun hfind hcheck => (row _).trans (congrArg _ (restoreGo_copy hpresent' hgo hmember hvacant hlog rfl hfind hcheck))⟩

end Sys2Proof.Machine
end

section
/-! PROOF. IDE_KM and TDISP inside an SPDM session: key changes, and the requests about a TDI by its state (O33). -/

namespace Sys2Proof.Machine

section
variable {s : State} {sid k : Nat}

/-- A message inside an established session is served (R498). -/
theorem State.inSession_established (f : State → State) (h : Tbl.find s.sec.spdm.sessions sid = some (true, k)) :
    s.inSession sid f = f s := by
  simp only [State.inSession, h]

/-- So is a TDISP message about a partition's function. -/
theorem State.tdisp_served {fn : Nat} (f : State → State) (h : Tbl.find s.sec.spdm.sessions sid = some (true, k)) (hmin : 1 ≤ fn)
    (hmax : fn ≤ 4) : s.tdisp sid fn f = f s := by
  have named : ¬ (fn = 0 ∨ 4 < fn) := by omega
  rw [State.tdisp, State.inSession_established _ h, if_neg named]

/-- A key change that is in order takes effect with its entry in the log (R518, R521). -/
theorem State.ideChange_accepted {n sub set : Nat} {ok : Bool} (f : State → State) (hlog : s.canLog = true) (hn : n < 9) (hsub : sub < 2)
    (hset : set < 2) (hok : ok = true) :
    s.ideChange n sub set ok f = (f (s.logChange (n * 65536) 2 0 (sub * 2 + set))).answer "KP_ACK" [0] := by
  have inOrder : ¬ (9 ≤ n ∨ 2 ≤ sub ∨ 2 ≤ set ∨ ok = false) := by simp [hok]; omega
  rw [State.ideChange, if_neg inOrder, State.logged, if_pos hlog]
  rfl

end

section
variable {s : State} {fn n : Nat} {nonce : BitVec 256}

/-! ### The lock (R501 to R503) -/

/-- A lock needs a Secure stream associated with the function, and a present partition. -/
theorem lockInterface_refused (hstate : (s.tdi fn).state = 0)
    (h : ideFunction (s.ide n) ≠ some fn ∨ (s.ide n).secure = false ∨ s.present (fn - 1) = false) :
    lockInterface fn n nonce s = s.answer "TDISP_ERROR" [1] := by
  have refused : s.present (fn - 1) = false ∨ n = 0 ∨ 8 < n ∨ ideFunction (s.ide n) ≠ some fn ∨ (s.ide n).secure = false ∨
      s.canLog = false := by
    rcases h with h | h | h <;> simp [h]
  rw [lockInterface, if_neg (not_not.mpr hstate), if_pos refused]

/-- The TDI takes its stream and its nonce, is locked, and takes the log's COUNT and HEAD after the lock's own entry. -/
def State.locked (s : State) (fn n : Nat) (nonce : BitVec 256) : State :=
  let t := { s with sec := { s.sec with tdi := Tbl.set {} s.sec.tdi fn { s.tdi fn with stream := n, nonce := nonce.toNat } } }.setTdi fn 1
  { t with sec := { t.sec with tdi := Tbl.set {} t.sec.tdi fn { t.tdi fn with count := t.log.count, head := t.logHead } } }

theorem lockInterface_locks (hstate : (s.tdi fn).state = 0) (hpresent : s.present (fn - 1) = true) (hmin : 1 ≤ n) (hmax : n ≤ 8)
    (hfunction : ideFunction (s.ide n) = some fn) (hsecure : (s.ide n).secure = true) (hlog : s.canLog = true) :
    lockInterface fn n nonce s = (s.locked fn n nonce).answer "LOCK_INTERFACE_RESPONSE" [nonce.toNat] := by
  have accepted : ¬ (s.present (fn - 1) = false ∨ n = 0 ∨ 8 < n ∨ ideFunction (s.ide n) ≠ some fn ∨ (s.ide n).secure = false ∨
      s.canLog = false) := by
    simp [hpresent, hfunction, hsecure, hlog]
    omega
  rw [lockInterface, if_neg (not_not.mpr hstate), if_neg accepted]
  rfl

/-! ### Running and the report (R502, R503) -/

/-- A locked TDI runs on the lock's nonce, with keys in both sub-streams. -/
theorem startInterface_runs (hstate : (s.tdi fn).state = 1) (hnonce : nonce.toNat = (s.tdi fn).nonce)
    (hkeys : ∀ y < 2, (s.ide (s.tdi fn).stream).keys.any (fun z => z.1 / 2 == y) = true) (hlog : s.canLog = true) :
    startInterface fn nonce s = (s.setTdi fn 2).answer "START_INTERFACE_RESPONSE" [] := by
  have keyed : [0, 1].all (fun sub => (s.ide (s.tdi fn).stream).keys.any fun k => k.1 / 2 == sub) = true := by
    rw [List.all_cons, List.all_cons, hkeys 0 (by decide), hkeys 1 (by decide)]
    rfl
  have runs : ¬ ([0, 1].all (fun sub => (s.ide (s.tdi fn).stream).keys.any fun k => k.1 / 2 == sub) = false ∨ s.canLog = false) := by
    rw [keyed, hlog]
    decide
  exact (if_neg (not_not.mpr hstate)).trans ((if_neg (not_not.mpr hnonce)).trans (if_neg runs))

end

/-- Settles O33: a key change by its log entry, and each request about a TDI by the TDI's state. -/
theorem ideAndTdispResponses : Obligations.IdeAndTdispResponses := by
  unfold Obligations.IdeAndTdispResponses
  intro s sid k fn n sub set off len key iv nonce hpower hsession hlog hmin hmax
  have inSession : ∀ f, s.live (fun s => s.inSession sid f) = .next (f s) := fun f =>
    State.live_next hpower (State.inSession_established f hsession)
  have tdisp : ∀ f, s.live (fun s => s.tdisp sid fn f) = .next (f s) := fun f =>
    State.live_next hpower (State.tdisp_served f hsession hmin hmax)
  have changes := fun ok f hn hsub hset hok =>
    (inSession fun s => s.ideChange n sub set ok f).trans (congrArg _ (State.ideChange_accepted f hlog hn hsub hset hok))
  have integrityFails : execIdeIntegrityFailure n s = .next _ := State.live_on s _ hpower
  refine ⟨inSession _, fun hn hsub hset => ⟨changes true _ hn hsub hset rfl, fun hkeys => changes _ _ hn hsub hset hkeys,
      changes true _ hn hsub hset rfl⟩, integrityFails, tdisp _, tdisp _, tdisp _,
    fun hstate h => (tdisp _).trans (congrArg _ (lockInterface_refused hstate h)),
    fun hstate hpresent h1 h8 hfunction hsecure =>
      (tdisp _).trans (congrArg _ (lockInterface_locks hstate hpresent h1 h8 hfunction hsecure hlog)),
    fun hstate hoff => (tdisp _).trans (congrArg _ ?_),
    fun hstate hnonce hkeys => (tdisp _).trans (congrArg _ (startInterface_runs hstate hnonce hkeys hlog)),
    fun hstate => (tdisp _).trans (congrArg _ ?_), fun hstate => State.live_next hpower (if_pos hstate)⟩
  · have shown : ¬ ((s.tdi fn).state ≠ 1 ∧ (s.tdi fn).state ≠ 2) := by omega
    exact (if_neg shown).trans (if_neg (Nat.not_lt.mpr hoff))
  · simp only [if_neg hstate]

end Sys2Proof.Machine
end

section
/-! PROOF. The operations of SEC_OP: an accepted one is logged, takes effect and reads DONE (O34). -/

namespace Sys2Proof.Machine

section
variable {s : State} {v : W64} {op : Nat}

/-- SEC_OP as a write of `v` leaves it when its operation begins. -/
def State.secTaken (s : State) (v : W64) : State :=
  (((s.unstage rSecOp 0 0).setFld rSecOp 0 0 39 32 (bits v.toNat 39 32)).setFld rSecOp 0 0 31 8 (bits v.toNat 31 8)).setFld rSecOp 0 0 3 0
    (bits v.toNat 3 0)

/-- A write of SEC_OP runs the operation that OP names. -/
theorem State.secOp_runs (f : State → State) (hop : bits v.toNat 3 0 = op) : s.secOp op v f = f (s.secTaken v) := by
  subst hop
  exact if_neg (not_not.mpr rfl)

/-- With power-good that is what the command does. -/
theorem live_secOp {f : State → State} {t : State} (hpower : s.mgmt.powerGood = true) (hop : bits v.toNat 3 0 = op)
    (h : f (s.secTaken v) = t) : (s.live fun s => s.secOp op v f) = .next t :=
  State.live_next hpower ((State.secOp_runs f hop).trans h)

/-- An operation that the log can take is logged, and DONE (R518, R521). -/
theorem State.secLogged_accepted {old new : Nat} {f : State → State} (hlog : s.canLog = true) (hop : bits v.toNat 3 0 = op) :
    s.secLogged op old new f = (f (s.logChange (bits v.toNat 3 0) 1 old new)).secResult Code.done := by
  rw [hop, State.secLogged, State.logged, if_pos hlog]
  exact if_neg one_ne_zero

/-! Each operation's acceptance. -/

theorem fwStage_accepted {img : Bytes} {sig : SigVerdict} (hmin : 1 ≤ secArg v) (hmax : secArg v ≤ 5)
    (hlen : img.length = bits v.toNat 31 8 * 1024) (hsize : 1024 ≤ img.length)
    (henvelope : envelopeOk img (secArg v) sig.sigOk s.firmwareKey = true) (hsvn : s.svn (secArg v) ≤ envSvn img) :
    fwStage v img sig s = s.secLogged 1 0 (bodyDigest img / 2 ^ 192) fun t =>
      let c := s.fw (secArg v)
      let slot := fun (n : Nat) =>
        ({ staging := n, svn := envSvn img, verified := true, digest := BitVec.ofNat 256 (bodyDigest img) } : FwSlot)
      let c := if c.a.staging < c.b.staging then { c with a := slot (c.b.staging + 1) } else { c with b := slot (c.a.staging + 1) }
      let sec := { t.sec with fw := Tbl.put t.sec.fw (secArg v) c }
      { t with sec := if secArg v ≤ 2 then sec.addPairs else sec } := by
  have sized : ¬ (secArg v = 0 ∨ 5 < secArg v ∨ img.length ≠ bits v.toNat 31 8 * 1024 ∨ img.length < 1024) := by omega
  exact (if_neg sized).trans ((if_neg (by rw [henvelope]; decide)).trans (if_neg (Nat.not_lt.mpr hsvn)))

theorem jobkeyLoad_accepted {blob kb : Bytes} (hblob : Config.unwrapJobKey blob = some kb) (hlen : blob.length = 384)
    (hkey : kb.length = 48) (hmin : 1 ≤ bfld kb 32 1) (hmax : bfld kb 32 1 ≤ 63) (hrest : leNat (kb.drop 34) = 0)
    (hfree : s.handleUsed (bfld kb 32 1) = false) :
    jobkeyLoad blob s =
      s.secLogged 3 (match Tbl.find s.sec.jobKeys (bfld kb 32 1) with | some e => bfld kb 32 1 * 16 + e.mask | none => 0)
        (bfld kb 32 1 * 16 + bfld kb 33 1 % 16) fun t =>
        { t with sec := { t.sec with
          jobKeys := Tbl.put t.sec.jobKeys (bfld kb 32 1) { key := beNat (kb.take 32), mask := bfld kb 33 1 % 16 } } } := by
  have sound : ¬ (blob.length ≠ 384 ∨ kb.length ≠ 48 ∨ bfld kb 32 1 = 0 ∨ 63 < bfld kb 32 1 ∨ leNat (kb.drop 34) ≠ 0) := by omega
  simp only [jobkeyLoad, hblob, if_neg sound, hfree, Bool.false_eq_true, if_false] <;> rfl

end

/-- Settles O34: an operation runs when OP names it, is accepted by its own tests, and is then logged, carried out and DONE. -/
theorem securityOperations : Obligations.SecurityOperations := by
  unfold Obligations.SecurityOperations
  intro s v hash blob img sig kb hpower
  refine ⟨fun hlog => ⟨fun hop hmin hmax hlen hsize henvelope hsvn => live_secOp hpower hop ?_,
      fun hop hmin hmax hnewer => live_secOp hpower hop ?_,
      fun hop hblob hlen hkey hmin hmax hrest hfree => live_secOp hpower hop ?_,
      fun hop hmin hmax hfree => live_secOp hpower hop ?_, fun hop hmax => live_secOp hpower hop ?_,
      fun hop hmax => live_secOp hpower hop ?_⟩,
    fun hop hmin hmax hcount hkept => live_secOp hpower hop ?_, ?_⟩
  · exact (fwStage_accepted hmin hmax hlen hsize henvelope hsvn).trans (State.secLogged_accepted hlog hop)
  · have newer : ¬ (secArg v = 0 ∨ 5 < secArg v ∨ ((s.secTaken v).fw (secArg v)).newer = false) := by
      have hnewer : ((s.secTaken v).fw (secArg v)).newer = true := hnewer
      simp only [hnewer, Bool.true_eq_false, or_false, not_or, Nat.not_lt]
      exact ⟨Nat.ne_of_gt hmin, hmax⟩
    exact (if_neg newer).trans (State.secLogged_accepted hlog hop)
  · exact (jobkeyLoad_accepted hblob hlen hkey hmin hmax hrest hfree).trans (State.secLogged_accepted hlog hop)
  · have named : ¬ (secArg v = 0 ∨ 63 < secArg v) := not_or.mpr ⟨Nat.ne_of_gt hmin, Nat.not_lt.mpr hmax⟩
    have free : ¬ (s.secTaken v).handleUsed (secArg v) = true := Bool.eq_false_iff.mp hfree
    exact (if_neg named).trans ((if_neg free).trans (State.secLogged_accepted hlog hop))
  · exact (if_neg (Nat.not_lt.mpr hmax)).trans (State.secLogged_accepted hlog hop)
  · exact (if_neg (Nat.not_lt.mpr hmax)).trans (State.secLogged_accepted hlog hop)
  · have kept : ¬ (bits v.toNat 31 8 = 0 ∨ 65536 < bits v.toNat 31 8 ∨
        (s.secTaken v).log.count < (s.secTaken v).rd rSecOpArg2 0 0 + bits v.toNat 31 8 ∨
        (s.secTaken v).rd rSecOpArg2 0 0 + (s.secTaken v).log.entries.length < (s.secTaken v).log.count) :=
      not_or.mpr ⟨Nat.ne_of_gt hmin, not_or.mpr ⟨Nat.not_lt.mpr hmax, not_or.mpr ⟨Nat.not_lt.mpr hcount, Nat.not_lt.mpr hkept⟩⟩⟩
    exact if_neg kept
  · have reads : execSecLogCountRead s = .next _ := State.live_on s _ hpower
    exact reads

end Sys2Proof.Machine
end

section
/-! PROOF. Link authentication at a port: each message by the stage that it finds and what it must match (O35). -/

namespace Sys2Proof.Machine

section
variable {s : State} {n : Nat} {share : Bytes} {a b : Bool} {svn : Nat}

/-- What a key exchange must keep (R517): the chain as announced, a public value of its length, the signature, the chain's root, fused
versions no lower than the local ones, and a local key to answer with. -/
def State.KexKeeps (s : State) (n : Nat) (share : Bytes) (a b : Bool) (svn : Nat) : Prop :=
  (s.lauth n).chain.length = (s.lauth n).len ∧ beNat (sha256 (s.lauth n).chain) = (s.lauth n).hash ∧ share.length = 384 ∧ a = true ∧
    b = true ∧ (∀ c ∈ [1, 2, 3, 4, 5], s.svn c ≤ bits svn (8 * c + 7) (8 * c)) ∧ s.sec.hasAlias = true

/-- A version is too low where not every one is high enough. -/
theorem any_svn_lt_iff : ([1, 2, 3, 4, 5].any fun c => decide (bits svn (8 * c + 7) (8 * c) < s.svn c)) = true ↔
    ¬ ∀ c ∈ [1, 2, 3, 4, 5], s.svn c ≤ bits svn (8 * c + 7) (8 * c) := by
  simp only [List.any_eq_true, decide_eq_true_eq, not_forall, Nat.not_le, exists_prop]

/-- A key exchange fails the port unless it keeps all of that. -/
theorem authKex_fails_iff : ((s.lauth n).chain.length ≠ (s.lauth n).len ∨ beNat (sha256 (s.lauth n).chain) ≠ (s.lauth n).hash ∨
      share.length ≠ 384 ∨ a = false ∨ b = false ∨
      ([1, 2, 3, 4, 5].any fun c => decide (bits svn (8 * c + 7) (8 * c) < s.svn c)) = true ∨ s.sec.hasAlias = false) ↔
    ¬ s.KexKeeps n share a b svn := by
  rw [any_svn_lt_iff, State.KexKeeps]
  simp only [not_and_or, Bool.not_eq_true]

end

section
variable {s : State} {n : Nat} (hstate : s.pstate n = PS.authenticating)
include hstate

/-- The next chunk of the chain that was announced is kept. -/
theorem exec_authCert_next {chunk : Nat} {data : Bytes} (hpower : s.mgmt.powerGood = true) (hstage : (s.lauth n).stage = 1)
    (hchunk : chunk * 256 = (s.lauth n).chain.length) (hsize : data.length ≤ 256)
    (hlen : (s.lauth n).chain.length + data.length ≤ (s.lauth n).len) :
    exec (.authCert n chunk data) s = .next (s.upLauth n fun y => { y with chain := y.chain ++ data }) := by
  have next : ¬ (s.pstate n ≠ PS.authenticating ∨ (s.lauth n).stage ≠ 1 ∨ chunk * 256 ≠ (s.lauth n).chain.length ∨ 256 < data.length ∨
      (s.lauth n).len < (s.lauth n).chain.length + data.length) := by
    simp [hstate, hstage, hchunk, hsize, hlen]
  have kept : execAuthCert n chunk data s = .next _ := State.live_next hpower (if_neg next)
  exact kept

section
variable {share : Bytes} {a b : Bool} {svn : Nat} (hstage : (s.lauth n).stage = 1)
include hstage

theorem authKex_answers (h : s.KexKeeps n share a b svn) :
    authKex n share a b svn s =
      let t := s.upLauth n fun y => { y with stage := 2, share := share, draw := s.free }
      let r := { t with free := t.free + 1 }.freshW64
      r.2.emit (.message "AUTH_KEX" n (byteNats (Config.kexShare s.free) ++ [r.1.toNat])) := by
  have awaited : ¬ (s.pstate n ≠ PS.authenticating ∨ (s.lauth n).stage ≠ 1) := by simp [hstate, hstage]
  exact (if_neg awaited).trans (if_neg ((authKex_fails_iff).not.mpr (not_not.mpr h)))

theorem authKex_fails (h : ¬ s.KexKeeps n share a b svn) : authKex n share a b svn s = s.linkAuthFailed n := by
  have awaited : ¬ (s.pstate n ≠ PS.authenticating ∨ (s.lauth n).stage ≠ 1) := by simp [hstate, hstage]
  exact (if_neg awaited).trans (if_pos ((authKex_fails_iff).mpr h))

end

section
variable {mac : BitVec 256} (hstage : (s.lauth n).stage = 2)
include hstage

/-- The peer's finish with the transcript's MAC brings the port UP. -/
theorem authFinish_up (hmac : mac.toNat = s.finishMac n) :
    authFinish n mac s =
      let t := s.emit (.message "AUTH_FINISH" n [s.finishMac n])
      let t := t.upLauth n fun y => { tAuth := beNat (sha256 (s.transcript n)), peer := Config.chainSerial y.chain }
      let t := t.upPort n fun q => { q with txCtr := 0, rxCtr := 0, rxLast := [], auth := (0, 0), ready := [] }
      let t := t.upPort n fun q =>
        { q with keys := Tbl.put q.keys 4 (t.mgmtKeys n (Config.linkSecret (s.lauth n).share (s.lauth n).draw)) }
      ((t.reinstallKeys n).portUp n (t.port n).lanes).announceAt n := by
  have awaited : ¬ (s.pstate n ≠ PS.authenticating ∨ (s.lauth n).stage ≠ 2) := by simp [hstate, hstage]
  have transcript : (s.emit (.message "AUTH_FINISH" n [s.finishMac n])).transcript n = s.transcript n := rfl
  simp only [authFinish, if_neg awaited, hmac, ne_eq, not_true_eq_false, if_false, transcript]

/-- One without fails it. -/
theorem authFinish_fails (hmac : mac.toNat ≠ s.finishMac n) : authFinish n mac s = s.linkAuthFailed n := by
  have awaited : ¬ (s.pstate n ≠ PS.authenticating ∨ (s.lauth n).stage ≠ 2) := by simp [hstate, hstage]
  exact (if_neg awaited).trans (if_pos hmac)

end

end

/-- Settles O35: each message of the authentication acts at its stage, and fails the port where it does not match. -/
theorem linkAuthentication : Obligations.LinkAuthentication := by
  unfold Obligations.LinkAuthentication
  intro s n chunk len nonce hash mac data share svn a b hpower hstate
  have hello : execAuthHello n nonce hash len s = .next _ := State.live_next hpower (if_neg (not_not.mpr hstate))
  refine ⟨hello,
    fun hstage hchunk hsize hlen => exec_authCert_next hstate hpower hstage hchunk hsize hlen,
    fun hstage h => State.live_next hpower (authKex_answers hstate hstage h),
    fun hstage h => State.live_next hpower (authKex_fails hstate hstage h),
    fun hstage hmac => State.live_next hpower (authFinish_up hstate hstage hmac),
    fun hstage hmac => State.live_next hpower (authFinish_fails hstate hstage hmac)⟩

end Sys2Proof.Machine
end

section
/-! PROOF. The brake and the ladder of power states (O54), and a write of PWR_LIMITS (O55). -/

namespace Sys2Proof.Machine

section
variable {s : State} {p : Nat}

/-! ### The ladder (R529 to R534) -/

theorem exec_l1Entry_enters (hpower : s.mgmt.powerGood = true) (hpresent : s.present p = true) (hl : s.lstate p = 0) (hdepth : 1 ≤ s.maxDepth p)
    (hquiet : 16 ≤ (s.ladder p).quiet) : exec (.l1Entry p) s = .next (s.setL p 1) :=
  have enters : execL1Entry p s = .next _ := State.live_next hpower (if_pos ⟨hpresent, hl, hdepth, hquiet⟩)
  enters

theorem exec_l2Entry_enters (hpower : s.mgmt.powerGood = true) (hl : s.lstate p = 1) (hdepth : 2 ≤ s.maxDepth p) (hdozes : s.dozes p = true)
    (hdelay : s.fld rPwrPtnState 0 p 23 16 * 2 ^ 20 ≤ s.since (s.ladder p).since) : exec (.l2Entry p) s = .next (s.setL p 2) :=
  have enters : execL2Entry p s = .next _ := State.live_next hpower (if_pos ⟨hl, hdepth, hdozes, hdelay⟩)
  enters

/-- L3 drops the caches of the partition's pages (R530). -/
theorem exec_l3Entry_enters (hpower : s.mgmt.powerGood = true) (hl : s.lstate p = 2) (hdepth : s.maxDepth p = 3) (hdozes : s.dozes p = true)
    (hdelay : s.fld rPwrPtnState 0 p 31 24 * 2 ^ 20 ≤ s.since (s.ladder p).since) :
    exec (.l3Entry p) s = .next ((s.setL p 3).dropLines fun x => x / 3221225472 / s.k == p) :=
  have enters : execL3Entry p s = .next _ := State.live_next hpower (if_pos ⟨hl, hdepth, hdozes, hdelay⟩)
  enters

theorem exec_wake_wakes (hpower : s.mgmt.powerGood = true) (hpresent : s.present p = true) (hl : s.lstate p = 2 ∨ s.lstate p = 3) :
    exec (.wake p) s = .next (s.setL p 1) :=
  have wakes : execWake p s = .next _ := State.live_next hpower (if_pos ⟨hpresent, hl⟩)
  wakes

/-- A MAX_DEPTH of 0 keeps the partition in L0. -/
theorem exec_entry_undeep (hpower : s.mgmt.powerGood = true) (hdepth : s.maxDepth p = 0) :
    exec (.l1Entry p) s = .next s ∧ exec (.l2Entry p) s = .next s ∧ exec (.l3Entry p) s = .next s :=
  have l1 : execL1Entry p s = .next s := State.live_next hpower (if_neg fun h => by simp [hdepth] at h)
  have l2 : execL2Entry p s = .next s := State.live_next hpower (if_neg fun h => by simp [hdepth] at h)
  have l3 : execL3Entry p s = .next s := State.live_next hpower (if_neg fun h => by simp [hdepth] at h)
  ⟨l1, l2, l3⟩

end

/-- Settles O54: each entry by its conditions, and without depth none of them. -/
theorem powerLadder : Obligations.PowerLadder := by
  unfold Obligations.PowerLadder
  intro s p hpower
  have brakes : execBrakeAssert s = .next _ := State.live_on s _ hpower
  have releases : execBrakeRelease s = .next _ := State.live_on s _ hpower
  exact ⟨brakes, releases, exec_l1Entry_enters hpower, exec_l2Entry_enters hpower, exec_l3Entry_enters hpower, exec_wake_wakes hpower,
    exec_entry_undeep hpower⟩

/-! ### PWR_LIMITS (R540) -/

section
variable {s : State} {v : Nat}

/-- The limits that a write of PWR_LIMITS may have: in order, and within their reset values. -/
def LimitsInOrder (pl1 pl2 fast : Nat) : Prop := 1400 ≤ pl1 ∧ pl1 ≤ pl2 ∧ pl2 ≤ fast ∧ pl1 ≤ 2800 ∧ pl2 ≤ 3300 ∧ fast ≤ 3600

theorem pwrLimitsWrite_refused (h : ¬ LimitsInOrder (bits v 15 0) (bits v 31 16) (bits v 47 32)) :
    pwrLimitsWrite v s = s.setFld rPwrLimits 0 0 63 48 Code.invalidOperand := by
  rw [LimitsInOrder] at h
  exact if_pos (by omega)

theorem pwrLimitsWrite_accepted (h : LimitsInOrder (bits v 15 0) (bits v 31 16) (bits v 47 32)) (hlog : s.canLog = true) :
    pwrLimitsWrite v s =
      (((s.logChange 0x100000 0 (s.fld rPwrLimits 0 0 47 0) (bits v 47 0)).setFld rPwrLimits 0 0 47 0 v).setFld rPwrLimits 0 0 63 48
        Code.done).noteSetting 0x100000 := by
  rw [LimitsInOrder] at h
  exact (if_neg (by omega)).trans (State.logged_accepted _ _ _ _ _ _ hlog)

end

/-- Settles O55: a write is accepted exactly with its limits in order. -/
theorem powerLimitsWrite : Obligations.PowerLimitsWrite := by
  unfold Obligations.PowerLimitsWrite
  intro s v hpower
  have writes : execPwrLimitsWrite v s = .next (pwrLimitsWrite v.toNat (s.unstage rPwrLimits 0 0)) := State.live_on s _ hpower
  exact ⟨fun h => writes.trans (congrArg _ (pwrLimitsWrite_refused h)),
    fun h hmounted hworks => writes.trans (congrArg _ (pwrLimitsWrite_accepted h ((State.canLog_iff _).mpr ⟨hmounted, hworks⟩)))⟩

end Sys2Proof.Machine
end

section
/-! PROOF. Bring-up: what a row of a running phase ends with, phase by phase (O56). -/

namespace Sys2Proof.Machine

/-! ### Registers that a write leaves as they are -/

/-- Removing a higher key leaves what a lower one lists. -/
theorem Tbl.find_del_above {α : Type} {j k : Nat} {v : α} (hj : j < k) :
    ∀ t : Tbl α, Tbl.find t j = some v → Tbl.find (Tbl.del t k) j = some v
  | [], h => h
  | (a, w) :: t, h => by
    rw [Tbl.find] at h
    rw [Tbl.del]
    split_ifs at h with hja hlt
    · have hka : ¬ k < a := by omega
      have hne : ¬ k = a := by omega
      rw [if_neg hka, if_neg hne, Tbl.find, if_pos hja, h]
    · split_ifs with hka hke
      · rw [Tbl.find, if_neg hja, if_neg hlt, h]
      · omega
      · rw [Tbl.find, if_neg hja, if_neg hlt, Tbl.find_del_above hj t h]

/-- A register that is listed keeps its value when a higher one is written. -/
theorem State.find_regs_wr_above {s : State} {r : RegSpec} {fn i v j : Nat} {w : W64} (hj : j < r.key fn i)
    (h : Tbl.find s.regs j = some w) : Tbl.find (s.wr r fn i v).regs j = some w := by
  unfold State.wr
  split
  · exact Tbl.find_del_above hj _ h
  · exact (Tbl.find_put_ne _ _ _ _ (Nat.ne_of_lt hj)).trans h

/-! ### The row of a phase -/

section
variable {s : State} {n : Nat}

/-- The register of a phase that runs is listed: its reset value is that of a phase which has not begun. -/
theorem State.phase_listed (h : s.phase 1 = 1) : ∃ w, Tbl.find s.regs (rMgtBuPhase.key 0 0) = some w ∧ bits w.toNat 63 60 = 1 := by
  unfold State.phase State.fld State.rd at h
  split at h
  next w hw => exact ⟨w, hw, h⟩
  next => exact absurd h (by decide)

/-- Revoking keys leaves phase 1 running. -/
theorem State.phase_revokeKeys (h : s.phase 1 = 1) : s.revokeKeys.phase 1 = 1 := by
  obtain ⟨w, hw, hrun⟩ := State.phase_listed h
  have kept : Tbl.find s.revokeKeys.regs (rMgtBuPhase.key 0 0) = some w :=
    State.find_regs_wr_above (r := rSecStatus) (by decide) hw
  unfold State.phase State.fld State.rd
  rw [kept]
  exact hrun

/-- The row of a phase that runs ends it with the RESULT of its work. -/
theorem State.phaseRow_runs (f : State → State × Nat) (h : s.phase n = 1) : s.phaseRow n f = ((f s).1.endPhase n (f s).2).advance :=
  if_neg (not_not.mpr h)

theorem live_phaseRow {f : State → State × Nat} (hpower : s.mgmt.powerGood = true) (h : s.phase n = 1) {t : State} {result : Nat}
    (hf : f s = (t, result)) : (s.live fun s => s.phaseRow n f) = .next (t.endPhase n result).advance :=
  State.live_next hpower (by rw [State.phaseRow_runs f h, hf])

/-- With power-good the row's effect is that of a phase which runs, by a test of what the work has found. -/
theorem live_phaseRow_ite {f : State → State × Nat} {c : Prop} [Decidable c] (hpower : s.mgmt.powerGood = true) (h : s.phase n = 1)
    {t u : State} {m k : Nat} (hf : f s = if c then (t, m) else (u, k)) :
    (s.live fun s => s.phaseRow n f) = if c then .next (t.endPhase n m).advance else .next (u.endPhase n k).advance := by
  by_cases hc : c
  · rw [if_pos hc] at hf ⊢
    exact live_phaseRow hpower h hf
  · rw [if_neg hc] at hf ⊢
    exact live_phaseRow hpower h hf

/-- The row of a phase that does not run has no effect. -/
theorem live_phaseRow_rests (f : State → State × Nat) (hpower : s.mgmt.powerGood = true) (h : s.phase n ≠ 1) :
    (s.live fun s => s.phaseRow n f) = .next s :=
  State.live_next hpower (if_pos h)

/-! ### Phase 1 (R491 to R495) -/

section
variable {slots : List (FwSlot × FwSlot)} (hphase : s.phase 1 = 1) (hslots : slots.length = 5)
include hphase hslots

/-- Without a slot to boot for some class, the boot fails. -/
theorem rootOfTrust_fails {ok : Bool} (hboot : bootAll s.svn 1 slots = none) :
    rootOfTrust slots ok s = ((s.setFld rMgtBuPhase 0 0 63 60 4).bootCause 1 1).bootState := by
  simp only [rootOfTrust, hphase, hslots, ne_eq, not_true_eq_false, or_self, if_false, hboot]

/-- The classes have booted as `fw`, and the module has the key it signs with. -/
def State.booted (s : State) (fw : Tbl FwClass) : State :=
  let t := { s with sec := { s.sec with fw := fw, hasAlias := true } }
  let pair := (t.fwDigest 1, t.fwDigest 2)
  let u := { t with sec := { t.sec with pairs := if t.sec.pairs.contains pair then t.sec.pairs else pair :: t.sec.pairs } }
  let fall := fw.foldl (fun v (e : Nat × FwClass) => if e.2.older then v + 2 ^ (e.1 - 1) else v) 0
  (u.setFld rSecStatus 0 0 11 7 fall).setFld rSecStatus 0 0 1 0 (if fall = 0 then 1 else 2)

/-- With a slot for each class it ends phase 1. -/
theorem rootOfTrust_boots {fw : Tbl FwClass} (hboot : bootAll s.svn 1 slots = some fw) (hrun : (s.booted fw).phase 1 = 1) :
    rootOfTrust slots true s = ((s.booted fw).revokeKeys.endPhase 1 2).advance := by
  rw [← State.phaseRow_runs (fun s => (s, 2)) (State.phase_revokeKeys hrun)]
  simp only [rootOfTrust, hphase, hslots, ne_eq, not_true_eq_false, or_self, if_false, hboot, if_true, Bool.true_eq_false]
  rfl

end

/-! ### Phase 5 (R556) -/

/-- Without a carrier the store does not mount. -/
theorem storeMount_absent {m : MountIn} (h : s.boot.carrier = none) : storeMount m s = (s.bootCause 5 2, 4) := by
  simp only [storeMount, h]

/-- A carrier that keeps every check mounts. -/
theorem storeMount_mounts {c : CarrierIn} {m : MountIn} (h : s.boot.carrier = some c) (hcarrier : carrierOk c = true)
    (hdigest : c.bbmDigest.toNat = beNat ((c.bytes.drop 0x30).take 32)) (henergy : 120 ≤ m.energy * 100 / 140) (hjournal : m.journalOk = true) :
    storeMount m s = ((holdupTest m.energy { s with store := { s.store with heldUp := s.mgmt.beat } }).mountStore c m, 2) := by
  simp only [storeMount, h, hcarrier, hdigest, ne_eq, not_true_eq_false, if_neg (Nat.not_lt.mpr henergy), hjournal, Bool.true_eq_false,
    if_false]

end

/-- Settles O56: each row by the phase that runs and by what its work finds. -/
theorem bringUpPhases : Obligations.BringUpPhases := by
  unfold Obligations.BringUpPhases
  intro s slot slots fw ok carrier near failed gone cores dies m found
  refine ⟨fun hpower hstandby => ?_, fun hpower => ⟨fun hstaggered hbeat => ?_, fun hphase hslots => ⟨fun hboot => ?_, fun hboot t ht hrun => ?_⟩,
    fun hphase => ?_, fun hphase => ?_, fun hphase => ?_, fun hphase => ⟨fun hcarrier => ?_, fun c hcarrier hok hdigest henergy hjournal => ?_⟩,
    fun hphase => ?_, fun hphase => ?_, fun hphase => ?_, fun hphase => ?_, fun hphase => ?_⟩⟩
  · have starts : ¬ (s.mgmt.powerGood = true ∨ s.mgmt.standby = true) := by simp [hpower, hstandby]
    exact congrArg _ (if_neg starts)
  · have released : ¬ (s.mgmt.staggered = true ∨ s.mgmt.sincePg < s.fld rMgtBringup 0 0 35 16) := by simp [hstaggered, hbeat]
    have row : execStaggerRelease s = .next _ := State.live_next hpower (if_neg released)
    exact row
  · exact State.live_next hpower (rootOfTrust_fails hphase hslots hboot)
  · subst ht
    exact State.live_next hpower (rootOfTrust_boots hphase hslots hboot hrun)
  · exact live_phaseRow hpower hphase rfl
  · exact live_phaseRow hpower hphase rfl
  · exact live_phaseRow_ite hpower hphase rfl
  · exact live_phaseRow hpower hphase (storeMount_absent hcarrier)
  · exact live_phaseRow hpower hphase (storeMount_mounts hcarrier hok hdigest henergy hjournal)
  · exact live_phaseRow_ite hpower hphase rfl
  · refine State.live_next hpower ((if_pos hphase).trans ?_)
    exact State.phaseRow_runs _ hphase
  · exact live_phaseRow hpower hphase rfl
  · exact live_phaseRow hpower hphase rfl
  · exact live_phaseRow_rests _ hpower hphase

end Sys2Proof.Machine
end

section
/-! PROOF. The hive and the apiary: each message and each end by the phase that runs and by what has been heard (O57). -/

namespace Sys2Proof.Machine

section
variable {s : State} {port : Nat}

/-! ### The hive (R561) -/

/-- The members heard once a hello's set has joined those heard before. -/
def State.heardWith (s : State) (set : Tbl Nat) : Tbl Nat :=
  set.foldl (fun t (e : Nat × Nat) => if e.1 < 16 then Tbl.put t e.1 e.2 else t) s.boot.heard

/-- The set of a hello at a port joins those heard, and is what the port's peer reports. -/
def State.met (s : State) (port : Nat) (set : Tbl Nat) : State :=
  s.upBoot fun b => { b with heard := s.heardWith set, reports := Tbl.put b.reports port set }

section
variable {serial pos : Nat} {heard : List (W64 × Nat)} (hup : s.pup port = true) (hport : port < 15) (hpos : pos < 16)
include hup hport hpos

/-- A hello is heard at a mesh port that is UP, of a position in the hive. -/
theorem hello_heard : ¬ (s.pup port = false ∨ 15 ≤ port ∨ 16 ≤ pos) := by
  simp [hup, hport, hpos]

/-- News is told on while the hive forms. -/
theorem hiveHello_news (hnew : s.heardWith (helloSet serial pos heard) ≠ s.boot.heard) (hbegun : s.phase 10 ≠ 0)
    (hforms : s.phaseOver 10 = false) :
    hiveHello port serial pos heard s = (s.met port (helloSet serial pos heard)).sendHellos := by
  have news : ¬ (s.heardWith (helloSet serial pos heard) = s.boot.heard ∨ (s.met port (helloSet serial pos heard)).phase 10 = 0) :=
    not_or.mpr ⟨hnew, hbegun⟩
  have forms : ¬ (s.met port (helloSet serial pos heard)).phaseOver 10 = true := Bool.eq_false_iff.mp hforms
  exact (if_neg (hello_heard hup hport hpos)).trans ((if_neg news).trans (congrArg State.sendHellos (if_neg forms)))

theorem hiveHello_known (hold : s.heardWith (helloSet serial pos heard) = s.boot.heard) :
    hiveHello port serial pos heard s = s.met port (helloSet serial pos heard) :=
  (if_neg (hello_heard hup hport hpos)).trans (if_pos (Or.inl hold))

end

/-- The hive ends when its members agree or 2 s have passed; until the mask is fixed it is taken from what has been heard. -/
theorem hive_ends (hphase : s.phase 10 = 1) (hover : s.hiveAgrees = true ∨ s.fld rMgtBuPhase 0 9 31 0 + 488281 ≤ s.mgmt.sincePg)
    (hfixed : s.boot.hiveFixed = false) :
    hive s =
      let lead := (lowest s.boot.heard).getD 0
      let members := s.boot.heard.foldl (fun m (e : Nat × Nat) => m + 2 ^ e.1) 0
      let t := { s with boot := { s.boot with leader := lead, hiveFixed := s.leads lead }, mgmt := { s.mgmt with members := members } }
      let told := (List.range 15).foldl (fun (t : State) n =>
        if t.pup n then t.sendMgmt n Msg.hiveFormed [lead, members] else t) t
      let u := if t.leads lead then told else t
      (u.endPhase 10 2).advanceHive.bootState := by
  have ends : ¬ (s.phase 10 ≠ 1 ∨ (s.hiveAgrees = false ∧ s.mgmt.sincePg < s.fld rMgtBuPhase 0 9 31 0 + 488281)) := by
    rcases hover with h | h
    · simp [hphase, h]
    · simp [hphase, Nat.not_lt.mpr h]
  simp only [hive, if_neg ends, hfixed, Bool.false_eq_true, if_false]

theorem hive_waits (hagree : s.hiveAgrees = false) (hbeat : s.mgmt.sincePg < s.fld rMgtBuPhase 0 9 31 0 + 488281) : hive s = s :=
  if_pos (Or.inr ⟨hagree, hbeat⟩)

/-- The leader's mask is final. -/
theorem hiveFormedIn_fixes {leader mask : Nat} (hphase : s.phase 10 = 1) (hfixed : s.boot.hiveFixed = false) :
    hiveFormedIn leader mask s =
      { s with boot := { s.boot with leader := leader, hiveFixed := true }, mgmt := { s.mgmt with members := mask } } := by
  have open_ : ¬ (s.phase 10 = 0 ∨ s.phase 10 = 5 ∨ s.boot.hiveFixed) := by simp [hphase, hfixed]
  exact if_neg open_

/-! ### The election (R562) -/

section
variable {serial hops : Nat} (hup : s.pup port = true) (helected : s.boot.elected = false)
include hup helected

theorem election_heard : ¬ (s.pup port = false ∨ s.boot.elected = true) := by simp [hup, helected]

theorem apiaryElect_known (hcand : s.boot.cand = some (minSerial serial s.boot.cand)) : apiaryElect port serial hops s = s :=
  (if_neg (election_heard hup helected)).trans (if_pos hcand)

/-- A lower serial becomes the candidate, and is told on in phase 11. -/
theorem apiaryElect_lower (hcand : s.boot.cand ≠ some (minSerial serial s.boot.cand)) :
    apiaryElect port serial hops s =
      let t := s.upBoot fun b => { b with cand := some (minSerial serial s.boot.cand), candBeat := s.mgmt.sincePg }
      if t.phase 11 = 1 then t.sendElect (hops + 1) port else t :=
  (if_neg (election_heard hup helected)).trans (if_neg hcand)

end

/-- The election ends when the candidate has not changed for 680 ms. -/
theorem electionEnd_ends (hphase : s.phase 11 = 1) (helected : s.boot.elected = false)
    (hbeat : s.boot.candBeat + 166016 ≤ s.mgmt.sincePg) :
    electionEnd s =
      let t := (s.upBoot fun b => { b with elected := true, origin := b.cand.getD b.leader }).originRef
      if t.boot.origin = t.boot.leader then t.takeCoords 0 0 torusPortList else t := by
  have over_ : ¬ (s.phase 11 ≠ 1 ∨ s.boot.elected ∨ s.mgmt.sincePg < s.boot.candBeat + 166016) := by
    simp [hphase, helected, hbeat]
  exact if_neg over_

/-! ### Coordinates (R562) -/

section
variable {origin x y : Nat} (hup : s.pup port = true) (hphase : s.phase 11 ≠ 5)
include hup hphase

theorem coords_heard : ¬ (s.pup port = false ∨ s.phase 11 = 5) := by simp [hup, hphase]

/-- The first coordinates received give the hive its own. -/
theorem apiaryCoord_first (hcoords : s.boot.coords = none) (helected : s.boot.elected = true) :
    apiaryCoord port origin x y s =
      s.takeCoords (impliedCoords port x y).1 (impliedCoords port x y).2 ((List.range 25).erase port) := by
  simp only [apiaryCoord, if_neg (coords_heard hup hphase), hcoords, helected, if_true]

theorem apiaryCoord_same (hcoords : s.boot.coords = some (impliedCoords port x y)) : apiaryCoord port origin x y s = s := by
  simp only [apiaryCoord, if_neg (coords_heard hup hphase), hcoords, if_true]

/-- Others at a torus port fail it. -/
theorem apiaryCoord_other {old : Nat × Nat} (hcoords : s.boot.coords = some old) (hne : impliedCoords port x y ≠ old) (hport : 15 ≤ port) :
    apiaryCoord port origin x y s = s.cableFail port 11 0x0b := by
  simp only [apiaryCoord, if_neg (coords_heard hup hphase), hcoords, if_neg hne, if_pos hport]

end

/-- The apiary ends with LNK_ADDR VALID. -/
theorem apiary_ends {x y : Nat} (hphase : s.phase 11 = 1) (hcoords : s.boot.coords = some (x, y)) :
    apiary s = ((s.setAddr x y s.pos).endPhase 11 2).announce.advanceHive.bootState := by
  simp only [apiary, hcoords, hphase, ne_eq, not_true_eq_false, if_false]

/-! ### The reference (R563, R564) -/

/-- A neighbour's adoption is noted. -/
def State.noteNeighbour (s : State) (port : Nat) (adopted : Bool) : State :=
  s.upBoot fun b => { b with nbrs := if adopted then port :: b.nbrs.erase port else b.nbrs.erase port }

section
variable {origin ref addr : Nat} {adopted : Bool} (hup : s.pup port = true)
include hup

theorem apiaryState_unformed : apiaryState port false origin ref addr adopted s = s.noteNeighbour port adopted := by
  simp only [apiaryState, hup, Bool.true_eq_false, if_false, if_true, State.noteNeighbour]

/-- A new reference is taken; after phase 11 the module chooses its REF_PORT again and tells it on. -/
theorem apiaryState_formed (hcoords : s.boot.coords.isSome = true) (href : s.boot.refAddr ≠ some addr) :
    apiaryState port true origin ref addr adopted s =
      let u := (s.noteNeighbour port adopted).upBoot fun b => { b with ref := ref, refAddr := some addr }
      if s.phaseOver 11 ∧ s.phase 11 ≠ 5 then u.chooseRef.announce else u := by
  have settled : ¬ (((s.noteNeighbour port adopted).boot.coords.isNone && !(s.noteNeighbour port adopted).phaseOver 11 &&
      !(s.noteNeighbour port adopted).boot.elected) = true) := by
    obtain ⟨c, hc⟩ := Option.isSome_iff_exists.mp hcoords
    have kept : (s.noteNeighbour port adopted).boot.coords = some c := hc
    simp [kept]
  have fresh : ¬ ((s.noteNeighbour port adopted).boot.refAddr = some addr ∧ (s.noteNeighbour port adopted).boot.ref = ref) :=
    fun h => href h.1
  rw [State.noteNeighbour] at *
  simp only [apiaryState, hup, Bool.true_eq_false, if_false, if_neg settled, if_neg fresh]
  rfl

end

end

/-- Settles O57: each message and each end by the phase that runs and by what has been heard. -/
theorem hiveAndApiary : Obligations.HiveAndApiary := by
  unfold Obligations.HiveAndApiary
  intro s port pos hops x y serial origin ref heard mask addr adopted hpower
  refine ⟨fun hup hport hpos hnew hbegun hforms => State.live_next hpower (hiveHello_news hup hport hpos hnew hbegun hforms),
    fun hup hport hpos hold => State.live_next hpower (hiveHello_known hup hport hpos hold),
    fun hphase hover hfixed => State.live_next hpower (hive_ends hphase hover hfixed),
    fun hphase hagree hbeat => State.live_next hpower (hive_waits hagree hbeat),
    fun hphase hfixed => State.live_next hpower (hiveFormedIn_fixes hphase hfixed),
    fun hup helected => ⟨fun hcand => State.live_next hpower (apiaryElect_known hup helected hcand),
      fun hcand => State.live_next hpower (apiaryElect_lower hup helected hcand)⟩,
    fun hphase helected hbeat => State.live_next hpower (electionEnd_ends hphase helected hbeat),
    fun hup hphase => ⟨fun hcoords helected => State.live_next hpower (apiaryCoord_first hup hphase hcoords helected),
      fun hcoords => State.live_next hpower (apiaryCoord_same hup hphase hcoords),
      fun old hcoords hne hport => State.live_next hpower (apiaryCoord_other hup hphase hcoords hne hport)⟩,
    fun hphase hcoords => State.live_next hpower (apiary_ends hphase hcoords),
    fun hup hcoords => ⟨State.live_next hpower (apiaryState_unformed hup), fun href hforms => State.live_next hpower ?_,
      fun href hformed hphase => State.live_next hpower ?_⟩,
    fun hphase hadopted => State.live_next hpower (if_pos ⟨hphase, hadopted⟩),
    fun hadopted => State.live_next hpower (if_neg fun h => Bool.eq_false_iff.mp hadopted h.2)⟩
  · exact (apiaryState_formed hup hcoords href).trans (if_neg fun h => Bool.eq_false_iff.mp hforms h.1)
  · exact (apiaryState_formed hup hcoords href).trans (if_pos ⟨hformed, hphase⟩)

end Sys2Proof.Machine
end

section
/-! PROOF. Lanes, ports, spares, harnesses, port states and key slots: each command by the state of its port (O49). -/

namespace Sys2Proof.Machine

/-! ### The mask of lanes that meet the peer's (R371) -/

/-- The sum of the powers of two that `b` names below `n`. -/
def maskOf (b : Nat → Bool) (n : Nat) : Nat := (List.range n).foldl (fun m i => if b i then m + 2 ^ i else m) 0

theorem maskOf_succ (b : Nat → Bool) (n : Nat) : maskOf b (n + 1) = if b n then maskOf b n + 2 ^ n else maskOf b n := by
  simp only [maskOf, List.range_succ, List.foldl_append, List.foldl_cons, List.foldl_nil]

theorem maskOf_lt (b : Nat → Bool) (n : Nat) : maskOf b n < 2 ^ n := by
  induction n with
  | zero => exact Nat.one_pos
  | succ n ih =>
    rw [maskOf_succ, Nat.pow_succ]
    split <;> omega

/-- Its bits are those that `b` names. -/
theorem testBit_maskOf (b : Nat → Bool) {n i : Nat} (hi : i < n) : (maskOf b n).testBit i = b i := by
  induction n with
  | zero => exact absurd hi (Nat.not_lt_zero i)
  | succ n ih =>
    rw [maskOf_succ]
    rcases Nat.lt_succ_iff_lt_or_eq.mp hi with hlt | rfl
    · split
      · rw [Nat.add_comm, Nat.testBit_two_pow_add_gt hlt, ih hlt]
      · exact ih hlt
    · have above := Nat.testBit_lt_two_pow (maskOf_lt b i)
      split
      next h => rw [Nat.add_comm, Nat.testBit_two_pow_add_eq, above, h]; rfl
      next h => rw [above, Bool.eq_false_iff.mpr h]

/-- Lane `i` is in the mask of a port where the peer's lane that meets it is in the peer's mask. -/
theorem State.getLsbD_nearMask (s : State) (n : Nat) (mask : BitVec 8) {i : Nat} (hi : i < 8) :
    (s.nearMask n mask).getLsbD i = mask.getLsbD (s.farOf n i) := by
  have bits : s.nearMask n mask = BitVec.ofNat 8 (maskOf (fun i => mask.getLsbD (s.farOf n i)) 8) := rfl
  rw [bits, BitVec.getLsbD_ofNat, testBit_maskOf _ hi, decide_eq_true hi, Bool.true_and]

section
variable {s : State} {n : Nat}

/-! ### Lanes and retraining (R385, R386) -/

theorem laneFailed_marks {lane : Nat} (hdown : s.pstate n ≠ 0) (hfailed : s.pstate n ≠ 5) (hidle : s.pstate n ≠ 6)
    (hworks : s.fld rLnkPStatus 0 n (16 + lane) (16 + lane) = 0) :
    laneFailed n lane s =
      let t := s.setFld rLnkPStatus 0 n (16 + lane) (16 + lane) 1
      if t.working n < 4 then t.failPort n else t.retrain n := by
  have works : ¬ (s.pstate n = PS.down ∨ s.pstate n = PS.failed ∨ s.pstate n = PS.spareIdle ∨
      s.fld rLnkPStatus 0 n (16 + lane) (16 + lane) = 1) := by
    simp [PS.down, PS.failed, PS.spareIdle, hdown, hfailed, hidle, hworks]
  exact if_neg works

section
variable (hpower : s.mgmt.powerGood = true) (hstate : s.pstate n = 4)
include hpower hstate

/-- The ends agree on the lanes that work at both, and on the counter of the peer's first flit. -/
theorem exec_laneMap_agrees (mask : BitVec 8) (ctr : W64) :
    exec (.laneMap n mask ctr) s = .next (s.upPort n fun q => { q with
      agreed := s.nearMask n mask &&& s.workingLanes n, rxCtr := ctr.toNat - 1 }) :=
  have row : execLaneMap n mask ctr s = .next _ := State.live_next hpower (if_pos hstate)
  row

/-- A retraining ends UP at the agreed width, if it ends in time with four lanes. -/
theorem exec_retrainingDone_ends (inTime : Bool) :
    exec (.retrainingDone n inTime) s = .next (if inTime = true ∧ 4 ≤ ones 8 (s.port n).agreed.toNat then s.portUp n (s.port n).agreed
      else s.failPort n) :=
  have row : execRetrainingDone n inTime s = .next _ := State.live_next hpower (if_neg (not_not.mpr hstate))
  row

end

/-! ### Spares and harnesses (R386, R558, R582) -/

/-- A FAILED port runs on its spare's SerDes; one that has not authenticated since power-good trains on it first. -/
theorem exec_spareTakeoverDone_runs {k : Nat} {ctr : W64} (hpower : s.mgmt.powerGood = true)
    (hspare : ([23, 24] : List Nat).find? (fun k => s.standsFor k == n) = some k) (hstate : s.pstate n = 5) :
    exec (.spareTakeoverDone ⟨n, ctr⟩) s = .next (
      let t := (s.setFld rLnkPStatus 0 n 30 26 k).setFld rLnkPStatus 0 n 23 16 0
      if (Tbl.get {} t.sec.auth n).tAuth = 0 then t.setPState n PS.training
      else (t.upPort n fun q => { q with rxCtr := ctr.toNat - 1 }).portUp n 0xff) := by
  have row : execSpareTakeoverDone ⟨n, ctr⟩ s = .next _ := State.live_on s _ hpower
  refine row.trans (congrArg _ ?_)
  simp only [hspare]
  exact if_neg (not_not.mpr hstate)

section
variable (hn : n < 25) (hover : s.phaseOver 3 = true)
include hn hover

theorem harness_heeded : ¬ (25 ≤ n ∨ s.phaseOver 3 = false) := by simp [hn, hover]

/-- A harness that passes trains a port that is not in use. -/
theorem harnessMate_trains {h : Harness} {t : State} (ht : t = s.upBoot fun b => { b with harness := Tbl.put b.harness n h })
    (hphase : t.phase 7 ≠ 0) (hstate : s.pstate n = 0 ∨ s.pstate n = 5 ∨ s.pstate n = 6) (hpasses : t.harnessPasses n h = true) :
    harnessMate n (some h) s = t.setPState n PS.training := by
  subst ht
  have idle : ¬ (s.pstate n ≠ PS.down ∧ s.pstate n ≠ PS.failed ∧ s.pstate n ≠ PS.spareIdle) := by
    rw [PS.down, PS.failed, PS.spareIdle]
    omega
  simp only [harnessMate, if_neg (harness_heeded hn hover), if_neg hphase, if_neg idle, if_pos hpasses]

/-- A port whose harness is unmated in use goes through FAILED. -/
theorem harnessMate_unmated {t : State} (ht : t = s.upBoot fun b => { b with harness := Tbl.del b.harness n })
    (hphase : t.phase 7 ≠ 0) (hdown : s.pstate n ≠ 0) (hidle : s.pstate n ≠ 6) : harnessMate n none s = t.failPort n := by
  subst ht
  have used : ¬ (s.pstate n = PS.down ∨ s.pstate n = PS.spareIdle) := not_or.mpr ⟨hdown, hidle⟩
  simp only [harnessMate, if_neg (harness_heeded hn hover), if_neg hphase, if_neg used]

end

/-! ### The state of other modules' ports, and what a FAILED port held (R389, R390) -/

theorem portStateIn_news {origin : Nat} {up : Bool} (horigin : origin ≠ s.addr) (hnews : s.links.down.contains (origin * 32 + n) = up) :
    portStateIn origin n up s =
      let down := if up then s.links.down.filter (· ≠ origin * 32 + n) else (origin * 32 + n) :: s.links.down
      ({ s with links := { s.links with down := down } }).flood origin n up 25 :=
  if_neg (not_or.mpr ⟨horigin, not_not.mpr hnews⟩)

theorem portStateIn_known {origin : Nat} {up : Bool} (h : origin = s.addr ∨ s.links.down.contains (origin * 32 + n) ≠ up) :
    portStateIn origin n up s = s :=
  if_pos h

theorem resync_relays {fseq : Nat} (hstate : s.pstate n = 5) (h23 : s.standsFor 23 ≠ n) (h24 : s.standsFor 24 ≠ n) :
    resync n fseq s =
      let q := (s.port n).acked fseq
      (q.unsent.filter fun x => !portOwn x.2).reverse.foldl (fun t x => t.relay n x.1 true true x.2)
        (s.upPort n fun _ => { q with replay := [], sent := 0, queue := [], cur := none, lead := [], part := [] }) := by
  have alone : ¬ (s.pstate n ≠ PS.failed ∨ s.standsFor 23 = n ∨ s.standsFor 24 = n) := by simp [PS.failed, hstate, h23, h24]
  exact if_neg alone

end

/-- Settles O49: each command by the state of its port; the near mask bit by bit. -/
theorem portRows : Obligations.PortRows := by
  unfold Obligations.PortRows
  intro s n lane slot fseq mask ctr keyId origin up h hpower
  refine ⟨fun hn hlane hdown hfailed hidle hworks => ?_, fun hstate => exec_laneMap_agrees hpower hstate mask ctr,
    fun i hi => s.getLsbD_nearMask n mask hi, fun hstate hw => ?_, fun hstate hw => ?_, fun hstate => ?_, fun hn hdown hidle => ?_,
    fun k hspare hstate => exec_spareTakeoverDone_runs hpower hspare hstate,
    fun hn hover hbegun => ⟨fun hphase hstate hpasses => State.live_next hpower ?_, fun hphase hdown hidle =>
      State.live_next hpower (harnessMate_unmated hn hover rfl hphase hdown hidle)⟩,
    fun horigin hnews => State.live_next hpower (portStateIn_news horigin hnews),
    fun h => State.live_next hpower (portStateIn_known h),
    fun hstate h23 h24 => State.live_next hpower (resync_relays hstate h23 h24), ?_, ?_⟩
  · have row : execLaneFailed n lane s = .next (laneFailed n lane s) := State.live_next hpower (if_pos ⟨hn, hlane⟩)
    exact row.trans (congrArg _ (laneFailed_marks hdown hfailed hidle hworks))
  · exact (exec_retrainingDone_ends hpower hstate true).trans (congrArg _ (if_pos ⟨rfl, hw⟩))
  · exact (exec_retrainingDone_ends hpower hstate true).trans (congrArg _ (if_neg fun h => Nat.not_le.mpr hw h.2))
  · exact (exec_retrainingDone_ends hpower hstate false).trans (congrArg _ (if_neg fun h => Bool.false_ne_true h.1))
  · have row : execPortFailed n s = .next _ := State.live_next hpower (if_pos ⟨hn, hdown, hidle⟩)
    exact row
  · exact harnessMate_trains hn hover rfl hphase hstate hpasses
  · have row : execKeyReady n slot keyId s = .next _ := State.live_on s _ hpower
    exact row
  · have row : execKeyRetire n slot s = .next _ := State.live_on s _ hpower
    exact row

end Sys2Proof.Machine
end

section
/-! PROOF. Collective groups and communication queues: a hello by the group that it names, an enable by what it asks and finds (O50). -/

namespace Sys2Proof.Machine

section
variable {s : State} {p g q : Nat}

/-! ### Hellos (R405) -/

section
variable {h : Hello} (hp : h.dptn = p) (hpresent : s.present p = true)
include hp hpresent

/-- A hello that names no enabled group is kept. -/
theorem groupHello_kept (hfind : ((List.range 64).find? fun k => s.grpOn p k && s.grpTag p k == h.tag.toNat) = none) :
    groupHello h s = s.upCol p fun c => { c with hellos := c.hellos ++ [h] } := by
  subst hp
  simp only [groupHello, hpresent, Bool.true_eq_false, if_false, hfind]

/-- One without a rollback target goes to the group that it names. -/
theorem groupHello_matched (htarget : h.target = 0)
    (hfind : ((List.range 64).find? fun k => s.grpOn p k && s.grpTag p k == h.tag.toNat) = some g) :
    groupHello h s = s.matchHello p g h := by
  subst hp
  simp only [groupHello, hpresent, Bool.true_eq_false, if_false, hfind, htarget, ne_eq, not_true_eq_false, false_and]

end

/-- A hello of the group's shape and key is heard. -/
theorem State.matchHello_same {h : Hello} (hsame : h.shape.toNat = bits (s.rd rColGrpShape (p + 1) g) 47 16 ∧ h.keyId.toNat = s.keyId p) :
    s.matchHello p g h = (s.upGrp p g fun y => { y with
      heard := (h.src.toNat, h.sptn, h.group) :: y.heard.filter fun z => z.1 ≠ h.src.toNat }).checkReady p g :=
  if_neg fun hdiffer => hdiffer.elim (fun hshape => hshape hsame.1) fun hkey => hkey hsame.2

/-- Another fails a group that forms or is READY. -/
theorem State.matchHello_differs {h : Hello} (hstate : s.grpState p g = 1 ∨ s.grpState p g = 2)
    (hdiffer : ¬ (h.shape.toNat = bits (s.rd rColGrpShape (p + 1) g) 47 16 ∧ h.keyId.toNat = s.keyId p)) :
    s.matchHello p g h = s.setGrp p g 3 :=
  (if_pos (not_and_or.mp hdiffer)).trans (if_pos hstate)

/-! ### An enable of a group (R404) -/

section
variable {v : Nat} (hpresent : s.present p = true) (htdi : s.tdiOpen (p + 1) = true)
include hpresent htdi

theorem grpWrite_heeded : ¬ (s.present p = false ∨ s.tdiOpen (p + 1) = false) := by simp [hpresent, htdi]

/-- Of an enabled group only EN may change: it stays, or is held by a queue, or the group is disabled. -/
theorem colGrpWrite_on (hon : s.grpOn p g = true) :
    colGrpWrite p g v s =
      if bits v 63 63 = 1 then s.grpResult p g Code.done
      else if s.grpUsed p g then s.grpResult p g Code.resourceHeld
      else
        let t := (s.setFld rColGrpShape (p + 1) g 63 63 0).setGrp p g 0
        ((t.upGrp p g fun _ => {}).setFld rColGrpStatus (p + 1) g 47 20 0).grpResult p g Code.done :=
  (if_neg (grpWrite_heeded hpresent htdi)).trans (if_pos hon)

section
variable {t : State} (ht : t = s.setFld rColGrpShape (p + 1) g 47 0 v) (hoff : s.grpOn p g = false) (hen : bits v 63 63 = 1)
include ht hoff hen

/-- A shape without members, or without this one, is refused. -/
theorem colGrpWrite_shapeless (hshape : (shapeOf v).mask = 0 ∨ (shapeOf v).has t.addr = false) :
    colGrpWrite p g v s = t.grpResult p g Code.invalidOperand := by
  subst ht
  have set : ¬ bits v 63 63 = 0 := by rw [hen]; decide
  simp only [colGrpWrite, if_neg (grpWrite_heeded hpresent htdi), hoff, Bool.false_eq_true, if_false, if_neg set, if_pos hshape]

/-- An enable fixes the shape, and the group begins to form. -/
theorem colGrpWrite_forms (hmask : (shapeOf v).mask ≠ 0) (hhas : (shapeOf v).has t.addr = true) (hjob : (t.pt p).job = .running)
    (hkey : (t.pt p).info.keyId ≠ 0)
    (htag : ((List.range 64).any fun k => k != g && t.grpOn p k && t.grpTag p k == bits v 15 0) = false) :
    colGrpWrite p g v s =
      let u := (t.setFld rColGrpShape (p + 1) g 63 63 1).grpResult p g Code.done
      ((u.setFld rColGrpStatus (p + 1) g 47 35 (shapeOf v).size).setFld rColGrpStatus (p + 1) g 31 20
        ((shapeOf v).rank u.addr)).formGroup p g 0 := by
  subst ht
  have set : ¬ bits v 63 63 = 0 := by rw [hen]; decide
  have shaped : ¬ ((shapeOf v).mask = 0 ∨ (shapeOf v).has (s.setFld rColGrpShape (p + 1) g 47 0 v).addr = false) := by
    simp only [hmask, hhas, Bool.true_eq_false, or_self, not_false_eq_true]
  have keyed : ¬ (((s.setFld rColGrpShape (p + 1) g 47 0 v).pt p).job = .noJob ∨
      ((s.setFld rColGrpShape (p + 1) g 47 0 v).pt p).job = .opening ∨
      ((s.setFld rColGrpShape (p + 1) g 47 0 v).pt p).info.keyId = 0) := by
    simp only [hjob, hkey, reduceCtorEq, or_self, not_false_eq_true]
  simp only [colGrpWrite, if_neg (grpWrite_heeded hpresent htdi), hoff, Bool.false_eq_true, if_false, if_neg set, if_neg shaped, if_neg keyed,
    htag]

end

end

/-! ### An enable of a queue (R407) -/

/-- A queue whose entries lie in the scratchpad is enabled empty on an enabled group. -/
theorem colCqWrite_enables {v : Nat} {t : State} (hpresent : s.present p = true) (htdi : s.tdiOpen (p + 1) = true)
    (hoff : s.fld rColCqCfg (p + 1) q 63 63 = 0) (hen : bits v 63 63 = 1) (hmin : 4 ≤ bits v 60 56) (hmax : bits v 60 56 ≤ 12)
    (halign : bits v 31 0 % 64 = 0)
    (ht : t = ((s.setFld rColCqCfg (p + 1) q 60 56 (bits v 60 56)).setFld rColCqCfg (p + 1) q 53 48 (bits v 53 48)).setFld
      rColCqCfg (p + 1) q 31 0 v)
    (hfits : bits v 31 0 + 64 + 2 ^ bits v 60 56 * 64 ≤ t.scratchSize p) (hgroup : t.grpOn p (bits v 53 48) = true) :
    colCqWrite p q v s =
      let u := (((t.setFld rColCqCfg (p + 1) q 63 63 1).setCqWord p q 1 0).setCqWord p q 2 0).setCqWord p q 3 0
      ((u.setFld rColCqStatus (p + 1) q 47 32 0).setFld rColCqStatus (p + 1) q 1 0 1).cqResult p q Code.done := by
  have heeded : ¬ (s.present p = false ∨ s.tdiOpen (p + 1) = false) := grpWrite_heeded hpresent htdi
  have off : ¬ s.fld rColCqCfg (p + 1) q 63 63 = 1 := by rw [hoff]; decide
  have set : ¬ bits v 63 63 = 0 := by rw [hen]; decide
  have fits : ¬ (bits v 60 56 < 4 ∨ 12 < bits v 60 56 ∨ bits v 31 0 % 64 ≠ 0 ∨ t.scratchSize p < bits v 31 0 + 64 + 2 ^ bits v 60 56 * 64) := by
    simp only [Nat.not_lt.mpr hmin, Nat.not_lt.mpr hmax, halign, Nat.not_lt.mpr hfits, ne_eq, not_true_eq_false, or_self, not_false_eq_true]
  have grouped : ¬ t.grpOn p (bits v 53 48) = false := by rw [hgroup]; decide
  subst ht
  simp only [colCqWrite, if_neg heeded, if_neg off, if_neg set, if_neg fits, if_neg grouped]

/-- A write of TAIL makes the link engine take entries. -/
theorem exec_commQueueTailWrite_takes (tail : W64) (hpower : s.mgmt.powerGood = true) (hpresent : s.present p = true)
    (hon : s.fld rColCqCfg (p + 1) q 63 63 = 1) :
    exec (.commQueueTailWrite p q tail) s = .next ((s.setCqWord p q 0 tail.toNat).takeEntries 64 p q) :=
  have on : ¬ (s.present p = false ∨ s.fld rColCqCfg (p + 1) q 63 63 = 0) := by simp [hpresent, hon]
  have row : execCommQueueTailWrite p q tail s = .next _ := State.live_next hpower (if_neg on)
  row

end

/-- Settles O50: a hello goes by the group that its TAG names, an enable by what it asks and finds. -/
theorem groupsAndCommunicationQueues : Obligations.GroupsAndCommunicationQueues := by
  unfold Obligations.GroupsAndCommunicationQueues
  intro s h p g q v tail hpower hpresent
  have writes : exec (.colGrpEnWrite p g v) s = .next (colGrpWrite p g v.toNat (s.unstage rColGrpShape (p + 1) g)) :=
    have row : execColGrpEnWrite p g v s = .next _ := State.live_on s _ hpower
    row
  refine ⟨fun hp hfind => State.live_next hpower (groupHello_kept hp hpresent hfind), fun hp htarget hfind => ⟨fun hsame => ?_,
      fun hdiffer hstate => ?_⟩,
    fun hstate hwarned hsince => State.live_next hpower (if_pos ⟨hstate, hwarned, hsince⟩),
    fun htdi hon => ?_, fun htdi hoff hen => ⟨fun hshape => ?_, fun hmask hhas hjob hkey htag => ?_⟩,
    fun htdi hoff hen hmin hmax halign hfits hgroup => ?_, fun hon => exec_commQueueTailWrite_takes tail hpower hpresent hon⟩
  · exact State.live_next hpower ((groupHello_matched hp hpresent htarget hfind).trans (State.matchHello_same hsame))
  · exact State.live_next hpower ((groupHello_matched hp hpresent htarget hfind).trans (State.matchHello_differs hstate hdiffer))
  · have on := colGrpWrite_on (s := s.unstage rColGrpShape (p + 1) g) (v := v.toNat) hpresent htdi hon
    refine ⟨fun hen => ?_, fun hen hused => ?_, fun hen hfree => ?_⟩
    · exact writes.trans (congrArg _ (on.trans (if_pos hen)))
    · have cleared : ¬ bits v.toNat 63 63 = 1 := by rw [hen]; decide
      exact writes.trans (congrArg _ (on.trans ((if_neg cleared).trans (if_pos hused))))
    · have cleared : ¬ bits v.toNat 63 63 = 1 := by rw [hen]; decide
      exact writes.trans (congrArg _ (on.trans ((if_neg cleared).trans (if_neg (Bool.eq_false_iff.mp hfree)))))
  · exact writes.trans (congrArg _ (colGrpWrite_shapeless (s := s.unstage rColGrpShape (p + 1) g) hpresent htdi rfl hoff hen hshape))
  · exact writes.trans (congrArg _ (colGrpWrite_forms (s := s.unstage rColGrpShape (p + 1) g) hpresent htdi rfl hoff hen hmask hhas hjob hkey htag))
  · have row : execColCqEnWrite p q v s = .next (colCqWrite p q v.toNat (s.unstage rColCqCfg (p + 1) q)) := State.live_on s _ hpower
    exact row.trans (congrArg _ (colCqWrite_enables (s := s.unstage rColCqCfg (p + 1) q) hpresent htdi hoff hen hmin hmax halign rfl hfits
      hgroup))

end Sys2Proof.Machine
end

section
/-! PROOF. Waggles and data collectives: a start in its turn, and a message by the waggle that runs (O52). -/

namespace Sys2Proof.Machine

section
variable {s : State} {p : Nat} {o : COp}

/-! ### Waggles (R415 to R418) -/

/-- The operation's waggle begins with these lanes: its first round goes out. -/
def State.wagBegins (s : State) (p : Nat) (o : COp) (lanes : List W64) : State :=
  let g := s.cqGroup p o.q
  let w : Wag := { gen := o.ord, func := o.func, lanes := lanes }
  let u := s.upOp p o.q o.n fun x => { x with armed := some s.mgmt.beat, wag := w }
  u.opWag p o (u.wagStart p g w (u.grp p g).held)

section
variable (hord : o.ord = (s.grp p (s.cqGroup p o.q)).wagDone)
include hord

/-- A BARRIER takes no lanes from SRC. -/
theorem wagStartOp_barrier (hfunc : o.func = 0) :
    wagStartOp p s o = s.wagBegins p o (List.replicate (Nat.max 1 (Nat.min 8 o.lanes)) 0) := by
  simp only [wagStartOp, hord, hfunc, ne_eq, not_true_eq_false, if_false, if_true, List.map_const', List.length_range, State.wagBegins]

/-- Another waggle takes its lanes from SRC, where they read correctable. -/
theorem wagStartOp_lanes (hfunc : o.func ≠ 0) (hgood : rangeBad 8 (s.pt p).live.slmBad [(o.src, 8 * o.lanes)] = []) :
    wagStartOp p s o =
      s.wagBegins p o ((List.range o.lanes).map fun i => BitVec.ofNat 64 ((s.pt p).live.slm.rdLe (o.src + 8 * i) 8)) := by
  simp only [wagStartOp, hord, hfunc, ne_eq, not_true_eq_false, if_false, hgood, State.wagBegins]

end

/-- A waggle that starts goes to its own work. -/
theorem live_wagRow_starts {q n func : Nat} (hpower : s.mgmt.powerGood = true) (h : s.opStarts p q n o) (hop : o.op = 0x10)
    (hfunc : o.func = func) : (s.live fun s => s.wagRow p q n func) = .next (wagStartOp p s o) :=
  live_opRow_starts hpower h (fun o => o.op == 0x10 && o.func == func) (wagStartOp p) (by simp [hop, hfunc])

/-! ### A message for a waggle (R417, R418) -/

section
variable {g : Nat} {m : WagMsg} (hpresent : s.present p = true)
include hpresent

section
variable {u : State} (hown : m.own = false) (hmin : (s.grp p g).wagDone ≤ m.gen) (hmax : m.gen ≤ (s.grp p g).wagDone + 1)
  (hu : u = s.upGrp p g fun x => { x with held := x.held ++ [m] })
include hown hmin hmax hu

/-- A message is held for its round. -/
theorem waggleMessage_held
    (hruns : ((u.pt p).col.ops.find? fun x => u.cqGroup p x.q == g && x.op == 0x10 && x.armed.isSome && !x.done && x.ready.isNone) = none) :
    waggleMessage p g m s = u := by
  subst hu
  have awaited : ¬ (m.gen < (s.grp p g).wagDone ∨ (s.grp p g).wagDone + 1 < m.gen) := by omega
  simp only [waggleMessage, hpresent, hown, Bool.true_eq_false, Bool.false_eq_true, if_false, if_neg awaited, hruns]

/-- The rounds of the waggle that runs go on as far as they can, unless its timeout is due. -/
theorem waggleMessage_runs
    (hruns : ((u.pt p).col.ops.find? fun x => u.cqGroup p x.q == g && x.op == 0x10 && x.armed.isSome && !x.done && x.ready.isNone) = some o)
    (hdue : u.opDue o = false) :
    waggleMessage p g m s = u.opWag p o (u.wagRun 4 p g o.wag (u.grp p g).held) := by
  subst hu
  have awaited : ¬ (m.gen < (s.grp p g).wagDone ∨ (s.grp p g).wagDone + 1 < m.gen) := by omega
  simp only [waggleMessage, hpresent, hown, Bool.true_eq_false, Bool.false_eq_true, if_false, if_neg awaited, hruns, hdue]

end

section
variable (hown : m.own = true)
include hown

/-- A message of an own waggle that is over is discarded (R448). -/
theorem waggleMessage_ownOver (hgen : m.gen < (s.pt p).col.ownGen) : waggleMessage p g m s = s := by
  simp only [waggleMessage, hpresent, hown, Bool.true_eq_false, if_false, if_true, hgen]

section
variable {u : State} (hgen : (s.pt p).col.ownGen ≤ m.gen) (hu : u = s.upCol p fun c => { c with ownHeld := c.ownHeld ++ [m] })
include hgen hu

theorem waggleMessage_ownHeld (hidle : (s.pt p).col.own = none) : waggleMessage p g m s = u := by
  subst hu
  simp only [waggleMessage, hpresent, hown, Bool.true_eq_false, if_false, if_true, if_neg (Nat.not_lt.mpr hgen), hidle]

theorem waggleMessage_ownRuns {w : Wag} (hruns : (s.pt p).col.own = some w) :
    waggleMessage p g m s = (u.wagRun 4 p g w (u.pt p).col.ownHeld).own p g := by
  subst hu
  simp only [waggleMessage, hpresent, hown, Bool.true_eq_false, if_false, if_true, if_neg (Nat.not_lt.mpr hgen), hruns]

end

end

end

/-! ### Data collectives (R421, R422) -/

/-- Is it a packet of operation `o`'s turn? -/
def COp.ofTurn (o : COp) (m : Packet) : Bool := match m.coll with
  | some (k, _) => k == o.ord
  | none => false

/-- Is it a packet of another turn? -/
def COp.notOfTurn (o : COp) (m : Packet) : Bool := match m.coll with
  | some (k, _) => k != o.ord
  | none => false

/-- The operation's collective goes on from `t`, where its pages are ready: `copy` is copied to DST, what is read is pinned, the steps go as far as
what has come allows, and the packets that came early land. -/
def State.collGo (t : State) (p : Nat) (o : COp) (g : Nat) (reads : List (Nat × Nat)) (copy : List (Nat × Nat × Nat)) : State :=
  let u := copy.foldl (fun (u : State) (x : Nat × Nat × Nat) =>
    if x.1 = x.2.1 then u else (u.dvWrite p (bwrites x.2.1 (u.dvRead p x.1 x.2.2))).1) t
  let u := (pagesOf reads).foldl (fun u n => u.pinUnit p n false) u
  let o' := { o with armed := some u.mgmt.beat, pins := pagesOf reads }
  let mine := (u.grp p g).early.filter o.ofTurn
  let u := u.upGrp p g fun x => { x with early := x.early.filter o.notOfTurn }
  mine.foldl (fun u m => u.collLand p o' m) (u.colRun 8 p o')

/-- What a collective reads of SRC, where it is of rank `r`, a chunk has `cb` bytes and the whole `n`. -/
def COp.reads (o : COp) (r cb n : Nat) : List (Nat × Nat) := match o.op with
  | 0x22 => [(o.src + r * cb, cb)]
  | 0x23 => if r = o.peer then [(o.src, n)] else []
  | _ => [(o.src, n)]

/-- What it copies from SRC to DST. -/
def COp.copies (o : COp) (r cb n : Nat) : List (Nat × Nat × Nat) := match o.op with
  | 0x24 => [(o.src + r * cb, o.dst + r * cb, cb)]
  | 0x22 => [(o.src + r * cb, o.dst + r * cb, cb)]
  | 0x23 => if r = o.peer then [(o.src, o.dst, n)] else []
  | _ => [(o.src, o.dst, n)]

section
variable {r cb n : Nat}

/-- ALLGATHER reads its own chunk of SRC. -/
theorem COp.reads_allgather (hop : o.op = 0x22) : o.reads r cb n = [(o.src + r * cb, cb)] := by
  simp only [COp.reads, hop]

/-- ALLGATHER copies its own chunk to its place in DST. -/
theorem COp.copies_allgather (hop : o.op = 0x22) : o.copies r cb n = [(o.src + r * cb, o.dst + r * cb, cb)] := by
  simp only [COp.copies, hop]

/-- ALLTOALL keeps its own chunk. -/
theorem COp.copies_alltoall (hop : o.op = 0x24) : o.copies r cb n = [(o.src + r * cb, o.dst + r * cb, cb)] := by
  simp only [COp.copies, hop]

end

/-- A collective meets what its pages' check answers. -/
def COp.meets (o : COp) (p g : Nat) (reads : List (Nat × Nat)) (copy : List (Nat × Nat × Nat)) : OpPages → State
  | .stop t c => t.finishOp p o c
  | .wait t => t
  | .ready t => t.collGo p o g reads copy

section
variable {r cb n : Nat} (hr : r = (s.grpShape p (s.cqGroup p o.q)).rank s.addr) (hcb : cb = s.chunkElems p o * esize o.dt)
  (hn : n = o.count * esize o.dt)
include hr hcb hn

/-- A collective in its turn checks the pages it reads and those of DST. -/
theorem collStart_meets (hord : o.ord = (s.grp p (s.cqGroup p o.q)).colDone) :
    collStart p s o = o.meets p (s.cqGroup p o.q) (o.reads r cb n) (o.copies r cb n)
      (s.opPages p (unitOfOp o.q o.n) (pagesOf (o.reads r cb n)) (pagesOf [(o.dst, n)]) (o.reads r cb n)) := by
  subst hr hcb hn
  rw [collStart, if_neg (not_not.mpr hord)]
  rfl

/-- A collective that starts in its turn goes on from the state in which its pages are ready. -/
theorem live_collRow_goes {t : State} {q k op : Nat} {reads : List (Nat × Nat)} {copy : List (Nat × Nat × Nat)}
    (hpower : s.mgmt.powerGood = true) (h : s.opStarts p q k o) (hord : o.ord = (s.grp p (s.cqGroup p o.q)).colDone) (hop : o.op = op)
    (hreads : o.reads r cb n = reads) (hcopy : o.copies r cb n = copy)
    (hready : s.opPages p (unitOfOp o.q o.n) (pagesOf reads) (pagesOf [(o.dst, n)]) reads = .ready t) :
    (s.live fun s => s.collRow p q k op) = .next (t.collGo p o (s.cqGroup p o.q) reads copy) := by
  have start : collStart p s o = t.collGo p o (s.cqGroup p o.q) reads copy := by
    rw [collStart_meets hr hcb hn hord, hreads, hcopy, hready, COp.meets]
  rw [← start]
  exact live_opRow_starts hpower h (fun o => o.op == op) (collStart p) (by simp [hop])

end

end

/-- Settles O52: a waggle and a data collective that start in their turn, and a waggle's messages, by the row's own case. -/
theorem wagglesAndDataCollectives : Obligations.WagglesAndDataCollectives := by
  intro s t p q n o m hpower g
  refine ⟨fun h hop hord => ⟨fun hfunc => ?_, fun f row hrow hfunc hgood => ?_⟩,
    fun hpresent hown hmin hmax => ⟨fun hruns => ?_, fun hruns hdue => ?_⟩,
    fun hpresent hown => ⟨fun hgen => ?_, fun hgen hidle => ?_, fun w hgen hruns => ?_⟩,
    fun h hord => ⟨fun hop hready => ?_, fun hop hready => ?_, fun hop hready => ?_, fun hop hr hready => ?_,
      fun hop hr hready => ?_, fun hop hready => ?_⟩⟩
  · exact (live_wagRow_starts hpower h hop hfunc).trans (congrArg _ (wagStartOp_barrier hord hfunc))
  · have started (hne : o.func ≠ 0) : (s.live fun s => s.wagRow p q n o.func) = .next (s.wagBegins p o _) :=
      (live_wagRow_starts hpower h hop rfl).trans (congrArg _ (wagStartOp_lanes hord hne hgood))
    simp only [List.mem_cons, Prod.mk.injEq, List.not_mem_nil, or_false] at hrow
    rw [hfunc] at started
    rcases hrow with ⟨rfl, rfl⟩ | ⟨rfl, rfl⟩ | ⟨rfl, rfl⟩ | ⟨rfl, rfl⟩ | ⟨rfl, rfl⟩ | ⟨rfl, rfl⟩
    all_goals exact started (by decide)
  · exact (State.live_on s _ hpower).trans (congrArg _ (waggleMessage_held hpresent hown hmin hmax rfl hruns))
  · exact (State.live_on s _ hpower).trans (congrArg _ (waggleMessage_runs hpresent hown hmin hmax rfl hruns hdue))
  · exact (State.live_on s _ hpower).trans (congrArg _ (waggleMessage_ownOver hpresent hown hgen))
  · exact (State.live_on s _ hpower).trans (congrArg _ (waggleMessage_ownHeld hpresent hown hgen rfl hidle))
  · exact (State.live_on s _ hpower).trans (congrArg _ (waggleMessage_ownRuns hpresent hown hgen rfl hruns))
  · exact live_collRow_goes rfl rfl rfl hpower h hord hop (by simp only [COp.reads, hop]) (by simp only [COp.copies, hop]) hready
  · exact live_collRow_goes rfl rfl rfl hpower h hord hop (by simp only [COp.reads, hop]) (by simp only [COp.copies, hop]) hready
  · exact live_collRow_goes rfl rfl rfl hpower h hord hop (COp.reads_allgather hop) (COp.copies_allgather hop) hready
  · exact live_collRow_goes rfl rfl rfl hpower h hord hop (by simp only [COp.reads, hop]; exact if_pos hr)
      (by simp only [COp.copies, hop]; exact if_pos hr) hready
  · exact live_collRow_goes rfl rfl rfl hpower h hord hop (by simp only [COp.reads, hop]; exact if_neg hr)
      (by simp only [COp.copies, hop]; exact if_neg hr) hready
  · exact live_collRow_goes rfl rfl rfl hpower h hord hop (by simp only [COp.reads, hop]) (COp.copies_alltoall hop) hready

end Sys2Proof.Machine
end
